-- ==== Sys2Proof/Word.lean ====
section
/-! DEFINITION. The machine's word types (R4, R50): bytes, 32-bit register lanes, 64-bit scalars and
addresses, and masks with one bit per lane of a wave. -/

namespace Sys2Proof

/-- One byte of memory (R4). -/
abbrev Byte := BitVec 8

/-- A 32-bit register lane, a predicate register or a format register (R50). -/
abbrev Word := BitVec 32

/-- A 64-bit scalar register, program counter or address (R50, R113). -/
abbrev DWord := BitVec 64

/-- A mask with bit l for lane l of a wave (R22, R50). -/
abbrev LaneMask := BitVec 32

/-- The PC of an exited lane, which is never fetched (R22, R113). -/
def exitedPc : DWord := 0xFFFFFFFFFFFFFFFF#64

end Sys2Proof
end

