-- ==== Sys2Proof/Config.lean ====
section
/-! DEFINITION. What one implementation fixes and the values the spec leaves open. Every value here is an
uninterpreted constant: no theorem can depend on which value it has. The log entries that declare them are
named at each one. -/

namespace Sys2Proof.Config

/-- A fresh open number for each value of the machine's counter of open values (log entry 3): the split
factor that R47 leaves free, the clock increments of R213, the parts of records the spec leaves open. -/
opaque freeNat : Nat → Nat

/-- The texel index that the sampler takes as the floor of an infinite FP32 coordinate (R267 states none), by its pattern. -/
opaque infiniteFloor : Nat → Int

/-- The emax of the valid narrow format whose only finite value is 0, the logarithm of 0 (log entry 57). -/
opaque emaxOfZero : Int

/-- The scale that R172 computes for a magnitude as its quotient by 0 in that format (log entry 57). -/
opaque scaleOfZero : Nat → Nat

/-- A core that a cluster may have been shipped without (R14): which cores these are is not stated. -/
opaque cutCore : Nat → Option (BitVec 4)

/-- The harvested core of a cluster, if any (R14): a module has at least 1008 cores, so at most 16 clusters lack one. -/
def harvestedCore (c : Nat) : Option (BitVec 4) :=
  if ((List.range c).filter fun k => (cutCore k).isSome).length < 16 then cutCore c else none

/-- Whether a signature is that of some bytes by RSASSA-PSS under the fused root key, whose value the spec does not give (R389; log
entry 5). -/
opaque rootVerifies (message signature : List Byte) : Bool

/-- SHA-512 of the ROM (R390), which the spec does not give. -/
opaque romDigest : List Byte

/-- The identity key's 512-byte modulus (R390): generated in manufacture, not given. -/
opaque identityModulus : List Byte

/-- The RSASSA-PSS signature with the identity key over a report's first 0x300 bytes (R390). -/
opaque identitySign : List Byte → List Byte

/-- Free memory of a context in bytes, as firmware measures it at a given instant (R352). -/
opaque freeMemory : Nat → Nat

/-- The physical base of the save area that firmware owns for a workgroup (R367). -/
opaque saveArea : Nat → Nat

/-- The last vector of the PCIe function's MSI-X table (R359): the spec gives the table no size. -/
opaque msixLast : Nat
/-- Entries of the MSI-X table: at least one. -/
def msixVectors : Nat := msixLast + 1

/-- The firmware's command-set version [31:16] major, [15:0] minor is 1.0 (R337). -/
def firmwareVersion : Word := 0x00010000#32

end Sys2Proof.Config
end

