-- ==== Sys2Proof/Syntax.lean ====
section
/-! DEFINITION. The steps of the device as syntax: one constructor of Instr per row of the opcode table. The
first part holds the wave instructions, with the fields of the 96-bit skeleton of R118 turned into named
operands. The second part holds the host commands of R337, R357 and R377. The third part holds the events
that engines, the scheduler, the fabric and the outside world bring about, whose operands are the outside
choices or inputs of the event. -/

namespace Sys2Proof

/-! ### Operand kinds of the wave instructions -/

/-- The guard: predicate register in skeleton bits [11:8], negated when bit [12] is 1 (R7, R120). -/
structure Guard where
  pr  : BitVec 4
  neg : Bool
deriving DecidableEq, Repr

/-- ALU-class types, in the order of their TYPE codes 0 to 11 (R123). -/
inductive AluTy where
  | i32 | n32 | i16x2 | n16x2 | i8x4 | n8x4 | f32 | f16x2 | bf16x2 | f64 | i64 | n64
deriving DecidableEq, Repr

/-- Memory-class types: TYPE 0 to 11 as in the ALU class, then the sub-word types 12 to 15 (R125). -/
inductive MemTy where
  | alu (t : AluTy)
  | i8 | n8 | i16 | n16
deriving DecidableEq, Repr

/-- Rounding modes, RND 0 to 3 (R56, R139). -/
inductive Rnd where
  | rne | rtz | rup | rdn
deriving DecidableEq, Repr

/-- Memory spaces that an access names (R76, R124). -/
inductive Space where
  | prv | scr | glb
deriving DecidableEq, Repr

/-- Scopes (R88, R124). -/
inductive Scope where
  | wv | grp | gng | dev | sys
deriving DecidableEq, Repr

/-- Memory orders (R89, R124). -/
inductive Order where
  | rlx | acq | rel | ar | sc
deriving DecidableEq, Repr

/-- Cache policies (R86, R125). -/
inductive Policy where
  | l1 | hs | strm | keep
deriving DecidableEq, Repr

/-- Operand B of the ALU class, selected by BSEL (R123). -/
inductive SrcB where
  | v (n : BitVec 8)
  | s (n : BitVec 8)
  | imm (w : Word)
deriving DecidableEq, Repr

/-- The operands of an ALU-class instruction (R122, R123): guard, scalar form, type, rounding and the four
register fields. A field the instruction does not use is 0 (R119). -/
structure Alu where
  g   : Guard
  sc  : Bool
  ty  : AluTy
  rnd : Rnd
  d   : BitVec 8
  a   : BitVec 8
  b   : SrcB
  c   : BitVec 8
deriving DecidableEq, Repr

/-- Integer and float comparison conditions CC 0 to 5 (R158, R166). -/
inductive Cond where
  | eq | ne | lt | le | gt | ge
deriving DecidableEq, Repr

/-- Float conditions: CC 0 to 5, then unordered and ordered (R166). -/
inductive FCond where
  | rel (c : Cond) | uo | ord
deriving DecidableEq, Repr

/-- How a comparison combines with bit l of pC (R158). -/
inductive Combine where
  | none | and | or | xor
deriving DecidableEq, Repr

/-- The operands of `pset` (R158), by FN. -/
inductive PsetOp where
  | and (a b : BitVec 8) | or (a b : BitVec 8) | xor (a b : BitVec 8) | andn (a b : BitVec 8)
  | not (a : BitVec 8)
  | imm (w : Word)
  | nz (a : BitVec 8)
deriving DecidableEq, Repr

/-- Modes of `shfl` (R159, R160). -/
inductive ShflMode where
  | idx | up | down | xor
deriving DecidableEq, Repr

/-- Operations of `vote` (R161). -/
inductive VoteOp where
  | some | every | same | mask
deriving DecidableEq, Repr

/-- Operations of `wred` (R162); `wscan` takes the first three. -/
inductive RedOp where
  | add | min | max | and | or | xor
deriving DecidableEq, Repr

/-- The mask operand of `wsync` (R175). -/
inductive MaskSrc where
  | s (n : BitVec 8)
  | imm (w : Word)
deriving DecidableEq, Repr

/-- The operands of a memory-class access (R124 to R126): base present is BV, index present is IV. -/
structure Mem where
  g     : Guard
  d     : BitVec 8
  base  : Option (BitVec 8)
  index : Option (BitVec 8 × BitVec 2)
  off   : Word
  space : Space
  scope : Scope
  ord   : Order
  pol   : Policy
  rnd   : Rnd
  ty    : MemTy
deriving DecidableEq, Repr

/-- Atomic operations, SUB 0 to 12 (R188). -/
inductive AtomOp where
  | add | min | max | and | or | xor | exch | cas | upto | downto | fadd | fmin | fmax
deriving DecidableEq, Repr

/-- Conditions of `moor`, SUB 0 to 7 (R196). -/
inductive MoorCond where
  | eq | ne | lt | le | gt | ge | any | none
deriving DecidableEq, Repr

/-- A barrier operand (R200): PEER with OWNER, or the workgroup's own, and INDEX. -/
structure BarRef where
  peer  : Bool
  owner : BitVec 4
  index : BitVec 4
deriving DecidableEq, Repr

/-- A pin operand (R202): from IMM32 [13:0], or from sB [13:0]. -/
inductive PinSrc where
  | imm (p : BitVec 14)
  | reg (b : BitVec 8)
deriving DecidableEq, Repr

/-- A record operand of the splat, graphics and collective instructions (R238). -/
inductive RecRef where
  | pool (i : BitVec 12)
  | reg (s : BitVec 6)
deriving DecidableEq, Repr

/-- The operands of a shuttle transfer (R217). -/
structure Shuttle where
  g     : Guard
  d     : BitVec 8
  a     : BitVec 8
  b     : BitVec 8
  c     : BitVec 8
  scope : Scope
  pool  : BitVec 12
deriving DecidableEq, Repr

/-- The SRC field of `hmma` (R224). -/
inductive HoopSrc where
  | buf | sp | cb
deriving DecidableEq, Repr

/-- Segment kinds of `crvemit` (R252). -/
inductive CurveKind where
  | line | quad | cubic
deriving DecidableEq, Repr

/-- Winding rules of `crvres` (R258). -/
inductive CurveRule where
  | nz | eo | raw
deriving DecidableEq, Repr

/-! ### Operand kinds of the events -/

/-- What the outside decides when a load-class operation completes (R130): whether relaxed reads are served
from the core's L1 copies (R86), the values another device returned for access k of a lane (by 16·lane + k), order-9
errors by lane (R183), and the lanes whose registers are written now, where the others' follow later (R135). -/
structure LdReply where
  fromL1 : Bool
  remote : List (Nat × DWord)
  errs   : List (Nat × Byte)
  part   : Option LaneMask := none
deriving DecidableEq, Repr

/-- What happens to a core's store-class operations (R130): the oldest of its store order is performed, and its remote
writes are sent, its reductions in the L1 served from the core's copies where `fromL1` says so (R97); or the targets of a
wave's oldest operation that is on its way answer. -/
inductive StTurn where
  | perform (fromL1 : Bool)
  | answered (wave : Nat)
deriving DecidableEq, Repr

/-- That, with the errors reported by lane. -/
structure StReply where
  errs : List (Nat × Byte)
  turn : StTurn
deriving DecidableEq, Repr

/-- A request of another device at this device's export window (R84, R103, R105, R277). -/
inductive RemoteReq where
  | load (off : Nat) (size : Nat)
  | store (off : Nat) (bytes : List Byte)
  | atom (op : AtomOp) (ty : AluTy) (off : Nat) (v w1 : DWord)
  | red (op : AtomOp) (ty : AluTy) (off : Nat) (v : DWord)
  | tide (gid : Word) (wave off : Nat) (bytes : List Byte)
deriving DecidableEq, Repr

/-- The source of a remote request: device, context and core of the issuer (R104, R331). -/
structure ReqSource where
  dev  : Nat
  ctx  : Nat
  core : Nat
deriving DecidableEq, Repr

/-- A step of a `.sys` release's marker (R104): a source's marker with its count reaches this device, or a device answers
this device's core for its first `count` requests. -/
inductive MarkerStep where
  | asked (src : ReqSource)
  | answered (core dev : Nat)
deriving DecidableEq, Repr

/-- What a participant of a tide group tells another one about the lock (R282, R285): LOCKED, to the coordinator; a survivor's
question after the coordinator is lost; and the answer, with the stamp and the time since the pulse of the APPLY that the
answering device holds, if it holds one. -/
inductive LockVote where
  | locked
  | asks
  | answers (apply : Option (Word × Nat))
deriving DecidableEq, Repr

/-- Such a message with the device that it comes from. -/
structure LockMsg where
  dev  : Nat
  vote : LockVote
deriving DecidableEq, Repr

/-- A request's sequence number, and one above that of its source's request before it on the line, 0 for none (R103). -/
structure ReqNo where
  no   : Nat
  prev : Nat
deriving DecidableEq, Repr

/-- What the read of a `moor` at another device gives: the value, or an error other than 0 (R183). -/
structure MoorReply where
  value : DWord
  err   : Byte := 0
deriving DecidableEq, Repr

/-- The end of a couching resolve: its number, and what the device of its image refuses, if not 0 (R222, R258). -/
structure ResolveReply where
  id  : Nat
  err : Byte := 0
deriving DecidableEq, Repr

/-- The five sources from which a queue accepts a launch (R340). -/
inductive LaunchSource where
  | ring
  | launch
  | walker (w : Nat)
  | unwinder
  /-- Graph launches that the queue itself holds: those that rebuild a dropped range (R352). -/
  | graph
deriving DecidableEq, Repr

/-- What a member of a collective sends on (R290 to R292): a quantised block, an escape block or a pixel. -/
inductive CollBlock where
  | quant (scale : Byte) (els : List Byte)
  | esc (ws : List Word)
  | pixel (ws : List Word)
deriving DecidableEq, Repr

/-- What makes a collective move at this member: its own start as member 0, a block from its predecessor, the last member's
result (R290), or an abort that another member caused (R289). -/
inductive CollHop where
  | start
  | chain (b : CollBlock)
  | final (b : CollBlock)
  /-- Member 0's kind, count, ROOT flag and member list, which every member compares with its own (R289). -/
  | record (cover : Bool) (count : Nat) (root : Bool) (members : List Nat)
  /-- A member has found its record equal to member 0's. -/
  | agreed (dev : Nat)
  | abort (code dev : Nat) (fc : Byte)
deriving DecidableEq, Repr

/-- A link training record as a port receives it (R378). -/
structure TrainRec where
  (major minor lowest : Nat)
  (q index fabricId features : Nat)
  (cmdVersion container : Nat)
deriving DecidableEq, Repr

/-! ### The steps -/

/-- One constructor per row of the opcode table. -/
inductive Instr where
  -- integer (R152 to R158)
  | iadd (o : Alu) (sat : Bool)
  | isub (o : Alu) (sat : Bool)
  | imul (o : Alu)
  | imulhi (o : Alu)
  | imad (o : Alu) (sat : Bool)
  | imin (o : Alu)
  | imax (o : Alu)
  | iabs (o : Alu) (sat : Bool)
  | and (o : Alu)
  | or (o : Alu)
  | xor (o : Alu)
  | andn (o : Alu)
  | shl (o : Alu)
  | shr (o : Alu)
  | sar (o : Alu)
  | rot (o : Alu)
  | bfe (o : Alu)
  | bfi (o : Alu)
  | popc (o : Alu)
  | clz (o : Alu)
  | ctz (o : Alu)
  | brev (o : Alu)
  | perm (o : Alu)
  | sel (o : Alu)
  | icmp (o : Alu) (cc : Cond) (cmb : Combine)
  | pset (g : Guard) (d : BitVec 8) (op : PsetOp)
  | mov (o : Alu)
  | movToFormat (g : Guard) (d : BitVec 8) (b : SrcB)
  | movFromFormat (g : Guard) (d : BitVec 8) (b : BitVec 8)
  | movi (g : Guard) (sc : Bool) (ty : AluTy) (d : BitVec 8) (w : Word)
  | lea (o : Alu) (shift : BitVec 2)
  -- wave (R159 to R163)
  | shfl (o : Alu) (mode : ShflMode)
  | bcast (o : Alu)
  | vote (g : Guard) (op : VoteOp) (d a : BitVec 8)
  | wred (o : Alu) (op : RedOp)
  | wscan (o : Alu) (op : RedOp) (excl : Bool)
  | rdlane (o : Alu)
  | wrlane (o : Alu)
  | matchLanes (o : Alu)
  -- floating-point (R164 to R169)
  | fadd (o : Alu)
  | fsub (o : Alu)
  | fmul (o : Alu)
  | ffma (o : Alu)
  | fmin (o : Alu)
  | fmax (o : Alu)
  | fcmp (o : Alu) (cc : FCond) (cmb : Combine)
  | fclamp (o : Alu)
  | frcp (o : Alu)
  | frsq (o : Alu)
  | fsqrt (o : Alu)
  | fexp2 (o : Alu)
  | flog2 (o : Alu)
  | fsinpi (o : Alu)
  | fcospi (o : Alu)
  | fround (o : Alu)
  | ffract (o : Alu)
  | fdiv (o : Alu)
  | fdot2 (o : Alu)
  | idot4 (o : Alu) (mix sat : Bool)
  | fldexp (o : Alu)
  | fclass (o : Alu)
  | fcvt (o : Alu) (src : AluTy) (elem : Bool)
  | f2i (o : Alu) (src : AluTy)
  | i2f (o : Alu) (src : AluTy)
  -- narrow formats (R170 to R174); C names the format register
  | qpack (o : Alu) (seed : Word)
  | qunpack (o : Alu)
  | qscale (o : Alu)
  | qamax (o : Alu)
  -- code slots that are no instruction (R129)
  | zeroSlot
  | fillSlot
  -- control (R175 to R181)
  | nop (g : Guard)
  | bra (g : Guard) (target : Word)
  | brx (g : Guard) (sc : Bool) (a : BitVec 8)
  | call (g : Guard) (target : Word)
  | callIndirect (g : Guard) (sc : Bool) (a : BitVec 8)
  | ret (g : Guard)
  | exit (g : Guard)
  | yield (g : Guard)
  | ipref (g : Guard) (target : Word) (k : BitVec 3)
  | ifence (g : Guard) (a b : BitVec 8)
  | wsync (g : Guard) (m : MaskSrc)
  -- memory (R182 to R198)
  | ld (m : Mem)
  | st (m : Mem)
  | ldq (m : Mem) (f : BitVec 4)
  | stq (m : Mem) (f : BitVec 4)
  | lds (m : Mem)
  | atom (m : Mem) (op : AtomOp)
  | red (m : Mem) (op : AtomOp)
  | bwaddX (m : Mem)
  | bwaddR (m : Mem)
  | bwflush (g : Guard) (rng : Option (BitVec 8 × BitVec 8 × Word))
  | prefd (m : Mem)
  | cwbInv (m : Mem)
  | cwbWb (m : Mem)
  | fence (g : Guard) (scope : Scope) (ord : Order)
  | moor (m : Mem) (c : MoorCond)
  | moorReread (wave lane : Nat) (r : MoorReply)
  | smap (g : Guard) (d a b : BitVec 8)
  | sunmap (g : Guard) (a : BitVec 8)
  | swb (g : Guard) (a : Option (BitVec 8))
  | stashWriteback (wg entry : Nat)
  -- barriers, counters, pins, bobbin (R199 to R204)
  | binit (g : Guard) (d a b : BitVec 8) (bar : BarRef)
  | barrive (g : Guard) (d a : BitVec 8) (bar : BarRef)
  | bwait (g : Guard) (d a : BitVec 8) (bar : BarRef)
  | bsync (g : Guard) (d a : BitVec 8) (bar : BarRef)
  | binval (g : Guard) (bar : BarRef)
  | wait (g : Guard) (ld st cp tl : BitVec 6)
  | pinadd (g : Guard) (a : BitVec 8) (pin : PinSrc)
  | pinwait (g : Guard) (d a : BitVec 8) (pin : PinSrc)
  | pinset (g : Guard) (a : BitVec 8) (pin : PinSrc)
  | bobtake (g : Guard)
  | bobpass (g : Guard)
  | phase (g : Guard)
  | phaseComplete (queue seq : Nat)
  -- launch and the ebb stack (R205 to R207)
  | launch (g : Guard) (d a : BitVec 8) (q : Option (BitVec 8))
  | ebbpush (g : Guard) (sc : Bool) (a : BitVec 8) (unwind : Bool)
  | ebbmarkRecomp (g : Guard) (d a b : BitVec 8)
  | ebbmarkNeeds (g : Guard) (d a b : BitVec 8) (n : Word)
  -- the shuttle (R214 to R223)
  | shcopy (o : Shuttle) (wr glb tr : Bool)
  | shfill (o : Shuttle)
  | shgath (o : Shuttle) (glb : Bool)
  | shscat (o : Shuttle) (glb : Bool)
  | shuttleChunkDone (op chunk : Nat)
  | shuttleTransferError (op : Nat) (code : Byte) (addr : DWord)
  | bmtest (g : Guard) (scope : Scope) (d a b : BitVec 8)
  | bmwait (g : Guard) (scope : Scope) (a b : BitVec 8)
  | bmclr (g : Guard) (a b : BitVec 8)
  -- the hoop (R224 to R236)
  | hres (g : Guard) (d a : BitVec 8)
  | hrel (g : Guard) (a : BitVec 8)
  | hbwr (g : Guard) (d a : BitVec 8) (n : BitVec 3)
  | hbrd (g : Guard) (d a : BitVec 8) (n : BitVec 3)
  | skld (g : Guard) (a b c : BitVec 8) (len : Word)
  | hcvr (g : Guard) (d a : BitVec 8)
  | hmma (g : Guard) (src : HoopSrc) (d a b c : BitVec 8) (k : BitVec 9) (rnd : BitVec 2)
  | hoopOpFormation (gang : Nat)
  | hcbeg (g : Guard)
  | hcend (g : Guard)
  | hzero (g : Guard) (d c : BitVec 8) (n : BitVec 9)
  | hacst (g : Guard) (d a b c : BitVec 8) (scr q : Bool) (f : BitVec 4) (rnd : Rnd) (ty : AluTy)
  | hacld (g : Guard) (d a b c : BitVec 8) (scr : Bool) (ty : AluTy)
  | hoopTurn (cluster pick steps : Nat) (remote : List Byte) (err : Byte)
  | hoopEntryComplete (cluster : Nat)
  -- the splat pipeline (R237 to R251)
  | spkey (g : Guard) (d a b c : BitVec 8) (r : RecRef)
  | spsort (g : Guard) (a : BitVec 8) (r : RecRef)
  | sortRun (id : Nat)
  | sortComplete (id : Nat)
  | spseg (g : Guard) (d a : BitVec 8) (r : RecRef)
  | spfetch (g : Guard) (d a : BitVec 8) (r : RecRef)
  | spblend (g : Guard) (d a b c : BitVec 8)
  | spgrad (g : Guard) (d a b c : BitVec 8)
  -- curves, triangles, sampling (R252 to R271)
  | trimit (g : Guard) (d a : BitVec 8) (r : RecRef)
  | triangleBin (wave : Nat)
  | vresolve (g : Guard) (a b : BitVec 8) (r : RecRef)
  | vresolveComplete (id : Nat)
  | crvemit (g : Guard) (kind : CurveKind) (a b : BitVec 8)
  | slotOpen (wave : Nat)
  | segmentAccept (wave : Nat)
  | crvres (g : Guard) (rule : CurveRule) (keep : Bool) (d a b c : BitVec 8)
  | crvresComplete (r : ResolveReply)
  | texs (g : Guard) (grad : Bool) (d a c : BitVec 8) (r : RecRef)
  | texf (g : Guard) (d a c : BitVec 8) (r : RecRef)
  | deriv (g : Guard) (y fine : Bool) (d a : BitVec 8)
  | quad (g : Guard) (a : BitVec 8)
  | binres (g : Guard) (d : BitVec 8) (r : RecRef)
  -- tides and collectives (R273 to R292)
  | topen (g : Guard) (d a b c : BitVec 8)
  | sttide (g : Guard) (d : BitVec 8) (base : Option (BitVec 8)) (index : Option (BitVec 8 × BitVec 2)) (off : Word) (ty : MemTy) (c : BitVec 8)
  | tclose (g : Guard) (d a : BitVec 8)
  | tideContributionClose (gid : Word)
  | tcommit (g : Guard) (a b c : BitVec 8)
  | tabort (g : Guard) (d a : BitVec 8)
  | tstat (g : Guard) (wait : Bool) (d a : BitVec 8)
  | tideApply (gid : Word) (hsf : Word) (sincePulse : Nat)
  | credmx (g : Guard) (a b : BitVec 8) (r : RecRef)
  | cover (g : Guard) (a b : BitVec 8) (r : RecRef)
  | collectiveHop (id block : Nat) (hop : CollHop)
  | collectiveComplete (id : Nat)
  -- system (R208 to R213, R333)
  | trap (g : Guard) (imm : BitVec 16)
  | brkpt (g : Guard) (imm : BitVec 16)
  | rdsr (g : Guard) (sc : Bool) (d : BitVec 8) (num : BitVec 12)
  | rdsrClr (g : Guard) (sc : Bool) (d : BitVec 8)
  | wrsr (g : Guard) (a : BitVec 8) (num : BitVec 12)
  | qctlSuspend (queue : Nat)
  | qctlResume (queue : Nat)
  | rdcyc (g : Guard) (d : BitVec 8)
  -- cores and memory
  | instructionFetch (core ctx : Nat) (line : DWord)
  | ldOpComplete (wave : Nat) (r : LdReply)
  | stOpComplete (core : Nat) (r : StReply)
  -- scheduling, graphs, the unwinder (R329 to R352)
  | launchAccept (queue : Nat) (src : LaunchSource)
  | launchEligible (queue seq : Nat)
  | bindGrant (queue seq : Nat)
  | dispatchRound (part : Nat)
  | workgroupRetire (wg : Nat)
  | launchComplete (queue seq : Nat)
  | unwindFrame (queue : Nat)
  | graphWalkerStart (queue seq : Nat)
  | graphNodeEnd (walker : Nat)
  | graphNodeKernel (walker : Nat)
  | graphNodeCopy (walker : Nat)
  | graphNodeCondition (walker : Nat)
  | graphNodeLoop (walker : Nat)
  | graphNodePinWait (walker : Nat)
  | graphNodeTideCommit (walker : Nat)
  | graphNodeEbbUnwind (walker : Nat)
  -- translation, rings, pre-emption (R353 to R371)
  | pageWalk (core ctx : Nat) (va : DWord)
  | ringRecordDelivery (ctx : Nat) (trap : Bool)
  | workgroupSave (wg : Nat)
  | workgroupRestore (wg cluster core : Nat)
  | offloadCopyComplete (ctx : Nat) (base : DWord)
  | tlbInvReply (tag : Word)
  -- host commands (R337, R357, R377)
  | version (tag : Word) (major minor : BitVec 16)
  | stage (tag : Word)
  | partSet (tag : Word) (p : Word)
  | ctxCreate (tag : Word) (va : DWord)
  | ctxDestroy (tag : Word) (ctx : Word)
  | exportSync (tag : Word) (ctx : Word)
  | spillSet (tag : Word) (ctx : Word) (va size : DWord)
  | qCreate (tag : Word) (queue : Word) (va : DWord)
  | qDestroy (tag : Word) (queue : Word)
  | qQuery (tag : Word) (queue : Word)
  | qSuspend (tag : Word) (queue : Word)
  | qResume (tag : Word) (queue : Word)
  | bind (tag : Word) (record : List Byte)
  | unbind (tag : Word) (slot : Word)
  | tlbInv (tag : Word) (ctx : Word) (va len : DWord)
  | faultReply (tag : Word) (ctx token : Word) (action : Byte)
  | trapReply (tag : Word) (ctx token : Word) (value : DWord) (action : Byte)
  | fwLoad (tag : Word) (addr len : DWord)
  | stageDiag (tag : Word)
  | fabricCfg (tag : Word) (q : Byte) (index : BitVec 16) (fabricId seed : Word) (threshold : BitVec 16)
  | portQuery (tag : Word) (port : Word)
  | devFence (tag : Word) (dev : Word)
  | devAdmit (tag : Word) (dev : Word)
  | dispCfg (tag : Word) (head : Word) (va : DWord)
  | attest (tag : Word) (nonce report : DWord)
  | powerCap (tag : Word) (watts : Word)
  | errLog (tag : Word) (va : DWord)
  -- what other devices, the host, scheduling policy and memory pressure bring about
  | tideWriteStage (gid : Word) (src : ReqSource) (n : ReqNo) (wave off : Nat) (bytes : List Byte)
  | tideClosed (gid : Word) (dev : Nat) (sent : List (Nat × Nat))
  | tideNo (gid : Word) (dev : Nat) (code fc : Byte) (named : Nat)
  | tideCount (gid : Word)
  | tideInboundCount (gid : Word) (dev count : Nat)
  | tideLock (gid : Word) (list : List Nat)
  | tideLocked (gid : Word) (m : LockMsg)
  | tideApplied (gid : Word) (dev : Nat)
  | tideAbort (gid : Word) (code fc : Byte) (named : Nat)
  | tideAbortAck (gid : Word) (dev : Nat)
  | ageingOverdue (wave : Nat)
  | accumulatorEvict (ctx word : Nat)
  | remoteRequestApply (src : ReqSource) (n : ReqNo) (req : RemoteReq)
  | markerAnswer (m : MarkerStep) (count : Nat)
  | requestRetransmit (src : ReqSource) (n : ReqNo) (req : RemoteReq)
  | hostMemoryWrite (host : Bool) (addr : Nat) (bytes : List Byte)
  | queueTailWrite (queue : Nat) (tail : Word)
  | gangStall (part cluster : Nat)
  | swapOut (wg : Nat) (stallDev : Option Nat)
  | workgroupFlush (wg : Nat)
  | memoryReclaim (ctx : Nat) (base : DWord)
  -- links, display, start, errors, power (R372 to R392)
  | linkTraining (port : Nat) (peer : TrainRec)
  | packetForward (port dst : Nat)
  | flitReplay (port : Nat)
  | linkAckTimeout (port : Nat)
  | portCongestionMark (port depth : Nat)
  | portCongestionClear (port depth : Nat)
  | deviceLossNotice (dev : Nat)
  | admissionNotice (dev : Nat)
  | houseSyncPulse
  | hsfAlignSample (hsf : Word) (sampleNs ownNs : Nat)
  | vblank (head : Nat)
  | pcieReset
  | stageAdvance (hbmTrained : Bool) (coresPassed : Nat)
  | powerLimitStep (milliwatts : Nat)
  | thermalThrottle (milliC : Nat)
  | thermalShutdown (milliC milliwatts : Nat)
  | patrolScrub (line : Nat) (bad : Bool)
  | houseSyncInputLost
  | displayportLinkTraining (head rateKHz : Nat)
  | rangeReturnComplete (ctx : Nat) (base : DWord)
  | arithmeticClockRestore (milliC milliwatts : Nat)
deriving DecidableEq, Repr

end Sys2Proof
end

