-- ==== Sys2Proof/Machine/Forms.lean ====
section
/-! DEFINITION. The encoding forms: which fields of the skeleton each ALU-class instruction uses, with which
register file, which types it accepts, whether it has a scalar form and whether it rounds (R122, R123, R152,
R159, R164, R170). WellFormed and Decode both read these tables. -/

namespace Sys2Proof

/-- The register file that a D or A field names: `reg` is `v` in the vector form and `s` in the scalar form. -/
inductive RegFile where
  | reg | v | s | p
deriving DecidableEq, Repr

/-- What the C field names (R122): nothing, a `v` or `s` register by form, a `p` or an `f` register. -/
inductive CFile where
  | none | reg | p | f
deriving DecidableEq, Repr

/-- How operand B may be given: unused, any BSEL, or no vector register (R123, R159). -/
inductive BForm where
  | none | any | noV
deriving DecidableEq, Repr

/-- Whether SC = 1 is refused, allowed or required (R121). -/
inductive ScForm where
  | no | yes | only
deriving DecidableEq, Repr

/-- The encoding form of one ALU-class instruction. -/
structure AluForm where
  op     : BitVec 8
  types  : List AluTy
  dFile  : RegFile := .reg
  aUsed  : Bool := true
  aFile  : RegFile := .reg
  bForm  : BForm := .any
  cFile  : CFile := .none
  scalar : ScForm := .yes
  rounds : Bool := false
  /-- IMM32 carries something else when BSEL is not 2 (the seed of `qpack`, R173). -/
  immFree : Bool := false
deriving DecidableEq, Repr

namespace AluTy

/-- TYPE codes 0 to 11 (R123). -/
def code : AluTy → BitVec 4
  | .i32 => 0 | .n32 => 1 | .i16x2 => 2 | .n16x2 => 3 | .i8x4 => 4 | .n8x4 => 5
  | .f32 => 6 | .f16x2 => 7 | .bf16x2 => 8 | .f64 => 9 | .i64 => 10 | .n64 => 11

/-- The type of a TYPE code; 12 to 15 are reserved (R123). -/
def ofCode (c : BitVec 4) : Option AluTy :=
  match c.toNat with
  | 0 => some .i32 | 1 => some .n32 | 2 => some .i16x2 | 3 => some .n16x2 | 4 => some .i8x4 | 5 => some .n8x4
  | 6 => some .f32 | 7 => some .f16x2 | 8 => some .bf16x2 | 9 => some .f64 | 10 => some .i64 | 11 => some .n64
  | _ => none

/-- The types whose value takes a register pair (R51). -/
def is64 : AluTy → Bool
  | .f64 | .i64 | .n64 => true
  | _ => false

/-- The integer types read as two's complement (R54). -/
def signed : AluTy → Bool
  | .i32 | .i16x2 | .i8x4 | .i64 => true
  | _ => false

/-- The floating-point types (R123). -/
def isFloat : AluTy → Bool
  | .f32 | .f16x2 | .bf16x2 | .f64 => true
  | _ => false

/-- The width in bits of one element (R51). -/
def elemWidth : AluTy → Nat
  | .i32 | .n32 | .f32 => 32
  | .i16x2 | .n16x2 | .f16x2 | .bf16x2 => 16
  | .i8x4 | .n8x4 => 8
  | .f64 | .i64 | .n64 => 64

/-- The number of elements in one value (R51). -/
def elemCount : AluTy → Nat
  | .i16x2 | .n16x2 | .f16x2 | .bf16x2 => 2
  | .i8x4 | .n8x4 => 4
  | _ => 1

/-- "all integer" of R151. -/
def allInt : List AluTy := [.i32, .n32, .i16x2, .n16x2, .i8x4, .n8x4, .i64, .n64]
/-- "signed" of R151. -/
def allSigned : List AluTy := [.i32, .i16x2, .i8x4, .i64]
/-- The 32-bit and 64-bit integer types. -/
def plainInt : List AluTy := [.i32, .n32, .i64, .n64]
/-- F of R164. -/
def floats : List AluTy := [.f32, .f16x2, .bf16x2, .f64]
/-- The types of the functions that R57 gives without f64. -/
def floatsNo64 : List AluTy := [.f32, .f16x2, .bf16x2]
/-- Every type. -/
def anyTy : List AluTy := [.i32, .n32, .i16x2, .n16x2, .i8x4, .n8x4, .f32, .f16x2, .bf16x2, .f64, .i64, .n64]
/-- The types of `wred` and `wscan` (R159). -/
def reducible : List AluTy := [.i32, .n32, .i64, .n64, .f32, .f64]

end AluTy

namespace Form
open AluTy

/-- Two-operand integer instruction of R152 with opcode `op`. -/
def int2 (op : BitVec 8) : AluForm := { op, types := allInt }
/-- One-operand integer instruction of R152. -/
def int1 (op : BitVec 8) (types : List AluTy) : AluForm := { op, types, bForm := .none }
/-- Two-operand rounding float instruction of R164. -/
def flt2 (op : BitVec 8) : AluForm := { op, types := floats, rounds := true }
/-- One-operand rounding float instruction of R164. -/
def flt1 (op : BitVec 8) (types : List AluTy) : AluForm := { op, types, bForm := .none, rounds := true }

def iadd : AluForm := int2 0x01
def isub : AluForm := int2 0x02
def imul : AluForm := int2 0x03
def imulhi : AluForm := int2 0x04
def imad : AluForm := { int2 0x05 with cFile := .reg }
def imin : AluForm := int2 0x06
def imax : AluForm := int2 0x07
def iabs : AluForm := int1 0x08 allSigned
def and : AluForm := int2 0x09
def or : AluForm := int2 0x0A
def xor : AluForm := int2 0x0B
def andn : AluForm := int2 0x0C
def shl : AluForm := int2 0x0D
def shr : AluForm := int2 0x0E
def sar : AluForm := int2 0x0F
def rot : AluForm := int2 0x10
def bfe : AluForm := { op := 0x11, types := plainInt }
def bfi : AluForm := { op := 0x12, types := plainInt, cFile := .reg }
def popc : AluForm := int1 0x13 allInt
def clz : AluForm := int1 0x14 allInt
def ctz : AluForm := int1 0x15 allInt
def brev : AluForm := int1 0x16 allInt
def perm : AluForm := { op := 0x17, types := [.n32], cFile := .reg }
def sel : AluForm := { op := 0x18, types := anyTy, cFile := .p, scalar := .no }
def icmp : AluForm := { op := 0x19, types := plainInt, dFile := .p, cFile := .p, scalar := .no }
def mov : AluForm := { op := 0x1B, types := anyTy, aUsed := false }
def lea : AluForm := { op := 0x1D, types := [.n64], aFile := .s }
def shfl : AluForm := { op := 0x20, types := anyTy, scalar := .no }
def bcast : AluForm := { op := 0x21, types := anyTy, scalar := .no, bForm := .noV }
/-- `wred` reduces a `v` register in both forms (R162). -/
def wred : AluForm := { op := 0x23, types := reducible, aFile := .v, bForm := .none, rounds := true }
def wscan : AluForm := { op := 0x24, types := reducible, bForm := .none, scalar := .no, rounds := true }
def rdlane : AluForm := { op := 0x25, types := anyTy, dFile := .s, aFile := .v, bForm := .noV, scalar := .only }
def wrlane : AluForm := { op := 0x26, types := anyTy, aFile := .s, bForm := .noV, scalar := .no }
def matchLanes : AluForm := { op := 0x27, types := plainInt, bForm := .none, scalar := .no }
def fadd : AluForm := flt2 0x30
def fsub : AluForm := flt2 0x31
def fmul : AluForm := flt2 0x32
def ffma : AluForm := { flt2 0x33 with cFile := .reg }
def fmin : AluForm := { op := 0x34, types := floats }
def fmax : AluForm := { op := 0x35, types := floats }
def fcmp : AluForm := { op := 0x36, types := [.f32, .f64], dFile := .p, cFile := .p, scalar := .no }
def fclamp : AluForm := { op := 0x37, types := floats, cFile := .reg }
def frcp : AluForm := flt1 0x38 floats
def frsq : AluForm := flt1 0x39 floatsNo64
def fsqrt : AluForm := flt1 0x3A floats
def fexp2 : AluForm := flt1 0x3B floatsNo64
def flog2 : AluForm := flt1 0x3C floatsNo64
def fsinpi : AluForm := flt1 0x3D floatsNo64
def fcospi : AluForm := flt1 0x3E floatsNo64
def fround : AluForm := flt1 0x3F floats
def ffract : AluForm := flt1 0x40 floats
def fdiv : AluForm := flt2 0x41
def fdot2 : AluForm := { op := 0x42, types := [.f16x2, .bf16x2], cFile := .reg, rounds := true }
def idot4 : AluForm := { op := 0x43, types := [.i8x4, .n8x4], cFile := .reg }
def fldexp : AluForm := { op := 0x44, types := [.f32, .f64], rounds := true }
def fclass : AluForm := { op := 0x45, types := [.f32, .f64], bForm := .none }
/-- `fcvt` uses operand B only from f32 to a packed type (R169). -/
def fcvt (src dst : AluTy) : AluForm :=
  { op := 0x46, types := [.f32, .f64, .f16x2, .bf16x2], rounds := true,
    bForm := if src = .f32 ∧ (dst = .f16x2 ∨ dst = .bf16x2) then .any else .none }
def f2i : AluForm := { op := 0x47, types := plainInt, bForm := .none, rounds := true }
def i2f : AluForm := { op := 0x48, types := [.f32, .f64], bForm := .none, rounds := true }
def qpack : AluForm := { op := 0x50, types := [.f32], cFile := .f, scalar := .no, rounds := true, immFree := true }
def qunpack : AluForm := { op := 0x51, types := [.f32], cFile := .f, scalar := .no, rounds := true }
def qscale : AluForm := { op := 0x52, types := [.f32], cFile := .f, scalar := .no, bForm := .none }
def qamax : AluForm := { op := 0x53, types := [.f32], cFile := .f, scalar := .no, bForm := .none }

/-- The (T, S) pairs that `fcvt` accepts (R169). -/
def fcvtPair (t s : AluTy) : Bool :=
  match t, s with
  | .f32, .f64 | .f64, .f32 | .f16x2, .f32 | .bf16x2, .f32 | .f32, .f16x2 | .f32, .bf16x2
  | .f16x2, .bf16x2 | .bf16x2, .f16x2 => true
  | _, _ => false

/-- ELEM may be 1 only when converting a packed type to f32 (R169). -/
def fcvtElem (t s : AluTy) : Bool := t == .f32 && (s == .f16x2 || s == .bf16x2)

end Form

/-- Whether `wred` or `wscan` rounds: only the float add does (R159). -/
def redRounds (op : RedOp) (t : AluTy) : Bool := op == .add && t.isFloat

/-- Whether `wred` accepts the operation with the type: no `.and`, `.or`, `.xor` on a float type (R159). -/
def redOk (op : RedOp) (t : AluTy) : Bool :=
  match op with
  | .add | .min | .max => true
  | .and | .or | .xor => !t.isFloat

/-- Whether an atomic operation accepts a type (R188). -/
def AtomOp.accepts (op : AtomOp) (t : AluTy) : Bool :=
  match op with
  | .add | .min | .max | .and | .or | .xor | .upto | .downto => AluTy.plainInt.contains t
  | .exch | .cas => true
  | .fadd => AluTy.floats.contains t
  | .fmin | .fmax => t == .f32 || t == .f64

/-- Orders that each kind of access accepts (R89). -/
def Order.loadOk : Order → Bool
  | .rlx | .acq => true
  | _ => false
/-- Orders of a store or a `red` (R89). -/
def Order.storeOk : Order → Bool
  | .rlx | .rel => true
  | _ => false
/-- Orders of an `atom` (R89). -/
def Order.atomOk : Order → Bool
  | .sc => false
  | _ => true
/-- Orders of a `fence` (R89). -/
def Order.fenceOk : Order → Bool
  | .rlx => false
  | _ => true

/-- Bytes per lane of a memory type (R125). -/
def MemTy.bytes : MemTy → Nat
  | .alu t => if t.is64 then 8 else 4
  | .i8 | .n8 => 1
  | .i16 | .n16 => 2

/-- Whether the memory type takes a register pair (R125). -/
def MemTy.is64 (t : MemTy) : Bool := t.bytes == 8

end Sys2Proof
end

