-- ==== Sys2Proof/WellFormed.lean ====
section
/-! DEFINITION. Which instructions an encoding can hold: register fields in the range of R119, types, orders,
scopes and forms that the instruction's row accepts, and unused fields 0. What needs the kernel header (a register
at or beyond vregs, an odd register pair, R51) is checked when the instruction issues. -/

namespace Sys2Proof

/-- An `s` register field (R119). -/
def okS (n : BitVec 8) : Bool := n.toNat < 64
/-- A `p` or `f` register field (R119). -/
def okP (n : BitVec 8) : Bool := n.toNat < 16
/-- A `c` register field (R119). -/
def okC (n : BitVec 8) : Bool := n.toNat < 8

/-- A register of a file. -/
def RegFile.ok (f : RegFile) (sc : Bool) (n : BitVec 8) : Bool :=
  match f with
  | .reg => !sc || okS n
  | .v => true
  | .s => okS n
  | .p => okP n

/-- Operand B under a form: no `v` register in the scalar form (R121), none at all where B is unused (R119). -/
def SrcB.ok (f : BForm) (sc : Bool) (b : SrcB) : Bool :=
  match f, b with
  | .none, b => b == .v 0
  | .any, .v _ => !sc
  | .noV, .v _ => false
  | _, .s n => okS n
  | _, .imm _ => true

/-- Operand C under a form. -/
def CFile.ok (f : CFile) (sc : Bool) (c : BitVec 8) : Bool :=
  match f with
  | .none => c == 0
  | .reg => !sc || okS c
  | .p | .f => okP c

/-- The checks of R119, R121 and R123 for an ALU-class instruction of form `F` that rounds when `rounds`. -/
def Alu.ok (F : AluForm) (rounds : Bool) (o : Alu) : Bool :=
  F.types.contains o.ty &&
  (match F.scalar with | .no => !o.sc | .yes => true | .only => o.sc) &&
  F.dFile.ok o.sc o.d &&
  (if F.aUsed then F.aFile.ok o.sc o.a else o.a == 0) &&
  o.b.ok F.bForm o.sc && F.cFile.ok o.sc o.c && (rounds || o.rnd == .rne)

/-- The checks of a comparison's combination operand: `pC` is used only when one is named (R158). -/
def Alu.okCmp (F : AluForm) (cmb : Combine) (o : Alu) : Bool :=
  o.ok F false && (cmb != .none || o.c == 0)

/-- The address fields of the memory class (R126): an absent base or index leaves its fields 0. -/
def Mem.okAddr (m : Mem) : Bool := (match m.base with | some a => okS a | none => true)

/-- A memory access with accepted order test, types and the policy and rounding fields used or not. -/
def Mem.ok (m : Mem) (ord : Bool) (ty : Bool) (pol rnd : Bool) : Bool :=
  m.okAddr && ord && ty && (pol || m.pol == .l1) && (rnd || m.rnd == .rne)

/-- The types of `moor` (R182). -/
def moorTypes : List MemTy := [.alu .i32, .alu .n32, .alu .i64, .alu .n64]

/-- A barrier operand: OWNER is 0 without PEER (R200). -/
def BarRef.ok (b : BarRef) : Bool := b.peer || b.owner == 0

/-- A pin operand (R202). -/
def PinSrc.ok : PinSrc → Bool
  | .imm _ => true
  | .reg b => okS b

/-- The scopes of a shuttle operation (R217). -/
def Scope.okShuttle (c : Scope) : Bool := c != .wv

/-- An atomic's or reduction's operand checks (R188, R189). -/
def Mem.okAtom (m : Mem) (op : AtomOp) (red : Bool) : Bool :=
  m.ok (if red then m.ord.storeOk else m.ord.atomOk)
    (match m.ty with | .alu t => op.accepts t | _ => false) true false &&
  m.space != .prv && !(red && (op == .exch || op == .cas))

/-- A memory word of fixed qualifiers: `.glb`, `.dev`, `.rlx` (R182). -/
def Mem.plainGlb (m : Mem) : Bool := m.space == .glb && m.scope == .dev && m.ord == .rlx

/-- A line hint's checks (R182, R194). -/
def Mem.okHint (m : Mem) (pol : Bool) : Bool :=
  m.ok (m.ord == .rlx) (m.ty == .alu .i32) pol false && m.space == .glb && m.d == 0

/-- Well-formedness of every instruction; host commands and events carry no encoding fields to check. -/
def Instr.wf : Instr → Bool
  | .iadd o _ => o.ok Form.iadd false
  | .isub o _ => o.ok Form.isub false
  | .imul o => o.ok Form.imul false
  | .imulhi o => o.ok Form.imulhi false
  | .imad o _ => o.ok Form.imad false
  | .imin o => o.ok Form.imin false
  | .imax o => o.ok Form.imax false
  | .iabs o _ => o.ok Form.iabs false
  | .and o => o.ok Form.and false
  | .or o => o.ok Form.or false
  | .xor o => o.ok Form.xor false
  | .andn o => o.ok Form.andn false
  | .shl o => o.ok Form.shl false
  | .shr o => o.ok Form.shr false
  | .sar o => o.ok Form.sar false
  | .rot o => o.ok Form.rot false
  | .bfe o => o.ok Form.bfe false
  | .bfi o => o.ok Form.bfi false
  | .popc o => o.ok Form.popc false
  | .clz o => o.ok Form.clz false
  | .ctz o => o.ok Form.ctz false
  | .brev o => o.ok Form.brev false
  | .perm o => o.ok Form.perm false
  | .sel o => o.ok Form.sel false
  | .icmp o _ cmb => o.okCmp Form.icmp cmb
  | .pset _ d op => okP d && (match op with
      | .and a b | .or a b | .xor a b | .andn a b => okP a && okP b
      | .not a => okP a
      | .imm _ | .nz _ => true)
  | .mov o => o.ok Form.mov false
  | .movToFormat _ d b => okP d && (match b with | .v _ => false | .s n => okS n | .imm _ => true)
  | .movFromFormat _ d b => okS d && okP b
  | .movi _ sc ty d _ => (ty == .i64 || ty == .n64) && (!sc || okS d)
  | .lea o _ => o.ok Form.lea false
  | .shfl o _ => o.ok Form.shfl false
  | .bcast o => o.ok Form.bcast false
  | .vote _ op d a => okP a && (if op == .mask then okS d else okP d)
  | .wred o op => o.ok Form.wred (redRounds op o.ty) && redOk op o.ty
  | .wscan o op _ => o.ok Form.wscan (redRounds op o.ty) && (op == .add || op == .min || op == .max)
  | .rdlane o => o.ok Form.rdlane false
  | .wrlane o => o.ok Form.wrlane false
  | .matchLanes o => o.ok Form.matchLanes false
  | .fadd o => o.ok Form.fadd true
  | .fsub o => o.ok Form.fsub true
  | .fmul o => o.ok Form.fmul true
  | .ffma o => o.ok Form.ffma true
  | .fmin o => o.ok Form.fmin false
  | .fmax o => o.ok Form.fmax false
  | .fcmp o _ cmb => o.okCmp Form.fcmp cmb
  | .fclamp o => o.ok Form.fclamp false
  | .frcp o => o.ok Form.frcp true
  | .frsq o => o.ok Form.frsq true
  | .fsqrt o => o.ok Form.fsqrt true
  | .fexp2 o => o.ok Form.fexp2 true
  | .flog2 o => o.ok Form.flog2 true
  | .fsinpi o => o.ok Form.fsinpi true
  | .fcospi o => o.ok Form.fcospi true
  | .fround o => o.ok Form.fround true
  | .ffract o => o.ok Form.ffract true
  | .fdiv o => o.ok Form.fdiv true
  | .fdot2 o => o.ok Form.fdot2 true
  | .idot4 o _ _ => o.ok Form.idot4 false
  | .fldexp o => o.ok Form.fldexp true
  | .fclass o => o.ok Form.fclass false
  | .fcvt o src el => o.ok (Form.fcvt src o.ty) true && Form.fcvtPair o.ty src && (!el || Form.fcvtElem o.ty src)
  | .f2i o src => o.ok Form.f2i true && (src == .f32 || src == .f64)
  | .i2f o src => o.ok Form.i2f true && AluTy.plainInt.contains src
  | .qpack o seed => o.ok Form.qpack true && (match o.b with | .imm _ => seed == 0 | _ => true)
  | .qunpack o => o.ok Form.qunpack true
  | .qscale o => o.ok Form.qscale false
  | .qamax o => o.ok Form.qamax false
  | .zeroSlot | .fillSlot => true
  | .nop _ | .bra _ _ | .call _ _ | .ret _ | .exit _ | .yield _ | .ipref _ _ _ => true
  | .brx _ sc a | .callIndirect _ sc a => !sc || okS a
  | .ifence _ a b => okS a && okS b
  | .wsync _ m => (match m with | .s n => okS n | .imm _ => true)
  | .ld m => m.ok m.ord.loadOk true true false
  | .st m => m.ok m.ord.storeOk true true false
  | .ldq m f => m.ok m.ord.loadOk (m.ty == .alu .f32) true true && f.toNat < 16
  | .stq m f => m.ok m.ord.storeOk (m.ty == .alu .f32) true true && f.toNat < 16
  | .lds m => m.ok m.ord.loadOk true true false && m.base.isSome && m.index.isNone && okS m.d
  | .atom m op => m.okAtom op false
  | .red m op => m.okAtom op true
  | .bwaddX m | .bwaddR m => m.ok true (m.ty == .alu .f32) false false && m.plainGlb
  | .bwflush _ rng => (match rng with | some (d, a, _) => okS d && okS a | none => true)
  | .prefd m => m.okHint true
  | .cwbInv m | .cwbWb m => m.okHint false
  | .fence _ _ ord => ord.fenceOk
  | .moor m _ => m.ok m.ord.loadOk (moorTypes.contains m.ty) false false && m.space != .prv
  | .smap _ d a b => okS d && okS a && okS b
  | .sunmap _ a => okS a
  | .swb _ a => (match a with | some a => okS a | none => true)
  | .binit _ d a b bar => okS d && okS a && okS b && bar.ok
  | .barrive _ d a bar => okS d && okS a && bar.ok
  | .bwait _ d a bar | .bsync _ d a bar => okP d && okS a && bar.ok
  | .binval _ bar => bar.ok
  | .wait _ _ _ _ _ => true
  | .pinadd _ a pin | .pinset _ a pin => okS a && pin.ok
  | .pinwait _ d a pin => okS d && okS a && pin.ok
  | .bobtake _ | .bobpass _ | .phase _ => true
  | .launch _ d a q => okS d && okS a && (match q with | some b => okS b | none => true)
  | .ebbpush _ sc a _ => !sc || okS a
  | .ebbmarkRecomp _ d a b | .ebbmarkNeeds _ d a b _ => okS d && okS a && okS b
  | .shcopy o _ _ _ | .shfill o => okS o.d && o.a.toNat ≤ 61 && okS o.b && okS o.c && o.scope.okShuttle
  | .shgath o _ | .shscat o _ => okS o.d && o.a.toNat ≤ 62 && okS o.c && o.scope.okShuttle
  | .bmtest _ sc d a b => okP d && okS a && okS b && sc.okShuttle
  | .bmwait _ sc a b => okS a && okS b && sc.okShuttle
  | .bmclr _ a b => okS a && okS b
  | .hres _ d a => okS d && okS a && a.toNat < 63
  | .hrel _ a => okS a
  | .hbwr _ _ a _ | .hbrd _ _ a _ => okS a
  | .skld _ a b c _ => okS a && okS b && okS c
  | .hcvr _ d a => okC d && okS a
  | .hmma _ _ _ a b c _ _ => okS a && okS b && okC c
  | .hcbeg _ | .hcend _ => true
  | .hzero _ _ c n => okS c && 1 ≤ n.toNat && n.toNat ≤ 256
  | .hacst _ _ a b c _ q f _ ty => okS a && okS b && okS c && AluTy.floats.contains ty && (q || f == 0)
  | .hacld _ _ a b c _ ty => okS a && okS b && okS c && AluTy.floats.contains ty
  | .spkey _ _ _ _ _ _ => true
  | .spsort _ a _ => okS a
  | .spseg _ d a _ => d.toNat ≤ 62 && okS a
  | .spfetch _ _ a _ => okS a
  | .spblend _ _ _ _ c => okP c
  | .spgrad _ _ _ _ _ => true
  | .trimit _ _ _ _ => true
  | .vresolve _ a b _ => okS a && okS b
  | .crvemit _ _ a _ => okS a
  | .crvres _ _ _ d a b c => okS d && okS a && okS b && okS c
  | .texs _ _ _ _ c _ | .texf _ _ _ c _ => okP c
  | .deriv _ _ _ _ _ => true
  | .quad _ a => okP a
  | .binres _ d _ => okS d
  | .topen _ d a b c => okS d && okS a && okS b && okS c
  | .sttide _ _ base _ _ _ c => (match base with | some a => okS a | none => true) && okS c
  | .tclose _ d a | .tabort _ d a | .tstat _ _ d a => okS d && okS a
  | .tcommit _ a b c => okS a && okS b && okS c
  | .credmx _ a b _ | .cover _ a b _ => okS a && okS b
  | .trap _ _ | .brkpt _ _ => true
  | .rdsr _ sc d _ | .rdsrClr _ sc d => !sc || okS d
  | .wrsr _ a _ => okS a
  | .rdcyc _ d => okS d
  | .moorReread _ _ _ | .stashWriteback _ _ | .phaseComplete _ _ | .shuttleChunkDone _ _
  | .shuttleTransferError _ _ _ | .hoopOpFormation _ | .hoopTurn _ _ _ _ _ | .hoopEntryComplete _ | .sortRun _
  | .sortComplete _ | .triangleBin _ | .vresolveComplete _ | .slotOpen _ | .segmentAccept _ | .crvresComplete _
  | .tideWriteStage _ _ _ _ _ _ | .tideContributionClose _ | .tideClosed _ _ _ | .tideNo _ _ _ _ _ | .tideCount _
  | .tideInboundCount _ _ _ | .tideLock _ _ | .tideLocked _ _ | .tideApply _ _ _ | .tideApplied _ _
  | .tideAbort _ _ _ _ | .tideAbortAck _ _ | .collectiveHop _ _ _ | .collectiveComplete _ | .qctlSuspend _
  | .qctlResume _ | .instructionFetch _ _ _ | .ageingOverdue _ | .ldOpComplete _ _ | .stOpComplete _ _
  | .accumulatorEvict _ _ | .remoteRequestApply _ _ _ | .markerAnswer _ _ | .requestRetransmit _ _ _
  | .hostMemoryWrite _ _ _ | .queueTailWrite _ _ | .launchAccept _ _ | .launchEligible _ _ | .bindGrant _ _
  | .dispatchRound _ | .gangStall _ _ | .workgroupRetire _ | .launchComplete _ _ | .unwindFrame _
  | .graphWalkerStart _ _ | .graphNodeEnd _ | .graphNodeKernel _ | .graphNodeCopy _ | .graphNodeCondition _
  | .graphNodeLoop _ | .graphNodePinWait _ | .graphNodeTideCommit _ | .graphNodeEbbUnwind _ | .pageWalk _ _ _
  | .ringRecordDelivery _ _ | .swapOut _ _ | .workgroupSave _ | .workgroupRestore _ _ _ | .workgroupFlush _
  | .memoryReclaim _ _ | .offloadCopyComplete _ _ | .tlbInvReply _ | .version _ _ _ | .stage _ | .partSet _ _
  | .ctxCreate _ _ | .ctxDestroy _ _ | .exportSync _ _ | .spillSet _ _ _ _ | .qCreate _ _ _ | .qDestroy _ _
  | .qQuery _ _ | .qSuspend _ _ | .qResume _ _ | .bind _ _ | .unbind _ _ | .tlbInv _ _ _ _ | .faultReply _ _ _ _
  | .trapReply _ _ _ _ _ | .fwLoad _ _ _ | .stageDiag _ | .fabricCfg _ _ _ _ _ _ | .portQuery _ _ | .devFence _ _
  | .devAdmit _ _ | .dispCfg _ _ _ | .attest _ _ _ | .powerCap _ _ | .errLog _ _ | .linkTraining _ _
  | .packetForward _ _ | .flitReplay _ | .linkAckTimeout _ | .portCongestionMark _ _ | .portCongestionClear _ _
  | .deviceLossNotice _ | .admissionNotice _ | .houseSyncPulse | .hsfAlignSample _ _ _ | .vblank _ | .pcieReset
  | .stageAdvance _ _ | .powerLimitStep _ | .thermalThrottle _ | .thermalShutdown _ _ | .patrolScrub _ _
  | .houseSyncInputLost | .displayportLinkTraining _ _ | .rangeReturnComplete _ _ | .arithmeticClockRestore _ _ => true

/-- An instruction that an encoding can hold. -/
abbrev Instr.WellFormed (i : Instr) : Prop := i.wf = true

end Sys2Proof
end

