-- ==== Sys2Proof/Decode.lean ====
section
/-! DEFINITION. The decoder of a 96-bit instruction slot (R110, R118 to R129), total on any bits, with the fate of
R116 checks 3 to 5 for what is no instruction; the encoder of a well-formed instruction, written from the same
encoding tables; and the decoder and encoder of host command records (R336). -/

namespace Sys2Proof

/-! ### Fields -/

/-- The skeleton's fields (R118). -/
structure Skel where
  op  : BitVec 8
  pr  : BitVec 4 := 15
  pn  : Bool := false
  sc  : Bool := false
  rsv : BitVec 2 := 0
  d   : BitVec 8 := 0
  a   : BitVec 8 := 0
  b   : BitVec 8 := 0
  c   : BitVec 8 := 0
  fn  : BitVec 8 := 0
  mod : BitVec 8 := 0
  imm : BitVec 32 := 0
deriving DecidableEq, Repr

/-- The fields of a slot (R118). -/
def Skel.ofSlot (w : BitVec 96) : Skel :=
  { op := w.extractLsb' 0 8, pr := w.extractLsb' 8 4, pn := w.getLsbD 12, sc := w.getLsbD 13,
    rsv := w.extractLsb' 14 2, d := w.extractLsb' 16 8, a := w.extractLsb' 24 8, b := w.extractLsb' 32 8,
    c := w.extractLsb' 40 8, fn := w.extractLsb' 48 8, mod := w.extractLsb' 56 8, imm := w.extractLsb' 64 32 }

/-- The slot of the fields (R118). -/
def Skel.toSlot (k : Skel) : BitVec 96 :=
  k.imm ++ k.mod ++ k.fn ++ k.c ++ k.b ++ k.a ++ k.d ++ k.rsv ++ BitVec.ofBool k.sc ++ BitVec.ofBool k.pn ++ k.pr ++ k.op

/-- Why a slot is no instruction: fault 0x01 or 0x02 (R116). -/
inductive DecErr where
  | illegal | reserved
deriving DecidableEq, Repr

/-- The bits an instruction uses of each field; the others must be 0 (R119). -/
structure Use where
  d   : Bool := false
  a   : Bool := false
  b   : Bool := false
  c   : BitVec 8 := 0
  fn  : BitVec 8 := 0
  mod : BitVec 8 := 0
  imm : BitVec 32 := 0
deriving DecidableEq, Repr

/-- Every unused bit is 0, the skeleton's reserved bits among them (R116 check 4). -/
def Skel.clean (k : Skel) (u : Use) : Bool :=
  k.rsv == 0 && (u.d || k.d == 0) && (u.a || k.a == 0) && (u.b || k.b == 0) && (k.c &&& ~~~u.c) == 0 &&
  (k.fn &&& ~~~u.fn) == 0 && (k.mod &&& ~~~u.mod) == 0 && (k.imm &&& ~~~u.imm) == 0

/-- The guard (R120). -/
def Skel.g (k : Skel) : Guard := ⟨k.pr, k.pn⟩

/-! ### Code tables -/

/-- BSEL (R123). -/
def Skel.bsel (k : Skel) : Nat := (k.mod.extractLsb' 6 2).toNat
/-- TYPE (R123, R125). -/
def Skel.ty (k : Skel) : BitVec 4 := k.mod.extractLsb' 0 4

/-- RND codes (R56, R123). -/
def Rnd.code : Rnd → BitVec 2
  | .rne => 0 | .rtz => 1 | .rup => 2 | .rdn => 3
/-- The mode of an RND code. -/
def Rnd.ofCode (c : BitVec 2) : Rnd :=
  match c.toNat with | 0 => .rne | 1 => .rtz | 2 => .rup | _ => .rdn

/-- SPACE codes (R124). -/
def Space.code : Space → BitVec 2
  | .prv => 0 | .scr => 1 | .glb => 2
/-- The space of a code; 3 is reserved. -/
def Space.ofCode (c : BitVec 2) : Option Space :=
  match c.toNat with | 0 => some .prv | 1 => some .scr | 2 => some .glb | _ => none

/-- SCOPE codes (R124). -/
def Scope.code : Scope → BitVec 3
  | .wv => 0 | .grp => 1 | .gng => 2 | .dev => 3 | .sys => 4
/-- The scope of a code; 5 to 7 are reserved. -/
def Scope.ofCode (c : BitVec 3) : Option Scope :=
  match c.toNat with | 0 => some .wv | 1 => some .grp | 2 => some .gng | 3 => some .dev | 4 => some .sys | _ => none

/-- ORD codes (R124). -/
def Order.code : Order → BitVec 3
  | .rlx => 0 | .acq => 1 | .rel => 2 | .ar => 3 | .sc => 4
/-- The order of a code; 5 to 7 are reserved. -/
def Order.ofCode (c : BitVec 3) : Option Order :=
  match c.toNat with | 0 => some .rlx | 1 => some .acq | 2 => some .rel | 3 => some .ar | 4 => some .sc | _ => none

/-- POL codes (R125). -/
def Policy.code : Policy → BitVec 2
  | .l1 => 0 | .hs => 1 | .strm => 2 | .keep => 3
/-- The policy of a code. -/
def Policy.ofCode (c : BitVec 2) : Policy :=
  match c.toNat with | 0 => .l1 | 1 => .hs | 2 => .strm | _ => .keep

/-- TYPE codes of the memory class (R125). -/
def MemTy.code : MemTy → BitVec 4
  | .alu t => t.code
  | .i8 => 12 | .n8 => 13 | .i16 => 14 | .n16 => 15
/-- The memory type of a TYPE code (R125). -/
def MemTy.ofCode (c : BitVec 4) : MemTy :=
  match AluTy.ofCode c with
  | some t => .alu t
  | none => match c.toNat with | 12 => .i8 | 13 => .n8 | 14 => .i16 | _ => .n16

/-- CC codes (R158). -/
def Cond.code : Cond → BitVec 3
  | .eq => 0 | .ne => 1 | .lt => 2 | .le => 3 | .gt => 4 | .ge => 5
/-- The condition of a CC code; 6 and 7 are reserved. -/
def Cond.ofCode (c : BitVec 3) : Option Cond :=
  match c.toNat with
  | 0 => some .eq | 1 => some .ne | 2 => some .lt | 3 => some .le | 4 => some .gt | 5 => some .ge | _ => none
/-- CC codes of `fcmp` (R166). -/
def FCond.code : FCond → BitVec 3
  | .rel c => c.code | .uo => 6 | .ord => 7
/-- The float condition of a CC code. -/
def FCond.ofCode (c : BitVec 3) : FCond :=
  match Cond.ofCode c with | some r => .rel r | none => if c == 6 then .uo else .ord
/-- CMB codes (R158). -/
def Combine.code : Combine → BitVec 2
  | .none => 0 | .and => 1 | .or => 2 | .xor => 3
/-- The combination of a CMB code. -/
def Combine.ofCode (c : BitVec 2) : Combine :=
  match c.toNat with | 0 => .none | 1 => .and | 2 => .or | _ => .xor

/-- FN of `shfl` (R159). -/
def ShflMode.code : ShflMode → BitVec 8
  | .idx => 0 | .up => 1 | .down => 2 | .xor => 3
/-- The mode of an FN value. -/
def ShflMode.ofCode (c : BitVec 8) : Option ShflMode :=
  match c.toNat with | 0 => some .idx | 1 => some .up | 2 => some .down | 3 => some .xor | _ => none
/-- FN of `vote` (R159). -/
def VoteOp.code : VoteOp → BitVec 8
  | .some => 0 | .every => 1 | .same => 2 | .mask => 3
/-- The operation of an FN value. -/
def VoteOp.ofCode (c : BitVec 8) : Option VoteOp :=
  match c.toNat with
  | 0 => Option.some .some | 1 => Option.some .every | 2 => Option.some .same | 3 => Option.some .mask | _ => none
/-- FN of `wred` (R159). -/
def RedOp.code : RedOp → BitVec 8
  | .add => 0 | .min => 1 | .max => 2 | .and => 3 | .or => 4 | .xor => 5
/-- The operation of an FN value. -/
def RedOp.ofCode (c : BitVec 8) : Option RedOp :=
  match c.toNat with
  | 0 => some .add | 1 => some .min | 2 => some .max | 3 => some .and | 4 => some .or | 5 => some .xor | _ => none

/-- SUB of `atom` and `red` (R188). -/
def AtomOp.code : AtomOp → BitVec 4
  | .add => 0 | .min => 1 | .max => 2 | .and => 3 | .or => 4 | .xor => 5 | .exch => 6 | .cas => 7
  | .upto => 8 | .downto => 9 | .fadd => 10 | .fmin => 11 | .fmax => 12
/-- The operation of a SUB value; 13 to 15 are reserved. -/
def AtomOp.ofCode (c : BitVec 4) : Option AtomOp :=
  match c.toNat with
  | 0 => some .add | 1 => some .min | 2 => some .max | 3 => some .and | 4 => some .or | 5 => some .xor
  | 6 => some .exch | 7 => some .cas | 8 => some .upto | 9 => some .downto | 10 => some .fadd
  | 11 => some .fmin | 12 => some .fmax | _ => none
/-- SUB of `moor` (R196). -/
def MoorCond.code : MoorCond → BitVec 4
  | .eq => 0 | .ne => 1 | .lt => 2 | .le => 3 | .gt => 4 | .ge => 5 | .any => 6 | .none => 7
/-- The condition of a SUB value; 8 to 15 are reserved. -/
def MoorCond.ofCode (c : BitVec 4) : Option MoorCond :=
  match c.toNat with
  | 0 => some .eq | 1 => some .ne | 2 => some .lt | 3 => some .le | 4 => some .gt | 5 => some .ge
  | 6 => some .any | 7 => some .none | _ => Option.none
/-- SRC of `hmma` (R224). -/
def HoopSrc.code : HoopSrc → BitVec 8
  | .buf => 0 | .sp => 1 | .cb => 2
/-- The source of a SRC value; 3 is reserved. -/
def HoopSrc.ofCode (c : BitVec 8) : Option HoopSrc :=
  match c.toNat with | 0 => some .buf | 1 => some .sp | 2 => some .cb | _ => none
/-- Kinds of `crvemit` (R252). -/
def CurveKind.code : CurveKind → BitVec 8
  | .line => 0 | .quad => 1 | .cubic => 2
/-- The kind of an FN value; 3 is reserved. -/
def CurveKind.ofCode (c : BitVec 8) : Option CurveKind :=
  match c.toNat with | 0 => some .line | 1 => some .quad | 2 => some .cubic | _ => none
/-- Rules of `crvres` (R252). -/
def CurveRule.code : CurveRule → BitVec 2
  | .nz => 0 | .eo => 1 | .raw => 2
/-- The rule of a value; 3 is reserved. -/
def CurveRule.ofCode (c : BitVec 2) : Option CurveRule :=
  match c.toNat with | 0 => some .nz | 1 => some .eo | 2 => some .raw | _ => none

/-! ### The ALU class -/

/-- Operand B of a slot (R123); BSEL 3 is reserved. -/
def Skel.srcB (k : Skel) : Option SrcB :=
  match k.bsel with | 0 => some (.v k.b) | 1 => some (.s k.b) | 2 => some (.imm k.imm) | _ => none

/-- The ALU operands of a slot; TYPE 12 to 15 and BSEL 3 are reserved (R123). -/
def Skel.alu (k : Skel) (F : AluForm) : Option Alu := do
  let ty ← AluTy.ofCode k.ty
  let b ← if F.bForm = .none then some (.v 0) else k.srcB
  pure ⟨k.g, k.sc, ty, Rnd.ofCode (k.mod.extractLsb' 4 2), k.d, k.a, b, k.c⟩

/-- The bits an ALU form uses, with FN bits `fn`, C used when `c` and rounding when `rnd` (R122, R123). -/
def Skel.useAlu (k : Skel) (F : AluForm) (fn : BitVec 8) (rnd : Bool) (c : Bool := F.cFile ≠ .none) : Use :=
  let hasB := F.bForm ≠ .none
  { d := true, a := F.aUsed, b := hasB && k.bsel ≠ 2, c := if c then 0xFF else 0, fn,
    mod := 0x0F ||| (if rnd then 0x30 else 0) ||| (if hasB then 0xC0 else 0),
    imm := if F.immFree || (hasB && k.bsel = 2) then 0xFFFFFFFF else 0 }

/-- The fields of ALU operands under opcode `op` (R118, R123). -/
def Alu.skel (o : Alu) (op : BitVec 8) (fn : BitVec 8 := 0) (imm : Word := 0) : Skel :=
  let (bs, b, im) := match o.b with | .v n => ((0 : BitVec 2), n, imm) | .s n => (1, n, imm) | .imm w => (2, 0, w)
  { op, pr := o.g.pr, pn := o.g.neg, sc := o.sc, d := o.d, a := o.a, b, c := o.c, fn,
    mod := bs ++ o.rnd.code ++ o.ty.code, imm := im }

/-! ### The memory class -/

/-- BV and IV (R126). -/
def Skel.bv (k : Skel) : Bool := k.fn.getLsbD 5
/-- The index is present. -/
def Skel.iv (k : Skel) : Bool := k.fn.getLsbD 4
/-- SUB (R126). -/
def Skel.sub (k : Skel) : BitVec 4 := k.fn.extractLsb' 0 4

/-- The base and index of a slot (R126). -/
def Skel.base (k : Skel) : Option (BitVec 8) := if k.bv then some k.a else none
/-- The index register and scale. -/
def Skel.index (k : Skel) : Option (BitVec 8 × BitVec 2) :=
  if k.iv then some (k.b, k.fn.extractLsb' 6 2) else none

/-- The memory operands of a slot; reserved spaces, scopes and orders have none (R124). -/
def Skel.mem (k : Skel) : Option Mem := do
  let space ← Space.ofCode (k.c.extractLsb' 0 2)
  let scope ← Scope.ofCode (k.c.extractLsb' 2 3)
  let ord ← Order.ofCode (k.c.extractLsb' 5 3)
  pure { g := k.g, d := k.d, base := k.base, index := k.index, off := k.imm, space, scope, ord,
         pol := Policy.ofCode (k.mod.extractLsb' 6 2), rnd := Rnd.ofCode (k.mod.extractLsb' 4 2),
         ty := MemTy.ofCode k.ty }

/-- The bits a memory operand uses of A, B, FN and IMM32 (R126). -/
def Skel.useAddr (k : Skel) : Use :=
  { d := true, a := k.bv, b := k.iv, c := 0xFF, fn := if k.iv then 0xFF else 0x3F, imm := 0xFFFFFFFF }

/-- The bits a memory access uses; the policy and rounding bits where it has them (R124 to R126). -/
def Skel.useMem (k : Skel) (pol rnd : Bool) : Use :=
  { k.useAddr with mod := 0x0F ||| (if pol then 0xC0 else 0) ||| (if rnd then 0x30 else 0) }

/-- FN of an address form (R126). -/
def addrFn (base : Option (BitVec 8)) (index : Option (BitVec 8 × BitVec 2)) (sub : BitVec 4) : BitVec 8 :=
  (match index with | some (_, sc) => sc | none => 0) ++ BitVec.ofBool base.isSome ++ BitVec.ofBool index.isSome ++ sub

/-- The fields of a memory access under opcode `op` (R124 to R126). -/
def Mem.skel (m : Mem) (op : BitVec 8) (sub : BitVec 4 := 0) (sc : Bool := false) : Skel :=
  { op, pr := m.g.pr, pn := m.g.neg, sc, d := m.d, a := m.base.getD 0, b := (m.index.map (·.1)).getD 0,
    c := m.ord.code ++ m.scope.code ++ m.space.code, fn := addrFn m.base m.index sub,
    mod := m.pol.code ++ m.rnd.code ++ m.ty.code, imm := m.off }

/-! ### Other operand forms -/

/-- A bar operand (R200). -/
def Skel.bar (k : Skel) : BarRef := ⟨k.imm.getLsbD 8, k.imm.extractLsb' 4 4, k.imm.extractLsb' 0 4⟩
/-- The IMM32 of a bar operand. -/
def BarRef.imm (b : BarRef) : Word := (0 : BitVec 23) ++ BitVec.ofBool b.peer ++ b.owner ++ b.index
/-- The IMM32 bits a bar operand uses: OWNER only with PEER (R200). -/
def Skel.barMask (k : Skel) : BitVec 32 := if k.imm.getLsbD 8 then 0x1FF else 0x10F

/-- A pin operand (R202). -/
def Skel.pin (k : Skel) : PinSrc := if k.fn.getLsbD 0 then .reg k.b else .imm (k.imm.extractLsb' 0 14)
/-- B, FN and IMM32 of a pin operand. -/
def PinSrc.fields : PinSrc → BitVec 8 × BitVec 8 × Word
  | .imm p => (0, 0, (0 : BitVec 18) ++ p)
  | .reg b => (b, 1, 0)
/-- The bits a pin operand uses beside D and A. -/
def Skel.usePin (k : Skel) (d : Bool) : Use :=
  { d, a := true, b := k.fn.getLsbD 0, fn := 1, imm := if k.fn.getLsbD 0 then 0 else 0x3FFF }

/-- A record operand (R238). -/
def Skel.recRef (k : Skel) : RecRef := if k.fn.getLsbD 7 then .reg (k.fn.extractLsb' 0 6) else .pool (k.imm.extractLsb' 0 12)
/-- FN and IMM32 of a record operand. -/
def RecRef.fields : RecRef → BitVec 8 × Word
  | .pool i => (0, (0 : BitVec 20) ++ i)
  | .reg s => ((2 : BitVec 2) ++ s, 0)
/-- The bits a record operand uses of FN and IMM32, beside register fields. -/
def Skel.useRec (k : Skel) (d a b : Bool) (c : Bool) (mod : BitVec 8 := 0) : Use :=
  { d, a, b, c := if c then 0xFF else 0, mod,
    fn := if k.fn.getLsbD 7 then 0xBF else 0x80, imm := if k.fn.getLsbD 7 then 0 else 0xFFF }

/-- A shuttle transfer's operands; its scope is in MOD [2:0] (R217). -/
def Skel.shuttle (k : Skel) : Option Shuttle := do
  let scope ← Scope.ofCode (k.mod.extractLsb' 0 3)
  pure ⟨k.g, k.d, k.a, k.b, k.c, scope, k.imm.extractLsb' 0 12⟩
/-- The fields of a shuttle transfer. -/
def Shuttle.skel (o : Shuttle) (op fn : BitVec 8) : Skel :=
  { op, pr := o.g.pr, pn := o.g.neg, d := o.d, a := o.a, b := o.b, c := o.c, fn,
    mod := (0 : BitVec 5) ++ o.scope.code, imm := (0 : BitVec 20) ++ o.pool }

/-- Whether FN has this value. -/
def Skel.fnIs (k : Skel) (n : BitVec 8) : Option Unit := if k.fn == n then some () else none
/-- Whether SC has this value (R121). -/
def Skel.scIs (k : Skel) (b : Bool) : Option Unit := if k.sc == b then some () else none
/-- A bit as one FN bit. -/
def fnBit (b : Bool) : BitVec 8 := if b then 1 else 0

/-! ### Opcodes -/

/-- What a slot's opcode reads its other fields as: the bits it uses and the instruction they form, if any. `bwflush.rng` with
BV = 0 forms none (log entry 57). -/
def Skel.parse (k : Skel) : Option (Use × Option Instr) :=
  let all : Use := ⟨true, true, true, 0xFF, 0xFF, 0xFF, 0xFFFFFFFF⟩
  let alu (F : AluForm) (f : Alu → Instr) := some (k.useAlu F 0 F.rounds, (k.alu F).map f)
  let sat (F : AluForm) (f : Alu → Bool → Instr) := some (k.useAlu F 1 false, (k.alu F).map (f · (k.fn.getLsbD 0)))
  let u0 : Use := {}
  let ns (u : Use) (i : Option Instr) := some (u, do k.scIs false; i)
  match k.op.toNat with
  | 0x01 => sat Form.iadd .iadd
  | 0x02 => sat Form.isub .isub
  | 0x03 => alu Form.imul .imul
  | 0x04 => alu Form.imulhi .imulhi
  | 0x05 => sat Form.imad .imad
  | 0x06 => alu Form.imin .imin
  | 0x07 => alu Form.imax .imax
  | 0x08 => sat Form.iabs .iabs
  | 0x09 => alu Form.and .and
  | 0x0A => alu Form.or .or
  | 0x0B => alu Form.xor .xor
  | 0x0C => alu Form.andn .andn
  | 0x0D => alu Form.shl .shl
  | 0x0E => alu Form.shr .shr
  | 0x0F => alu Form.sar .sar
  | 0x10 => alu Form.rot .rot
  | 0x11 => alu Form.bfe .bfe
  | 0x12 => alu Form.bfi .bfi
  | 0x13 => alu Form.popc .popc
  | 0x14 => alu Form.clz .clz
  | 0x15 => alu Form.ctz .ctz
  | 0x16 => alu Form.brev .brev
  | 0x17 => alu Form.perm .perm
  | 0x18 => alu Form.sel .sel
  | 0x19 =>
    let cmb := Combine.ofCode (k.fn.extractLsb' 4 2)
    some (k.useAlu Form.icmp 0x37 false (cmb ≠ .none), do
      pure (.icmp (← k.alu Form.icmp) (← Cond.ofCode (k.fn.extractLsb' 0 3)) cmb))
  | 0x1A =>
    let two (f : BitVec 8 → BitVec 8 → PsetOp) :=
      ns { d := true, a := true, b := true, fn := 0xFF } (some (.pset k.g k.d (f k.a k.b)))
    match k.fn.toNat with
    | 0 => two .and
    | 1 => two .or
    | 2 => two .xor
    | 3 => two .andn
    | 4 => ns { d := true, a := true, fn := 0xFF } (some (.pset k.g k.d (.not k.a)))
    | 5 => ns { d := true, fn := 0xFF, imm := 0xFFFFFFFF } (some (.pset k.g k.d (.imm k.imm)))
    | 6 => ns { d := true, a := true, fn := 0xFF } (some (.pset k.g k.d (.nz k.a)))
    | _ => some ({ all with c := 0, mod := 0 }, none)
  | 0x1B =>
    match k.fn.toNat with
    | 0 => alu Form.mov .mov
    | 1 => some ({ d := true, b := k.bsel ≠ 2, fn := 1, mod := 0xCF, imm := if k.bsel = 2 then 0xFFFFFFFF else 0 }, do
        k.scIs true
        if k.ty ≠ 1 then none else pure (.movToFormat k.g k.d (← k.srcB)))
    | 2 => some ({ d := true, b := true, fn := 2, mod := 0xCF }, do
        k.scIs true
        if k.ty ≠ 1 ∨ k.bsel ≠ 0 then none else pure (.movFromFormat k.g k.d k.b))
    | _ => some ({ d := true, b := k.bsel ≠ 2, fn := 0xFF, mod := 0xCF, imm := if k.bsel = 2 then 0xFFFFFFFF else 0 }, none)
  | 0x1C => some ({ d := true, mod := 0x0F, imm := 0xFFFFFFFF }, do
      pure (.movi k.g k.sc (← AluTy.ofCode k.ty) k.d k.imm))
  | 0x1D => some (k.useAlu Form.lea 3 false, (k.alu Form.lea).map (.lea · (k.fn.extractLsb' 0 2)))
  | 0x20 => some (k.useAlu Form.shfl 0xFF false, do pure (.shfl (← k.alu Form.shfl) (← ShflMode.ofCode k.fn)))
  | 0x21 => some (k.useAlu Form.bcast 0xFF false, do k.fnIs 0; pure (.bcast (← k.alu Form.bcast)))
  | 0x22 => some ({ d := true, a := true, fn := 0xFF }, do
      let op ← VoteOp.ofCode k.fn
      k.scIs (op == .mask)
      pure (.vote k.g op k.d k.a))
  | 0x23 => some (k.useAlu Form.wred 0xFF (k.fn == 0 && (k.ty == 6 || k.ty == 9)), do
      pure (.wred (← k.alu Form.wred) (← RedOp.ofCode k.fn)))
  | 0x24 => some (k.useAlu Form.wscan 0xFF ((k.fn &&& 7) == 0 && (k.ty == 6 || k.ty == 9)), do
      pure (.wscan (← k.alu Form.wscan) (← RedOp.ofCode (k.fn &&& 0xF7)) (k.fn.getLsbD 3)))
  | 0x25 => some (k.useAlu Form.rdlane 0xFF false, do k.fnIs 0; pure (.rdlane (← k.alu Form.rdlane)))
  | 0x26 => some (k.useAlu Form.wrlane 0xFF false, do k.fnIs 0; pure (.wrlane (← k.alu Form.wrlane)))
  | 0x27 => some (k.useAlu Form.matchLanes 0xFF false, do k.fnIs 0; pure (.matchLanes (← k.alu Form.matchLanes)))
  | 0x30 => alu Form.fadd .fadd
  | 0x31 => alu Form.fsub .fsub
  | 0x32 => alu Form.fmul .fmul
  | 0x33 => alu Form.ffma .ffma
  | 0x34 => alu Form.fmin .fmin
  | 0x35 => alu Form.fmax .fmax
  | 0x36 =>
    let cmb := Combine.ofCode (k.fn.extractLsb' 4 2)
    some (k.useAlu Form.fcmp 0x37 false (cmb ≠ .none),
      (k.alu Form.fcmp).map (.fcmp · (FCond.ofCode (k.fn.extractLsb' 0 3)) cmb))
  | 0x37 => alu Form.fclamp .fclamp
  | 0x38 => alu Form.frcp .frcp
  | 0x39 => alu Form.frsq .frsq
  | 0x3A => alu Form.fsqrt .fsqrt
  | 0x3B => alu Form.fexp2 .fexp2
  | 0x3C => alu Form.flog2 .flog2
  | 0x3D => alu Form.fsinpi .fsinpi
  | 0x3E => alu Form.fcospi .fcospi
  | 0x3F => alu Form.fround .fround
  | 0x40 => alu Form.ffract .ffract
  | 0x41 => alu Form.fdiv .fdiv
  | 0x42 => alu Form.fdot2 .fdot2
  | 0x43 => some (k.useAlu Form.idot4 3 false,
      (k.alu Form.idot4).map (.idot4 · (k.fn.getLsbD 0) (k.fn.getLsbD 1)))
  | 0x44 => alu Form.fldexp .fldexp
  | 0x45 => alu Form.fclass .fclass
  | 0x46 =>
    let src := AluTy.ofCode (k.fn.extractLsb' 0 4)
    let F := Form.fcvt (src.getD .f64) ((AluTy.ofCode k.ty).getD .f64)
    let el := match AluTy.ofCode k.ty, src with | some t, some s => Form.fcvtElem t s || !Form.fcvtPair t s | _, _ => true
    some (k.useAlu F (if el then 0x1F else 0x0F) true, do pure (.fcvt (← k.alu F) (← src) (k.fn.getLsbD 4)))
  | 0x47 => some (k.useAlu Form.f2i 0x0F true, do pure (.f2i (← k.alu Form.f2i) (← AluTy.ofCode (k.fn.extractLsb' 0 4))))
  | 0x48 => some (k.useAlu Form.i2f 0x0F true, do pure (.i2f (← k.alu Form.i2f) (← AluTy.ofCode (k.fn.extractLsb' 0 4))))
  | 0x50 => some (k.useAlu Form.qpack 0 true,
      (k.alu Form.qpack).map (.qpack · (if k.bsel = 2 then 0 else k.imm)))
  | 0x51 => alu Form.qunpack .qunpack
  | 0x52 => alu Form.qscale .qscale
  | 0x53 => alu Form.qamax .qamax
  | 0x60 => ns u0 (some (.nop k.g))
  | 0x61 => ns { u0 with imm := 0xFFFFFFFF } (some (.bra k.g k.imm))
  | 0x62 => some ({ u0 with a := true }, some (.brx k.g k.sc k.a))
  | 0x63 =>
    if k.fn.getLsbD 0 then some ({ u0 with a := true, fn := 1 }, some (.callIndirect k.g k.sc k.a))
    else ns { u0 with imm := 0xFFFFFFFF } (some (.call k.g k.imm))
  | 0x64 => ns u0 (some (.ret k.g))
  | 0x65 => ns u0 (some (.exit k.g))
  | 0x66 => ns u0 (some (.yield k.g))
  | 0x67 => ns { u0 with fn := 7, imm := 0xFFFFFFFF } (some (.ipref k.g k.imm (k.fn.extractLsb' 0 3)))
  | 0x68 => ns { u0 with a := true, b := true } (some (.ifence k.g k.a k.b))
  | 0x69 => ns { u0 with b := k.bsel ≠ 2, mod := 0xC0, imm := if k.bsel = 2 then 0xFFFFFFFF else 0 }
      (match k.bsel with | 1 => some (.wsync k.g (.s k.b)) | 2 => some (.wsync k.g (.imm k.imm)) | _ => none)
  | 0x70 => ns (k.useMem true false) (do guard (k.sub = 0); pure (.ld (← k.mem)))
  | 0x71 => ns (k.useMem true false) (do guard (k.sub = 0); pure (.st (← k.mem)))
  | 0x72 => ns (k.useMem true true) (do pure (.ldq (← k.mem) k.sub))
  | 0x73 => ns (k.useMem true true) (do pure (.stq (← k.mem) k.sub))
  | 0x74 => some ({ k.useMem true false with a := true, b := false, fn := 0x2F }, do
      k.scIs true; guard (k.sub = 0); pure (.lds (← k.mem)))
  | 0x75 => ns (k.useMem true false) (do pure (.atom (← k.mem) (← AtomOp.ofCode k.sub)))
  | 0x76 => ns (k.useMem true false) (do pure (.red (← k.mem) (← AtomOp.ofCode k.sub)))
  | 0x77 => ns (k.useMem false false) (do
      let m ← k.mem
      match k.sub.toNat with | 0 => pure (.bwaddX m) | 1 => pure (.bwaddR m) | _ => none)
  | 0x78 =>
    let ok : Option Unit := do guard (k.c = 0x0E ∧ k.ty = 0)
    match k.sub.toNat with
    | 0 => ns { u0 with c := 0xFF, fn := 0x0F, mod := 0x0F } (do ok; pure (.bwflush k.g none))
    | 1 => ns { u0 with d := true, a := true, c := 0xFF, fn := 0x2F, mod := 0x0F, imm := 0xFFFFFFFF } (do
        ok; guard k.bv; pure (.bwflush k.g (some (k.d, k.a, k.imm))))
    | _ => ns { u0 with d := true, a := true, c := 0xFF, fn := 0x2F, mod := 0x0F, imm := 0xFFFFFFFF } none
  | 0x79 => ns { k.useMem true false with d := false } (do guard (k.sub = 0); pure (.prefd (← k.mem)))
  | 0x7A => ns { k.useMem false false with d := false } (do
      let m ← k.mem
      match k.sub.toNat with | 0 => pure (.cwbInv m) | 1 => pure (.cwbWb m) | _ => none)
  | 0x7B => ns { u0 with c := 0xFC, fn := 0x0F, mod := 0x0F } (do
      guard (k.sub = 0 ∧ k.ty = 0)
      pure (.fence k.g (← Scope.ofCode (k.c.extractLsb' 2 3)) (← Order.ofCode (k.c.extractLsb' 5 3))))
  | 0x7C => ns (k.useMem false false) (do pure (.moor (← k.mem) (← MoorCond.ofCode k.sub)))
  | 0x7D => ns { u0 with d := true, a := true, b := true, fn := 0x0F } (do guard (k.sub = 0); pure (.smap k.g k.d k.a k.b))
  | 0x7E => ns { u0 with a := true, fn := 0x0F } (do guard (k.sub = 0); pure (.sunmap k.g k.a))
  | 0x7F => ns { u0 with a := k.sub ≠ 1, fn := 0x0F } (match k.sub.toNat with
      | 0 => some (.swb k.g (some k.a)) | 1 => some (.swb k.g none) | _ => none)
  | 0x80 => ns { u0 with d := true, a := true, b := true, imm := k.barMask } (some (.binit k.g k.d k.a k.b k.bar))
  | 0x81 => ns { u0 with d := true, a := true, imm := k.barMask } (some (.barrive k.g k.d k.a k.bar))
  | 0x82 => ns { u0 with d := true, a := true, imm := k.barMask } (some (.bwait k.g k.d k.a k.bar))
  | 0x83 => ns { u0 with d := true, a := true, imm := k.barMask } (some (.bsync k.g k.d k.a k.bar))
  | 0x84 => ns { u0 with imm := k.barMask } (some (.binval k.g k.bar))
  | 0x85 => ns { u0 with imm := 0x3F3F3F3F } (some (.wait k.g (k.imm.extractLsb' 0 6) (k.imm.extractLsb' 8 6)
      (k.imm.extractLsb' 16 6) (k.imm.extractLsb' 24 6)))
  | 0x86 => ns (k.usePin false) (some (.pinadd k.g k.a k.pin))
  | 0x87 => ns (k.usePin true) (some (.pinwait k.g k.d k.a k.pin))
  | 0x88 => ns (k.usePin false) (some (.pinset k.g k.a k.pin))
  | 0x89 => ns u0 (some (.bobtake k.g))
  | 0x8A => ns u0 (some (.bobpass k.g))
  | 0x8B => ns u0 (some (.phase k.g))
  | 0x8C => ns { u0 with d := true, a := true, b := k.fn.getLsbD 0, fn := 1 }
      (some (.launch k.g k.d k.a (if k.fn.getLsbD 0 then some k.b else none)))
  | 0x8D => some ({ u0 with a := true, fn := 1 }, some (.ebbpush k.g k.sc k.a (k.fn.getLsbD 0)))
  | 0x8E => ns { u0 with d := true, a := true, b := true, fn := 0xFF, imm := if k.fn = 0 then 0 else 0xFFFFFFFF }
      (match k.fn.toNat with
        | 0 => some (.ebbmarkRecomp k.g k.d k.a k.b) | 1 => some (.ebbmarkNeeds k.g k.d k.a k.b k.imm) | _ => none)
  | 0x90 => ns { u0 with d := true, a := true, b := true, c := 0xFF, fn := 7, mod := 7, imm := 0xFFF } (do
      pure (.shcopy (← k.shuttle) (k.fn.getLsbD 0) (k.fn.getLsbD 1) (k.fn.getLsbD 2)))
  | 0x91 => ns { u0 with d := true, a := true, b := true, c := 0xFF, mod := 7, imm := 0xFFF } (do
      pure (.shfill (← k.shuttle)))
  | 0x92 => ns { u0 with d := true, a := true, b := true, c := 0xFF, fn := 2, mod := 7, imm := 0xFFF } (do
      pure (.shgath (← k.shuttle) (k.fn.getLsbD 1)))
  | 0x93 => ns { u0 with d := true, a := true, b := true, c := 0xFF, fn := 2, mod := 7, imm := 0xFFF } (do
      pure (.shscat (← k.shuttle) (k.fn.getLsbD 1)))
  | 0x94 => ns { u0 with d := true, a := true, b := true, mod := 7 } (do
      pure (.bmtest k.g (← Scope.ofCode (k.mod.extractLsb' 0 3)) k.d k.a k.b))
  | 0x95 => ns { u0 with a := true, b := true, mod := 7 } (do
      pure (.bmwait k.g (← Scope.ofCode (k.mod.extractLsb' 0 3)) k.a k.b))
  | 0x96 => ns { u0 with a := true, b := true } (some (.bmclr k.g k.a k.b))
  | 0x98 => ns { u0 with d := true, a := true } (some (.hres k.g k.d k.a))
  | 0x99 => ns { u0 with a := true } (some (.hrel k.g k.a))
  | 0x9A => ns { u0 with d := true, a := true, fn := 7 } (some (.hbwr k.g k.d k.a (k.fn.extractLsb' 0 3)))
  | 0x9B => ns { u0 with d := true, a := true, fn := 7 } (some (.hbrd k.g k.d k.a (k.fn.extractLsb' 0 3)))
  | 0x9C => ns { u0 with a := true, b := true, c := 0xFF, imm := 0xFFFFFFFF } (some (.skld k.g k.a k.b k.c k.imm))
  | 0x9D => ns { u0 with d := true, a := true } (some (.hcvr k.g k.d k.a))
  | 0x9E => ns { u0 with d := true, a := true, b := true, c := 0xFF, fn := 3, mod := 0x30, imm := 0x1FF } (do
      pure (.hmma k.g (← HoopSrc.ofCode k.fn) k.d k.a k.b k.c (k.imm.extractLsb' 0 9) (k.mod.extractLsb' 4 2)))
  | 0x9F => ns u0 (some (.hcbeg k.g))
  | 0xA0 => ns u0 (some (.hcend k.g))
  | 0xA1 => ns { u0 with d := true, c := 0xFF, imm := 0x1FF } (some (.hzero k.g k.d k.c (k.imm.extractLsb' 0 9)))
  | 0xA2 => ns { u0 with d := true, a := true, b := true, c := 0xFF, mod := 0x3F,
                         fn := if k.fn.getLsbD 4 then 0x3F else 0x30 } (do
      pure (.hacst k.g k.d k.a k.b k.c (k.fn.getLsbD 5) (k.fn.getLsbD 4) (k.fn.extractLsb' 0 4)
        (Rnd.ofCode (k.mod.extractLsb' 4 2)) (← AluTy.ofCode k.ty)))
  | 0xA3 => ns { u0 with d := true, a := true, b := true, c := 0xFF, mod := 0x3F, fn := 0x30 } (do
      guard (!k.fn.getLsbD 4 ∧ k.mod.extractLsb' 4 2 = 0)
      pure (.hacld k.g k.d k.a k.b k.c (k.fn.getLsbD 5) (← AluTy.ofCode k.ty)))
  | 0xB0 => ns (k.useRec true true true true) (some (.spkey k.g k.d k.a k.b k.c k.recRef))
  | 0xB1 => ns (k.useRec false true false false) (some (.spsort k.g k.a k.recRef))
  | 0xB2 => ns (k.useRec true true false false) (some (.spseg k.g k.d k.a k.recRef))
  | 0xB3 => ns (k.useRec true true false false) (some (.spfetch k.g k.d k.a k.recRef))
  | 0xB4 => ns { u0 with d := true, a := true, b := true, c := 0xFF } (some (.spblend k.g k.d k.a k.b k.c))
  | 0xB5 => ns { u0 with d := true, a := true, b := true, c := 0xFF } (some (.spgrad k.g k.d k.a k.b k.c))
  | 0xB6 => ns (k.useRec true true false false) (some (.trimit k.g k.d k.a k.recRef))
  | 0xB7 => ns (k.useRec false true true false) (some (.vresolve k.g k.a k.b k.recRef))
  | 0xB8 => ns { u0 with a := true, b := true, fn := 3 } (do pure (.crvemit k.g (← CurveKind.ofCode k.fn) k.a k.b))
  | 0xB9 => ns { u0 with d := true, a := true, b := true, c := 0xFF, fn := 7 } (do
      pure (.crvres k.g (← CurveRule.ofCode (k.fn.extractLsb' 0 2)) (k.fn.getLsbD 2) k.d k.a k.b k.c))
  | 0xBA => ns (k.useRec true true false true 1) (some (.texs k.g (k.mod.getLsbD 0) k.d k.a k.c k.recRef))
  | 0xBB => ns (k.useRec true true false true) (some (.texf k.g k.d k.a k.c k.recRef))
  | 0xBC => ns { u0 with d := true, a := true, fn := 3, mod := 0x0F } (do
      guard (k.ty = 6)
      pure (.deriv k.g (k.fn.getLsbD 0) (k.fn.getLsbD 1) k.d k.a))
  | 0xBD => ns { u0 with a := true } (some (.quad k.g k.a))
  | 0xBE => ns (k.useRec true false false false) (some (.binres k.g k.d k.recRef))
  | 0xC0 => ns { u0 with d := true, a := true, b := true, c := 0xFF } (some (.topen k.g k.d k.a k.b k.c))
  | 0xC1 => ns { k.useAddr with mod := 0x0F, fn := k.useAddr.fn &&& 0xF0 }
      (some (.sttide k.g k.d k.base k.index k.imm (MemTy.ofCode k.ty) k.c))
  | 0xC2 => ns { u0 with d := true, a := true } (some (.tclose k.g k.d k.a))
  | 0xC3 => ns { u0 with a := true, b := true, c := 0xFF } (some (.tcommit k.g k.a k.b k.c))
  | 0xC4 => ns { u0 with d := true, a := true } (some (.tabort k.g k.d k.a))
  | 0xC5 => ns { u0 with d := true, a := true, fn := 1 } (some (.tstat k.g (k.fn.getLsbD 0) k.d k.a))
  | 0xC6 => ns (k.useRec false true true false) (some (.credmx k.g k.a k.b k.recRef))
  | 0xC7 => ns (k.useRec false true true false) (some (.cover k.g k.a k.b k.recRef))
  | 0xE0 => ns { u0 with imm := 0xFFFF } (some (.trap k.g (k.imm.extractLsb' 0 16)))
  | 0xE1 => ns { u0 with imm := 0xFFFF } (some (.brkpt k.g (k.imm.extractLsb' 0 16)))
  | 0xE2 => some ({ u0 with d := true, fn := 1, imm := 0xFFF },
      if k.fn.getLsbD 0 then (if k.imm = 0x19 then some (.rdsrClr k.g k.sc k.d) else none)
      else some (.rdsr k.g k.sc k.d (k.imm.extractLsb' 0 12)))
  | 0xE3 => ns { u0 with a := true, imm := 0xFFF } (some (.wrsr k.g k.a (k.imm.extractLsb' 0 12)))
  | 0xE4 => some ({ u0 with d := true }, do k.scIs true; pure (.rdcyc k.g k.d))
  | _ => none

/-- The decoder on fields: R116 checks 3, 4 and 5 in their order. -/
def decodeSkel (k : Skel) : Except DecErr Instr :=
  match k.parse with
  | none => .error .illegal
  | some (u, i) =>
    if !k.clean u then .error .reserved
    else match i with
      | some i => if i.wf then .ok i else .error .illegal
      | none => .error .illegal

/-- The decoder of a 96-bit slot. The zero slot and the fill slot (R129) decode to their own rows; any other slot of
opcode 0x00 or 0xFF is illegal. -/
def decodeSlot (w : BitVec 96) : Except DecErr Instr :=
  if w = 0 then .ok .zeroSlot
  else if w = BitVec.allOnes 96 then .ok .fillSlot
  else decodeSkel (Skel.ofSlot w)

/-! ### The encoder -/

/-- A guard's fields with an opcode (R120). -/
def Guard.skel (g : Guard) (op : BitVec 8) : Skel := { op, pr := g.pr, pn := g.neg }

/-- The opcode and fields of each wave instruction; host commands and events have none. -/
def Instr.skel : Instr → Option Skel
  | .iadd o sat => some (o.skel 0x01 (fnBit sat))
  | .isub o sat => some (o.skel 0x02 (fnBit sat))
  | .imul o => some (o.skel 0x03)
  | .imulhi o => some (o.skel 0x04)
  | .imad o sat => some (o.skel 0x05 (fnBit sat))
  | .imin o => some (o.skel 0x06)
  | .imax o => some (o.skel 0x07)
  | .iabs o sat => some (o.skel 0x08 (fnBit sat))
  | .and o => some (o.skel 0x09)
  | .or o => some (o.skel 0x0A)
  | .xor o => some (o.skel 0x0B)
  | .andn o => some (o.skel 0x0C)
  | .shl o => some (o.skel 0x0D)
  | .shr o => some (o.skel 0x0E)
  | .sar o => some (o.skel 0x0F)
  | .rot o => some (o.skel 0x10)
  | .bfe o => some (o.skel 0x11)
  | .bfi o => some (o.skel 0x12)
  | .popc o => some (o.skel 0x13)
  | .clz o => some (o.skel 0x14)
  | .ctz o => some (o.skel 0x15)
  | .brev o => some (o.skel 0x16)
  | .perm o => some (o.skel 0x17)
  | .sel o => some (o.skel 0x18)
  | .icmp o cc cmb => some (o.skel 0x19 ((0 : BitVec 2) ++ cmb.code ++ (0 : BitVec 1) ++ cc.code))
  | .pset g d op =>
    let k := { g.skel 0x1A with d }
    some (match op with
      | .and a b => { k with a, b, fn := 0 }
      | .or a b => { k with a, b, fn := 1 }
      | .xor a b => { k with a, b, fn := 2 }
      | .andn a b => { k with a, b, fn := 3 }
      | .not a => { k with a, fn := 4 }
      | .imm w => { k with imm := w, fn := 5 }
      | .nz a => { k with a, fn := 6 })
  | .mov o => some (o.skel 0x1B)
  | .movToFormat g d b => some (Alu.skel ⟨g, true, .n32, .rne, d, 0, b, 0⟩ 0x1B 1)
  | .movFromFormat g d b => some { g.skel 0x1B with sc := true, d, b, fn := 2, mod := 1 }
  | .movi g sc ty d w => some { g.skel 0x1C with sc, d, mod := (0 : BitVec 4) ++ ty.code, imm := w }
  | .lea o sh => some (o.skel 0x1D ((0 : BitVec 6) ++ sh))
  | .shfl o m => some (o.skel 0x20 m.code)
  | .bcast o => some (o.skel 0x21)
  | .vote g op d a => some { g.skel 0x22 with sc := op == .mask, d, a, fn := op.code }
  | .wred o op => some (o.skel 0x23 op.code)
  | .wscan o op excl => some (o.skel 0x24 (op.code ||| (if excl then 8 else 0)))
  | .rdlane o => some (o.skel 0x25)
  | .wrlane o => some (o.skel 0x26)
  | .matchLanes o => some (o.skel 0x27)
  | .fadd o => some (o.skel 0x30)
  | .fsub o => some (o.skel 0x31)
  | .fmul o => some (o.skel 0x32)
  | .ffma o => some (o.skel 0x33)
  | .fmin o => some (o.skel 0x34)
  | .fmax o => some (o.skel 0x35)
  | .fcmp o cc cmb => some (o.skel 0x36 ((0 : BitVec 2) ++ cmb.code ++ (0 : BitVec 1) ++ cc.code))
  | .fclamp o => some (o.skel 0x37)
  | .frcp o => some (o.skel 0x38)
  | .frsq o => some (o.skel 0x39)
  | .fsqrt o => some (o.skel 0x3A)
  | .fexp2 o => some (o.skel 0x3B)
  | .flog2 o => some (o.skel 0x3C)
  | .fsinpi o => some (o.skel 0x3D)
  | .fcospi o => some (o.skel 0x3E)
  | .fround o => some (o.skel 0x3F)
  | .ffract o => some (o.skel 0x40)
  | .fdiv o => some (o.skel 0x41)
  | .fdot2 o => some (o.skel 0x42)
  | .idot4 o mix sat => some (o.skel 0x43 (fnBit mix ||| (if sat then 2 else 0)))
  | .fldexp o => some (o.skel 0x44)
  | .fclass o => some (o.skel 0x45)
  | .fcvt o src el => some (o.skel 0x46 ((0 : BitVec 3) ++ BitVec.ofBool el ++ src.code))
  | .f2i o src => some (o.skel 0x47 ((0 : BitVec 4) ++ src.code))
  | .i2f o src => some (o.skel 0x48 ((0 : BitVec 4) ++ src.code))
  | .qpack o seed => some (o.skel 0x50 0 seed)
  | .qunpack o => some (o.skel 0x51)
  | .qscale o => some (o.skel 0x52)
  | .qamax o => some (o.skel 0x53)
  | .nop g => some (g.skel 0x60)
  | .bra g t => some { g.skel 0x61 with imm := t }
  | .brx g sc a => some { g.skel 0x62 with sc, a }
  | .call g t => some { g.skel 0x63 with imm := t }
  | .callIndirect g sc a => some { g.skel 0x63 with sc, a, fn := 1 }
  | .ret g => some (g.skel 0x64)
  | .exit g => some (g.skel 0x65)
  | .yield g => some (g.skel 0x66)
  | .ipref g t n => some { g.skel 0x67 with imm := t, fn := (0 : BitVec 5) ++ n }
  | .ifence g a b => some { g.skel 0x68 with a, b }
  | .wsync g m => some (match m with
      | .s n => { g.skel 0x69 with b := n, mod := 0x40 }
      | .imm w => { g.skel 0x69 with mod := 0x80, imm := w })
  | .ld m => some (m.skel 0x70)
  | .st m => some (m.skel 0x71)
  | .ldq m f => some (m.skel 0x72 f)
  | .stq m f => some (m.skel 0x73 f)
  | .lds m => some (m.skel 0x74 0 true)
  | .atom m op => some (m.skel 0x75 op.code)
  | .red m op => some (m.skel 0x76 op.code)
  | .bwaddX m => some (m.skel 0x77 0)
  | .bwaddR m => some (m.skel 0x77 1)
  | .bwflush g none => some { g.skel 0x78 with c := 0x0E }
  | .bwflush g (some (d, a, off)) => some { g.skel 0x78 with d, a, c := 0x0E, fn := 0x21, imm := off }
  | .prefd m => some (m.skel 0x79)
  | .cwbInv m => some (m.skel 0x7A 0)
  | .cwbWb m => some (m.skel 0x7A 1)
  | .fence g sc ord => some { g.skel 0x7B with c := ord.code ++ sc.code ++ (0 : BitVec 2) }
  | .moor m c => some (m.skel 0x7C c.code)
  | .smap g d a b => some { g.skel 0x7D with d, a, b }
  | .sunmap g a => some { g.skel 0x7E with a }
  | .swb g (some a) => some { g.skel 0x7F with a }
  | .swb g none => some { g.skel 0x7F with fn := 1 }
  | .binit g d a b bar => some { g.skel 0x80 with d, a, b, imm := bar.imm }
  | .barrive g d a bar => some { g.skel 0x81 with d, a, imm := bar.imm }
  | .bwait g d a bar => some { g.skel 0x82 with d, a, imm := bar.imm }
  | .bsync g d a bar => some { g.skel 0x83 with d, a, imm := bar.imm }
  | .binval g bar => some { g.skel 0x84 with imm := bar.imm }
  | .wait g nl ns nc nt => some { g.skel 0x85 with
      imm := (0 : BitVec 2) ++ nt ++ (0 : BitVec 2) ++ nc ++ (0 : BitVec 2) ++ ns ++ (0 : BitVec 2) ++ nl }
  | .pinadd g a pin => let (b, fn, imm) := pin.fields; some { g.skel 0x86 with a, b, fn, imm }
  | .pinwait g d a pin => let (b, fn, imm) := pin.fields; some { g.skel 0x87 with d, a, b, fn, imm }
  | .pinset g a pin => let (b, fn, imm) := pin.fields; some { g.skel 0x88 with a, b, fn, imm }
  | .bobtake g => some (g.skel 0x89)
  | .bobpass g => some (g.skel 0x8A)
  | .phase g => some (g.skel 0x8B)
  | .launch g d a none => some { g.skel 0x8C with d, a }
  | .launch g d a (some b) => some { g.skel 0x8C with d, a, b, fn := 1 }
  | .ebbpush g sc a u => some { g.skel 0x8D with sc, a, fn := fnBit u }
  | .ebbmarkRecomp g d a b => some { g.skel 0x8E with d, a, b }
  | .ebbmarkNeeds g d a b n => some { g.skel 0x8E with d, a, b, fn := 1, imm := n }
  | .shcopy o wr glb tr => some (o.skel 0x90 (fnBit wr ||| (if glb then 2 else 0) ||| (if tr then 4 else 0)))
  | .shfill o => some (o.skel 0x91 0)
  | .shgath o glb => some (o.skel 0x92 (if glb then 2 else 0))
  | .shscat o glb => some (o.skel 0x93 (if glb then 2 else 0))
  | .bmtest g sc d a b => some { g.skel 0x94 with d, a, b, mod := (0 : BitVec 5) ++ sc.code }
  | .bmwait g sc a b => some { g.skel 0x95 with a, b, mod := (0 : BitVec 5) ++ sc.code }
  | .bmclr g a b => some { g.skel 0x96 with a, b }
  | .hres g d a => some { g.skel 0x98 with d, a }
  | .hrel g a => some { g.skel 0x99 with a }
  | .hbwr g d a n => some { g.skel 0x9A with d, a, fn := (0 : BitVec 5) ++ n }
  | .hbrd g d a n => some { g.skel 0x9B with d, a, fn := (0 : BitVec 5) ++ n }
  | .skld g a b c len => some { g.skel 0x9C with a, b, c, imm := len }
  | .hcvr g d a => some { g.skel 0x9D with d, a }
  | .hmma g src d a b c kk rnd => some { g.skel 0x9E with
      d, a, b, c, fn := src.code, mod := (0 : BitVec 2) ++ rnd ++ (0 : BitVec 4), imm := (0 : BitVec 23) ++ kk }
  | .hcbeg g => some (g.skel 0x9F)
  | .hcend g => some (g.skel 0xA0)
  | .hzero g d c n => some { g.skel 0xA1 with d, c, imm := (0 : BitVec 23) ++ n }
  | .hacst g d a b c scr q f rnd ty => some { g.skel 0xA2 with
      d, a, b, c, fn := (0 : BitVec 2) ++ BitVec.ofBool scr ++ BitVec.ofBool q ++ f,
      mod := (0 : BitVec 2) ++ rnd.code ++ ty.code }
  | .hacld g d a b c scr ty => some { g.skel 0xA3 with
      d, a, b, c, fn := (0 : BitVec 2) ++ BitVec.ofBool scr ++ (0 : BitVec 5), mod := (0 : BitVec 4) ++ ty.code }
  | .spkey g d a b c r => some { g.skel 0xB0 with d, a, b, c, fn := r.fields.1, imm := r.fields.2 }
  | .spsort g a r => some { g.skel 0xB1 with a, fn := r.fields.1, imm := r.fields.2 }
  | .spseg g d a r => some { g.skel 0xB2 with d, a, fn := r.fields.1, imm := r.fields.2 }
  | .spfetch g d a r => some { g.skel 0xB3 with d, a, fn := r.fields.1, imm := r.fields.2 }
  | .spblend g d a b c => some { g.skel 0xB4 with d, a, b, c }
  | .spgrad g d a b c => some { g.skel 0xB5 with d, a, b, c }
  | .trimit g d a r => some { g.skel 0xB6 with d, a, fn := r.fields.1, imm := r.fields.2 }
  | .vresolve g a b r => some { g.skel 0xB7 with a, b, fn := r.fields.1, imm := r.fields.2 }
  | .crvemit g kind a b => some { g.skel 0xB8 with a, b, fn := kind.code }
  | .crvres g rule keep d a b c => some { g.skel 0xB9 with
      d, a, b, c, fn := (0 : BitVec 5) ++ BitVec.ofBool keep ++ rule.code }
  | .texs g grad d a c r => some { g.skel 0xBA with d, a, c, fn := r.fields.1, imm := r.fields.2, mod := fnBit grad }
  | .texf g d a c r => some { g.skel 0xBB with d, a, c, fn := r.fields.1, imm := r.fields.2 }
  | .deriv g y fine d a => some { g.skel 0xBC with d, a, fn := fnBit y ||| (if fine then 2 else 0), mod := 6 }
  | .quad g a => some { g.skel 0xBD with a }
  | .binres g d r => some { g.skel 0xBE with d, fn := r.fields.1, imm := r.fields.2 }
  | .topen g d a b c => some { g.skel 0xC0 with d, a, b, c }
  | .sttide g d base index off ty c => some { g.skel 0xC1 with
      d, a := base.getD 0, b := (index.map (·.1)).getD 0, c, fn := addrFn base index 0,
      mod := (0 : BitVec 4) ++ ty.code, imm := off }
  | .tclose g d a => some { g.skel 0xC2 with d, a }
  | .tcommit g a b c => some { g.skel 0xC3 with a, b, c }
  | .tabort g d a => some { g.skel 0xC4 with d, a }
  | .tstat g w d a => some { g.skel 0xC5 with d, a, fn := fnBit w }
  | .credmx g a b r => some { g.skel 0xC6 with a, b, fn := r.fields.1, imm := r.fields.2 }
  | .cover g a b r => some { g.skel 0xC7 with a, b, fn := r.fields.1, imm := r.fields.2 }
  | .trap g i => some { g.skel 0xE0 with imm := (0 : BitVec 16) ++ i }
  | .brkpt g i => some { g.skel 0xE1 with imm := (0 : BitVec 16) ++ i }
  | .rdsr g sc d n => some { g.skel 0xE2 with sc, d, imm := (0 : BitVec 20) ++ n }
  | .rdsrClr g sc d => some { g.skel 0xE2 with sc, d, fn := 1, imm := 0x19 }
  | .wrsr g a n => some { g.skel 0xE3 with a, imm := (0 : BitVec 20) ++ n }
  | .rdcyc g d => some { g.skel 0xE4 with sc := true, d }
  | _ => none

/-- The encoder: the slot of a wave instruction (R118), and the two slots of R129. -/
def encode (i : Instr) : Option (BitVec 96) :=
  match i with
  | .zeroSlot => some 0
  | .fillSlot => some (BitVec.allOnes 96)
  | i => i.skel.map Skel.toSlot

/-- The decoder on an instruction's bits, numbered as opcode_table.json numbers them: the slot's 96 bits, those above
`nbits` zero. -/
def decodeTableWord (nbits w : Nat) : Option Instr :=
  match decodeSlot (BitVec.ofNat 96 (w % 2 ^ (min nbits 96))) with
  | .ok i => some i
  | .error _ => none

/-! ### Host command records -/

/-- `n` bytes at an offset, little-endian; bytes beyond the end are 0. -/
def leAt (bs : List Byte) (off n : Nat) : Nat :=
  ((bs.drop off).take n).foldr (fun b acc => b.toNat + 256 * acc) 0

/-- The bytes of a number, little-endian. -/
def leBytes (n v : Nat) : List Byte :=
  match n with
  | 0 => []
  | n + 1 => BitVec.ofNat 8 v :: leBytes n (v / 256)

/-- The command of a 64-byte record (R336, R337, R357, R377); an unknown opcode is none (status 1). -/
def decodeCommand (r : List Byte) : Option Instr :=
  let tag : Word := BitVec.ofNat 32 (leAt r 4 4)
  let w (o : Nat) : Word := BitVec.ofNat 32 (leAt r o 4)
  let d (o : Nat) : DWord := BitVec.ofNat 64 (leAt r o 8)
  let h (o : Nat) : BitVec 16 := BitVec.ofNat 16 (leAt r o 2)
  let b (o : Nat) : Byte := BitVec.ofNat 8 (leAt r o 1)
  match leAt r 0 2 with
  | 0x0001 => some (.version tag (h 0x08) (h 0x0A))
  | 0x0002 => some (.stage tag)
  | 0x0003 => some (.fwLoad tag (d 0x08) (d 0x10))
  | 0x0004 => some (.stageDiag tag)
  | 0x0010 => some (.partSet tag (w 0x08))
  | 0x0020 => some (.ctxCreate tag (d 0x08))
  | 0x0021 => some (.ctxDestroy tag (w 0x08))
  | 0x0022 => some (.exportSync tag (w 0x08))
  | 0x0023 => some (.spillSet tag (w 0x08) (d 0x10) (d 0x18))
  | 0x0030 => some (.qCreate tag (w 0x08) (d 0x10))
  | 0x0031 => some (.qDestroy tag (w 0x08))
  | 0x0032 => some (.qQuery tag (w 0x08))
  | 0x0033 => some (.qSuspend tag (w 0x08))
  | 0x0034 => some (.qResume tag (w 0x08))
  | 0x0040 => some (.bind tag ((List.range 32).map fun i => b (0x08 + i)))
  | 0x0041 => some (.unbind tag (w 0x08))
  | 0x0050 => some (.tlbInv tag (w 0x08) (d 0x10) (d 0x18))
  | 0x0051 => some (.faultReply tag (w 0x08) (w 0x0C) (b 0x10))
  | 0x0052 => some (.trapReply tag (w 0x08) (w 0x0C) (d 0x10) (b 0x18))
  | 0x0060 => some (.fabricCfg tag (b 0x08) (h 0x0A) (w 0x0C) (w 0x10) (h 0x14))
  | 0x0061 => some (.portQuery tag (w 0x08))
  | 0x0062 => some (.devFence tag (w 0x08))
  | 0x0063 => some (.devAdmit tag (w 0x08))
  | 0x0070 => some (.dispCfg tag (w 0x08) (d 0x10))
  | 0x0080 => some (.attest tag (d 0x08) (d 0x10))
  | 0x0090 => some (.powerCap tag (w 0x08))
  | 0x0091 => some (.errLog tag (d 0x08))
  | _ => none

/-- The opcode and tag of a command, for its reply (R336). -/
def commandHead : Instr → Option (Nat × Word)
  | .version t _ _ => some (0x0001, t)
  | .stage t => some (0x0002, t)
  | .fwLoad t _ _ => some (0x0003, t)
  | .stageDiag t => some (0x0004, t)
  | .partSet t _ => some (0x0010, t)
  | .ctxCreate t _ => some (0x0020, t)
  | .ctxDestroy t _ => some (0x0021, t)
  | .exportSync t _ => some (0x0022, t)
  | .spillSet t _ _ _ => some (0x0023, t)
  | .qCreate t _ _ => some (0x0030, t)
  | .qDestroy t _ => some (0x0031, t)
  | .qQuery t _ => some (0x0032, t)
  | .qSuspend t _ => some (0x0033, t)
  | .qResume t _ => some (0x0034, t)
  | .bind t _ => some (0x0040, t)
  | .unbind t _ => some (0x0041, t)
  | .tlbInv t _ _ _ => some (0x0050, t)
  | .faultReply t _ _ _ => some (0x0051, t)
  | .trapReply t _ _ _ _ => some (0x0052, t)
  | .fabricCfg t _ _ _ _ _ => some (0x0060, t)
  | .portQuery t _ => some (0x0061, t)
  | .devFence t _ => some (0x0062, t)
  | .devAdmit t _ => some (0x0063, t)
  | .dispCfg t _ _ => some (0x0070, t)
  | .attest t _ _ => some (0x0080, t)
  | .powerCap t _ => some (0x0090, t)
  | .errLog t _ => some (0x0091, t)
  | _ => none

end Sys2Proof
end

