-- ==== Sys2Proof/Machine/State.lean ====
section
/-! DEFINITION. The whole state of one LZ-T940 device as plain data: memory, contexts, queues, launches,
workgroups, gangs, waves, clusters, cores, engines, tide groups, the fabric, display, start and power, and what the
outside decides next. Tables are association lists with strictly rising keys. -/

namespace Sys2Proof.Machine

/-- A table: an association list with strictly rising keys. -/
abbrev Table (α : Type) := List (Nat × α)

/-- Device memory, host memory, scratch, private windows, hoop stores and the BAR as one list of bytes by key
(the key layout is in Ops). Canonical: keys strictly rise and no byte is 0, which an unlisted key reads as. -/
abbrev Memory := List Host.Cell

/-- The canonical form of memory. -/
def Memory.wf : Memory → Bool
  | [] => true
  | [c] => c.2 != 0
  | c :: d :: m => c.2 != 0 && decide (c.1 < d.1) && Memory.wf (d :: m)

/-! ### Waves -/

/-- What a waiting wave holds besides its PCs (R366 step 1). -/
inductive Waited where
  /-- The condition is tested again at the next issue. -/
  | retry
  /-- A `bsync` or `bwait` at barrier `b` (workgroup × 16 + index) for generation `gen`. -/
  | barrier (b : Nat) (gen : Word)
  /-- The barrier released the wave with this result. -/
  | released (r : Bool)
  /-- `trimit` or `crvemit` has submitted; the wave waits for the binner or the rasteriser. -/
  | submitted
  /-- An `hmma` whose signature completed a round waits until the operation has a queue entry (R232). -/
  | forming
deriving DecidableEq, Repr

/-- The state of a wave (R367 wave block offset 0). -/
inductive WaveStatus where
  | ready | retired | stopped
  | trapped (token : Nat)
  | waiting (w : Waited)
  | phased
deriving DecidableEq, Repr

/-- One lane's access of a counted operation: the lane, the address the program named, the memory key it was
translated to, whether its page is replicated (R99), and the scope it executes at (R90); a remote access has its context ·
2^64 + its remote VA as `key`, with `remote` set. -/
structure LaneAcc where
  lane   : Nat
  va     : DWord
  key    : Nat
  remote : Bool
  repl   : Bool := false
  scope  : Scope := .wv
deriving DecidableEq, Repr

/-- What lands when a load-class operation completes (R130). -/
inductive LoadOp where
  | ld (d : Nat) (ty : MemTy)
  | lds (d : Nat) (ty : MemTy) (lanes : LaneMask)
  | ldq (d : Nat) (fmt : Word) (rnd : Rnd)
  | atom (d : Nat) (op : AtomOp) (ty : MemTy) (vs : List (Nat × DWord × DWord))
  | hbrd (d n key : Nat)
  | spfetch (d : Nat) (j idx : Word)
  | tex (grad fetch : Bool) (d pc : Nat) (img : List Byte) (co : List (Nat × List Word))
deriving DecidableEq, Repr

/-- A load-class operation in flight (R130): its issuing PC, launch context, accesses, scope, order and policy. -/
structure PendingLoad where
  op     : LoadOp
  /-- The place in issue order among the device's counted operations. -/
  stamp  : Nat
  pc     : DWord
  lanes  : LaneMask
  acc    : List LaneAcc
  scope  : Scope
  ord    : Order
  pol    : Policy
  /-- Lanes that receive 0 because they are helpers whose fault is not taken (R30). -/
  zeros  : LaneMask
  /-- The marker answers (core, device, count) that a `.sys` release waits for, once its markers are sent (R104). -/
  asked  : Option (List (Nat × Nat × Nat)) := none
deriving DecidableEq, Repr

/-- A held report (R393): code, address, lane, PC of the operation and which points take it. -/
structure Report where
  code : Byte
  addr : DWord
  lane : Nat
  /-- 0 ld, 1 st, 2 cp, 3 tl, 4 next hoop instruction, 5 next instruction 0xB6 to 0xB9 or 0xBE. -/
  kind : Nat
  /-- The executed scope that a release needs to take it; `none`: no release takes it. -/
  rel  : Option Scope
  /-- The engine operation, or the refused backwash contribution (address, value), that RETRY applies (R192). -/
  held : Option (DWord × Word)
  op   : Nat
  prog : DWord
  /-- The access writes (R360). -/
  write : Bool
  /-- The place of its operation in issue order. -/
  stamp : Nat
deriving DecidableEq, Repr

/-- A pair that `spkey` has reserved and not yet stored (R241, R242). -/
structure PairStore where
  lane : Nat
  va   : DWord
  key  : DWord
  val  : Word
deriving DecidableEq, Repr

/-- One wave (R22, R26, R50, R367). Registers are sparse: `v` at n·32 + lane, absent entries are 0; `vpc` by lane,
absent lanes have exited; return stacks at lane·16 + entry (R177). -/
structure Wave where
  v       : Table Word := []
  s       : Table DWord := []
  p       : Table Word := []
  f       : Table Word := []
  vpc     : Table DWord := []
  ret     : Table DWord := []
  depth   : Table Nat := []
  pushes  : Table Nat := []
  fflags  : Word := 0
  helpers : LaneMask := 0
  /-- `sr.prog` as a fault of the wave left it (R364). -/
  prog    : DWord := 0
  /-- Lanes that the `moor` in progress has done (R196, R364). -/
  done    : LaneMask := 0
  /-- A RETRY has been answered since `prog` was written, so that the instruction's completion clears it (R364). -/
  redo    : Bool := false
  ldCnt   : BitVec 6 := 0
  stCnt   : BitVec 6 := 0
  cpCnt   : BitVec 6 := 0
  tlCnt   : BitVec 6 := 0
  loads   : List PendingLoad := []
  /-- The marker answers (core, device, count) that the wave's present `.sys` release waits for (R104). -/
  marked  : Option (List (Nat × Nat × Nat)) := none
  /-- Remote lanes of the `moor` in progress whose target was reachable when it issued (R107). -/
  moored  : LaneMask := 0
  reports : List Report := []
  hold    : Bool := false
  passed  : Bool := false
  status  : WaveStatus := .retired
  /-- Tokens of fault records that have not been answered (R362). -/
  tokens  : List Nat := []
  pairs   : List PairStore := []
  /-- The tile counts that the `spkey` in progress writes at its end, by lane. -/
  counts  : Table Nat := []
  /-- Faults that the `spkey` or `moor` in progress has met, taken when it ends (R196, R242). -/
  emitBad : List (Nat × Byte × DWord) := []
  /-- Segments that `crvemit` has sent and the rasteriser has not accepted, with their tag (R254). -/
  segs    : List (List Int) := []
  segTag  : Word := 0
  segKind : CurveKind := .line
  /-- Triangles that `trimit` has sent: lane, group of ten words; and the record's address form (R261). -/
  tris    : List (Nat × List Word) := []
  triRec  : List Byte := []
  triDst  : Nat := 0
  triStatus : List (Nat × Word) := []
  /-- Lanes that stand at that `trimit` with a report, and are not part of it (R258, R393). -/
  triHeld : LaneMask := 0
  /-- tl holds: one entry per counted `hmma` issue, the operations still to come (R232). -/
  signs   : List (Nat × Nat) := []
  /-- Tide groups the wave has named by `topen` or `sttide` without a later `tclose` (R280). -/
  tides   : List Word := []
  skips   : Nat := 0
  yielded : Bool := false
  /-- The pipe of its core that it issued to last (R179, R345). -/
  pipe    : Nat := 0
  qsel    : BitVec 13 := 0
deriving DecidableEq, Repr

/-! ### Workgroups, gangs, launches -/

/-- A barrier (R200). The waiters are the waves waiting with this barrier. -/
structure Barrier where
  valid    : Bool := false
  expected : Nat := 65536
  mask     : Word := 0
  arrived  : Nat := 0
  gen      : Word := 0
  dropped  : Word := 0
deriving DecidableEq, Repr

/-- A stash entry (R82): scratch base, global VA, length, which 128-byte lines are filled, which are to be fetched
again after an acquire, and which bytes are dirty. -/
structure Stash where
  off    : Nat
  va     : DWord
  len    : Nat
  filled : List Nat := []
  stale  : List Nat := []
  dirty  : List Nat := []
deriving DecidableEq, Repr

/-- An entry of a hoop queue (R231 to R236): the operand words as the instruction held them. -/
inductive HoopOp where
  | mma (src : HoopSrc) (d : Nat) (a b : DWord) (k : Nat) (conv : Nat) (signers : List (Nat × Nat × LaneMask))
  | skld (dst : DWord) (src : DWord) (len : Nat)
  | zero (d n : Nat)
  | acld (d : Nat) (base stride : DWord) (scr : Bool) (ty : AluTy)
  | acst (d : Nat) (base stride : DWord) (scr q : Bool) (fmt : Word) (rnd : Rnd) (ty : AluTy)
  | chainBegin
  | chainEnd
deriving DecidableEq, Repr

/-- A queued hoop operation: its issuing wave, lane, PC and workgroup, completion word, next k-step and place in issue order. -/
structure HoopEntry where
  op     : HoopOp
  wave   : Nat
  lanes  : LaneMask
  wg     : Nat
  gang   : Nat
  pc     : DWord
  comp   : DWord
  step   : Nat := 0
  paused : Option Nat := none
  /-- The entry has paused on a fault before. -/
  wasPaused : Bool := false
  stamp  : Nat := 0
  /-- The marker answers that rows stored to other devices wait for: core, device, count (R104, R236). -/
  awaits : List (Nat × Nat × Nat) := []
deriving DecidableEq, Repr

/-- A reservation of a gang (R226, R227). -/
structure Reservation where
  remote : Option DWord
  kind   : Nat
  bl32   : Bool
  fmt    : Word
  elt    : Nat
  scoff  : Nat
  len    : Nat
  base   : Nat
  owner  : Nat
deriving DecidableEq, Repr

/-- A convergence register (R232): expected count, count of the round, first signer's operands, the signers, and
formed operations that wait for a queue entry (R233). -/
structure Conv where
  expected : Nat := 0
  count    : Nat := 0
  op       : Option HoopOp := none
  signers  : List (Nat × Nat × LaneMask) := []
  pc       : DWord := 0
  formed   : List HoopEntry := []
deriving DecidableEq, Repr

/-- A gang (R26): its cluster, launch, first workgroup index, workgroups, reservations and convergence registers. -/
structure Gang where
  cluster : Nat
  launch  : Nat
  wgs     : List Nat
  res     : Table Reservation := []
  conv    : Table Conv := []
  /-- Firmware has made it leave its cluster for another one (R346). -/
  migrate : Bool := false
deriving DecidableEq, Repr

/-- A workgroup (R26, R367). -/
structure Workgroup where
  launch   : Nat
  gang     : Nat
  index    : Nat
  f2       : Nat
  core     : Nat
  lcore    : Nat
  waves    : Nat
  resident : Bool := true
  /-- Chosen for swap-out and not yet saved; with the congested device of a stall hint (R366, R370). -/
  leaving  : Option (Option Nat) := none
  started  : Bool := false
  retired  : Bool := false
  ended    : Bool := false
  restart  : Bool := false
  bars     : Table Barrier := []
  stash    : List Stash := []
  hq       : List HoopEntry := []
  chain    : Bool := false
  /-- The engine has passed this queue's `hcbeg` marker and not the next `hcend`. -/
  inChain  : Bool := false
  /-- Loads saved as descriptors, by wave (R370). -/
  descr    : List (Nat × PendingLoad) := []
  /-- The slot of the bind that it is charged to; none once that bind has been removed (R343). -/
  bind     : Option Nat := none
  /-- Its state stands in its save area (R366). -/
  saved    : Bool := false
  /-- Tokens of a failed save not yet answered, and whether one of them was answered END (R361). -/
  saveFail : List Nat := []
  saveEnd  : Bool := false
deriving DecidableEq, Repr

/-- A kernel header as validated (R31, R32). -/
structure Header where
  entry   : DWord
  widths  : List Nat
  vregs   : Nat
  waves   : Nat
  hres    : Nat
  scratch : Nat
  priv    : Nat
  splits  : List Nat
  shared  : List (Nat × Nat)
  quad    : Bool
  determ  : Bool
  idemp   : Bool
deriving DecidableEq, Repr

/-- Where an in-flight launch stands (R36 to R38). -/
inductive LaunchPhase where
  | accepted | eligible | walking | complete
deriving DecidableEq, Repr

/-- A launch (R33, R37, R44, R48). -/
structure Launch where
  ctx     : Nat
  queue   : Nat
  seq     : Nat
  recVa   : DWord
  target  : DWord
  counts  : List Nat
  prio    : Nat
  relSys  : Bool
  flags   : Nat
  args    : DWord
  pin     : Word
  pininc  : Word
  deps    : List (Nat × Word)
  /-- Bases of the ranges whose return it waits for (R352). -/
  returns : List Nat := []
  hdrVa   : DWord := 0
  header  : Option Header := none
  state   : LaunchPhase := .accepted
  /-- The launch came rejected with this reason (R38, R341); 0: not rejected. -/
  reject  : Nat := 0
  granted : Bool := false
  nextWg  : Nat := 0
  wgs     : List Nat := []
  live    : Nat := 0
  ended   : Bool := false
  phase   : Nat := 0
  arrived : List Nat := []
  /-- The bobbin's position: wave index i·c1 + f1 (R48). -/
  bobbin  : Nat := 0
  bobDone : List Nat := []
  targeted : List Nat := []
  splits  : List Nat := []
  unwind  : Bool := false
  parent  : Option Nat := none
  /-- The unwinder submitted it (R46). -/
  unwound : Bool := false
  skips   : Nat := 0
  sealed  : Bool := false
  /-- Logical clusters whose image has migrated, with the cluster that it has migrated to (R347). -/
  images  : Table Nat := []
  /-- The marker answers (core, device, count) that its release at `.sys` waits for, once its markers are sent (R37, R104). -/
  asked   : Option (List (Nat × Nat × Nat)) := none
deriving DecidableEq, Repr

/-- A record of an ebb frame (R44, R206): pusher's work identifier, push count, the 64 bytes. -/
structure EbbRec where
  wid   : DWord
  count : Nat
  data   : List Byte
deriving DecidableEq, Repr

/-- A mark of an ebb frame (R207): base, length, and the graph that rebuilds it or the record that needs it. -/
inductive EbbMark where
  | recomp (base len : Nat) (graph : DWord)
  | needs (base len : Nat) (wid : DWord) (count : Nat)
deriving DecidableEq, Repr

/-- An ebb frame (R44, R45). -/
structure Frame where
  recs   : List EbbRec := []
  marks  : List EbbMark := []
  sealed : Bool := false
deriving DecidableEq, Repr

/-- The unwinder of a queue while it runs (R46, R350). -/
structure Unwind where
  ref     : Nat
  started : Bool := false
  /-- The records of the current frame still to submit, and the launches submitted from it. -/
  frame   : Option Nat := none
  left    : List EbbRec := []
  marks   : List EbbMark := []
  /-- The walker that waits for the unwind, and the pin that its completion increments. -/
  walker  : Option Nat := none
  pin     : Word := 0
  pininc  : Word := 0
  wait    : List Nat := []
deriving DecidableEq, Repr

/-- The highest-priority candidate of a partition that has not been placeable: its queue and launch, its first workgroup,
the consecutive rounds so far, and the cluster on which firmware has stopped other placements (R346). -/
structure Stall where
  launch : Nat
  first  : Nat
  rounds : Nat
  clear  : Option Nat := none
deriving DecidableEq, Repr

/-- A launch record offered to a queue by a source other than its ring (R340). -/
structure Offer where
  recVa  : DWord
  src    : LaunchSource
  bytes  : Option (List Byte)
  /-- Ranges of the context whose return the launch depends on (R352). -/
  returns : List Nat := []
deriving DecidableEq, Repr

/-- A queue (R335, R339, R340, R350). -/
structure Queue where
  ring    : DWord
  entries : Nat
  ctx     : Nat
  prio    : Nat
  det     : Bool
  always  : Bool
  gang    : Nat
  headwb  : DWord
  ebb     : DWord
  ebbsize : Nat
  rejlog  : DWord
  head    : Word := 0
  tail    : Word := 0
  err     : Bool := false
  susp    : Bool := false
  seq     : Nat := 0
  offers  : List Offer := []
  /-- The place in R340's list of the source that it accepted last from. -/
  lastSrc : Nat := 0
  /-- The `launch` instructions that wait for the queue, by wave and address, in the order in which they reached it (R340). -/
  launchers : List (Nat × DWord) := []
  frames  : Table Frame := []
  unwind  : Option Unwind := none
  wanted  : List Unwind := []
deriving DecidableEq, Repr

/-- A bind of a partition's slot table (R343). -/
structure Bind where
  queue    : Nat
  standing : Bool
  budget   : Nat
  clusters : DWord
  cores    : BitVec 16
deriving DecidableEq, Repr

/-! ### Contexts -/

/-- A ring control block as validated (R359). -/
structure Ring where
  ctl     : DWord
  base    : DWord
  entries : Nat
  vector  : Nat
deriving DecidableEq, Repr

/-- A record waiting for its ring (R359): the bytes, and what FAULT_REPLY must know. -/
structure RingRec where
  bytes : List Byte
  code  : Byte
  wave  : Option Nat
  /-- The graph walker that its delivery frees (R349). -/
  walker : Option Nat := none
deriving DecidableEq, Repr

/-- What a token names (R360, R362, R365). -/
inductive TokenOwner where
  | lanes (wave : Nat) (lanes : LaneMask) (code : Byte) (pc : DWord) (emit : Bool) (reports : List Report)
  | shuttle (op : Nat)
  | sort (op : Nat)
  | resolve (op : Nat)
  | vresolve (op : Nat)
  | collective (op : Nat)
  | hoop (wg : Nat)
  | tideStatus (gid : Word)
  | trap (wave : Nat)
  | save (wg : Nat) (wave : Nat)
deriving DecidableEq, Repr

/-- A pending token: what it names, and the code and address of its record. -/
structure Token where
  owner : TokenOwner
  code  : Byte := 0
  addr  : DWord := 0
  write : Bool := false
deriving DecidableEq, Repr

/-- A backwash accumulator or a spill record (R72, R73): S modulo 2^324, infinities, the running NaN; its home slice
(R330), and the place of a record in the context's spill region. -/
structure Accum where
  sum  : Nat := 0
  pinf : Bool := false
  ninf : Bool := false
  nan  : Option Word := none
  slice : Nat := 0
  place : Nat := 0
deriving DecidableEq, Repr

/-- An entry of an export table (R331). -/
structure Export where
  dev  : Nat
  ctx  : Nat
  perm : BitVec 3
  base : Nat
  len  : Nat
deriving DecidableEq, Repr

/-- A couching slot (R253): area and cover at row·32 + column. -/
structure Slot where
  area  : Table Word := []
  cover : Table Word := []
deriving DecidableEq, Repr

/-- The state of a range that a mark names (R352). -/
inductive RangeState where
  | outward | dropped | offloaded | returning
deriving DecidableEq, Repr

/-- A reclaimed range: its length, state and the graph that rebuilds it; 0 for one that has been offloaded (R352). -/
structure RangeRec where
  len   : Nat
  state : RangeState
  graph : DWord := 0
deriving DecidableEq, Repr

/-- A write of the device itself, of bytes or an increment of a logical pin, that waits until a reclaimed range is back (R352) or a
line is free (R286). -/
inductive StalledWrite where
  | bytes (va : Nat) (bs : List Byte)
  | pin (p : Nat) (inc : Word)
deriving DecidableEq, Repr

/-- A context (R331). -/
structure Context where
  part      : Nat
  priv      : Bool
  slotq     : Nat
  ptroot    : Nat
  spill     : DWord
  spillsize : Nat
  trapring  : Option Ring
  faultring : Option Ring
  watermark : Nat
  staging   : Nat
  nexport   : Nat
  exports   : DWord
  pinpage   : DWord
  table     : List Export := []
  /-- The importers (device, context) whose first request has come since the export table was read (R331). -/
  importers : List (Nat × Nat) := []
  faults    : List RingRec := []
  traps     : List RingRec := []
  tokens    : Table Token := []
  accums    : Table Accum := []
  spills    : Table Accum := []
  slots     : Table Slot := []
  /-- Outcomes of finished groups, newest first: identifier, status word, whether a `tcommit` named it (R283, R287). -/
  history   : List (Word × DWord × Bool) := []
  ranges    : Table RangeRec := []
  stalled   : List StalledWrite := []
deriving DecidableEq, Repr

/-! ### Cores and clusters -/

/-- A write on its way to where it executes (R86, R130, R92). -/
inductive StoreOp where
  | plain (bytes : List Byte)
  | red (op : AtomOp) (ty : AluTy) (v : DWord)
  | bwadd (exact : Bool) (c : Word)
  | tide (gid : Word) (bytes : List Byte)
deriving DecidableEq, Repr

/-- One lane's write. -/
structure LaneStore where
  acc : LaneAcc
  op  : StoreOp
deriving DecidableEq, Repr

/-- A store-class instruction in its core's store order (R92, R130); `counted` when it holds the st counter. -/
structure PendingStore where
  wave    : Nat
  stamp   : Nat
  pc      : DWord
  ctx     : Nat
  scope   : Scope
  pol     : Policy
  lanes   : List LaneStore
  counted : Bool
  /-- The instruction is a release (R89). -/
  rel     : Bool
  /-- The marker answers (core, device, count) that a `.sys` release waits for, once its markers are sent (R104). -/
  asked   : Option (List (Nat × Nat × Nat)) := none
deriving DecidableEq, Repr

/-- A lane's write that has been sent to another device and that no answered marker covers (R104, R107): the operation it
belongs to, its place among the requests counted for that device, and whether its target has applied it. -/
structure Flying where
  wave  : Nat
  stamp : Nat
  pc    : DWord
  st    : LaneStore
  ord   : Nat
  acked : Bool := false
deriving DecidableEq, Repr

/-- A core (R15, R86, R355). `copies`: L1 copies of 128-byte lines, by 8-byte part of memory, `remote`: L1 copies of remote
words by 16 · (context · 2^64 + VA) + size; `lines`: fetched copies of lines by context and line address, with the mark or parity fault found at
the fetch; `tlb`: leaf entries by context and 64 KiB granule; `sent`: stores, atoms and reds sent per device, `marks`: how
many of them the last marker named, `answered`: how many of them an answered marker named (R104); `seqno`: the next sequence
number per device, `lineSeq`: one above the last sequence number of each 64-byte line of a window (R103); `flying`: writes on
their way; `ops`: the store-class operations (wave, stamp) whose counter falls when their targets have applied them. -/
structure CoreState where
  cyc    : Nat := 0
  fifo   : List PendingStore := []
  copies : Table DWord := []
  remote : Table DWord := []
  lines  : Table (List Byte × Byte) := []
  tlb    : Table DWord := []
  sent   : Table Nat := []
  marks  : Table Nat := []
  answered : Table Nat := []
  seqno  : Table Nat := []
  lineSeq : Table Nat := []
  flying : List Flying := []
  ops    : List (Nat × Nat) := []
  /-- The wave that pipe 0 has taken in the present cycle; pipe 1 chooses next (R345). -/
  pipe   : Option Nat := none
deriving DecidableEq, Repr

/-- A range-lock entry (R100): ranges as lowest and highest byte in the space of `lockKey`. -/
structure RangeLock where
  op   : Nat
  gang : Nat
  src  : Option (Nat × Nat)
  dst  : Option (Nat × Nat)
deriving DecidableEq, Repr

/-- A cluster (R12): pins, range locks, and the turn key (core·2^40 + workgroup) of the queue that the hoop served last,
`held` while its turn lasts (R234). -/
structure Cluster where
  pins  : Table Word := []
  locks : List RangeLock := []
  last  : Nat := 0
  held  : Bool := false
deriving DecidableEq, Repr

/-! ### Engines -/

/-- A tensor layout record as read (R214). -/
structure Tensor where
  base : DWord
  rank : Nat
  ew   : Nat
  dims : List Nat
  strs : List Nat
  box  : List Nat
deriving DecidableEq, Repr

/-- Kinds of shuttle work (R217, R42). -/
inductive ShuttleKind where
  | read | write | fill | gather | scatter | flat
deriving DecidableEq, Repr

/-- A shuttle operation in flight (R218, R220), a graph copy node's copy included (`flat`: source VA in `dense`,
destination VA in the tensor's base, length in `len`). -/
structure ShuttleOp where
  kind    : ShuttleKind
  tr      : Bool := false
  wave    : Option Nat
  lane    : Nat := 0
  pc      : DWord
  ctx     : Nat
  queue   : Nat
  seq     : Nat
  wid     : DWord := 0
  cluster : Nat := 0
  det     : Bool
  tensor  : Tensor
  origin  : List Int := []
  rows    : List Nat := []
  glb     : Bool := true
  wg      : Nat := 0
  dense   : DWord := 0
  pattern : DWord := 0
  len     : Nat
  bitmap  : Nat := 0
  done    : List Nat := []
  scope   : Scope := .dev
  /-- Chunks moved to another device, and the marker answers that their bits wait for (R102). -/
  sent    : List (Nat × List (Nat × Nat × Nat)) := []
  comp    : DWord := 0
  inc     : Word := 1
  paused  : Option Nat := none
  aborted : Option (Byte × DWord) := none
deriving DecidableEq, Repr

/-- A sort in flight (R243): the record's fields, the completion word, and the fault that ended it. -/
structure SortOp where
  ctx    : Nat
  det    : Bool
  pc     : DWord
  data    : List Byte
  comp   : DWord
  queue  : Nat
  seq    : Nat
  core   : Nat
  wid    : DWord
  /-- The cursor, once the engine has read it, and the composites of the pairs, once it has read them. -/
  cursor : Option Nat := none
  pairs  : Option (List Nat) := none
  /-- none: not run; some (N, lost, FC): the passes ended so. -/
  ran    : Option (Nat × Bool × Byte) := none
  /-- The segment table has been written. -/
  segs   : Bool := false
  paused : Option Nat := none
  /-- The pause is at the status word. -/
  atStatus : Bool := false
deriving DecidableEq, Repr

/-- A visibility resolve in flight (R263), and a couching resolve in flight (R258). -/
structure ResolveOp where
  ctx    : Nat
  det    : Bool
  pc     : DWord
  wave   : Nat
  lane   : Nat
  queue  : Nat
  seq    : Nat
  data    : List Byte := []
  tile   : Nat := 0
  slot   : Slot := {}
  rule   : CurveRule := .nz
  out    : DWord := 0
  stride : DWord := 0
  comp   : DWord
  wid    : DWord
  /-- The marker answers that the completion waits for, once the image has been sent to another device. -/
  sent   : Option (List (Nat × Nat × Nat)) := none
  paused : Option Nat := none
deriving DecidableEq, Repr

/-- A collective in flight on this device (R288, R289). -/
structure CollOp where
  cover   : Bool
  ctx     : Nat
  det     : Bool
  pc      : DWord
  queue   : Nat
  seq     : Nat
  gang    : Nat
  core    : Nat
  wid     : DWord
  src     : DWord
  dst     : DWord
  count   : Nat
  root    : Bool
  cid     : Word
  /-- Its entry in the cluster's range-lock table (R289). -/
  lock    : Nat
  members : List Nat
  self    : Nat
  status  : DWord
  comp    : DWord
  /-- The members that have found their record equal to member 0's (R289). -/
  agreed  : List Nat := []
  /-- Blocks this member has combined, and blocks whose output it has written. -/
  sent    : List Nat := []
  written : List Nat := []
  abort   : Option (Nat × Nat × Byte) := none
  paused  : Option Nat := none
deriving DecidableEq, Repr

/-- A triangle held for its tiles by the binner (R261): vertices in swapped order, depths, identifier, tile range. -/
structure Triangle where
  xs  : List Int
  ys  : List Int
  zs  : List Word
  tid : Word
  tx0 : Nat
  ty0 : Nat
  tx1 : Nat
  ty1 : Nat
  /-- Where its bytes begin in the geometry buffer. -/
  off : Nat
deriving DecidableEq, Repr

/-- A graph walker (R42, R43, R349): the graph launch, the current node, loop stack of (node, iterations), the
launches it submitted, and the unwind it waits for. -/
structure Walker where
  launch  : Nat
  part    : Nat
  node    : DWord
  stack   : List (DWord × Nat) := []
  subs    : List Nat := []
  pending : Nat := 0
  lastSeq : Option Nat := none
  unwind  : Bool := false
  ended   : Bool := false
  /-- Its graph is malformed; it is free once the fault is delivered (R349). -/
  broken  : Bool := false
deriving DecidableEq, Repr

/-! ### Tides -/

/-- The states of a group's record (R282). -/
inductive TideState where
  | opened | failed | closed | locked
deriving DecidableEq, Repr

/-- Where a coordinator stands with a group (R283); an abort has its code, device and fault code. -/
inductive CoordPhase where
  | gather | count | lock | apply
  | abort (code dev : Nat) (fc : Byte)
deriving DecidableEq, Repr

/-- What `tcommit` gave (R283): the status word's VA, the completion word, the queue's flag, and what names its record. -/
structure TideCommit where
  va    : DWord
  comp  : DWord
  det   : Bool
  pc    : DWord
  queue : Nat
  seq   : Nat
  core  : Nat
  wid   : DWord
deriving DecidableEq, Repr

/-- What the coordinator of a group keeps (R283, R285): participants in list order, the CLOSED messages with their sent
counts, and who has answered. -/
structure Coord where
  ctx      : Nat
  phase    : CoordPhase := .gather
  parts    : List Nat
  closed   : List (Nat × List (Nat × Nat)) := []
  commit   : Option TideCommit := none
  inbound  : List (Nat × Nat) := []
  lockedBy : List Nat := []
  applied  : List Nat := []
  acks     : List Nat := []
  lost     : List Nat := []
  /-- The NOs in the order of arrival: device, code, fault code, the device that the code names. -/
  nos      : List (Nat × Nat × Byte × Nat) := []
  /-- The stamp of the serialisation point (R384): HSF, and the time since its pulse in ns. -/
  stamp    : Word := 0
  since    : Nat := 0
  paused   : Option Nat := none
deriving DecidableEq, Repr

/-- This device's record of a group (R274, R275, R278, R279). -/
structure TideRec where
  ctx     : Nat
  det     : Bool
  state   : TideState := .opened
  expect  : Nat
  closes  : Nat := 0
  sentClosed : Bool := false
  code    : Nat := 0
  dev     : Nat := 0
  fc      : Byte := 0
  inbound : Nat := 0
  sent    : Table Nat := []
  /-- Staged bytes by memory key, each with who wrote it (device · 2^64 + wave). -/
  staged  : Table (Byte × Nat) := []
  /-- The participants that LOCK named (R285). -/
  list    : List Nat := []
  /-- LOCK has come, and a line is held by another group (R282). -/
  lockWait : Bool := false
  /-- The survivors that have been asked and have not answered, once the coordinator is lost (R285). -/
  asked    : Option (List Nat) := none
deriving DecidableEq, Repr

/-- A message held before this device's own `topen` (R276). -/
inductive EarlyTide where
  | closed (dev : Nat) (sent : List (Nat × Nat))
  | no (dev : Nat) (code fc : Byte) (named : Nat)
deriving DecidableEq, Repr

/-! ### Fabric, display, system -/

/-- A port (R373, R376, R378). -/
structure Port where
  up     : Bool := false
  peer   : Nat := 0
  major  : Nat := 0
  minor  : Nat := 0
  reason : Nat := 0
  cong   : Bool := false
  depth  : Nat := 0
deriving DecidableEq, Repr

/-- Membership of a device (R380). -/
inductive Member where
  | absent | joining | member | fenced
deriving DecidableEq, Repr

/-- The recorded reply of a non-idempotent request (R105). -/
structure Replay where
  seqno : Nat
  reply : DWord
  code  : Byte
deriving DecidableEq, Repr

/-- The fabric unit (R105, R374, R377). Tables keyed by source use dev·2^32 + core.
`counts` are the stores, atoms and reds applied; `high` is one above the highest sequence number applied, by source and line
(R103); `held` are the requests that wait for an earlier one of their line: source, sequence number, the one before, request. -/
structure Fabric where
  configured : Bool := false
  q      : Nat := 0
  index  : Nat := 0
  fid    : Word := 0
  seed   : Word := 0
  thresh : Nat := 384
  ports  : Table Port := []
  members : Table Member := []
  fencedSelf : Bool := false
  counts : Table Nat := []
  replay : Table (List Replay) := []
  high   : Table Nat := []
  held   : List (ReqSource × Nat × Nat × RemoteReq) := []
deriving DecidableEq, Repr

/-- A flip that has been applied and not yet shown (R384): the record, its target frame, whether it is late, and whether
it was applied after the fault that the breakwater stands for (R386). -/
structure Flip where
  data    : List Byte
  target  : Word
  late    : Bool
  clears  : Bool
deriving DecidableEq, Repr

/-- What a head scans out (R386, R388): the safe frame, the frame shown, or its warp by nine matrix words. -/
inductive Scan where
  | safe
  | frame
  | warp (h : List Word)
deriving DecidableEq, Repr

/-- A display head (R381 to R386): the record of DISP_CFG, flips, breakwater and status. -/
structure Head where
  cfg     : Bool := false
  data    : List Byte := []
  /-- The trained link's pixel rate in kHz. -/
  rate    : Nat := 0
  next    : Option Flip := none
  shown   : Option (List Byte) := none
  shownAt : Word := 0
  late    : Bool := false
  refused : Bool := false
  bw      : Bool := false
  bwr     : Nat := 0
  scan    : Scan := .safe
  /-- The vblank of the current frame has begun. -/
  inVblank : Bool := false
deriving DecidableEq, Repr

/-- The system part: start, security, power and errors (R388 to R392). -/
structure Sys where
  stage    : Nat := 0
  agreed   : Option Word := none
  parts    : Nat := 1
  image    : Option (List Byte) := none
  hold     : Nat := 0
  hbm      : Bool := false
  cap      : Nat := 1800
  clock    : Nat := 1600
  off      : Bool := false
  errors   : List (List Byte) := []
  bad      : List Nat := []
  hsf      : Word := 0
  hsPresent : Bool := true
  /-- The interval between house-sync frame pulses in ns, the frame period (R381); before two pulses have come, that of 60 Hz
  (DESIGN CHOICE: log entry 27). -/
  period   : Nat := 16666667
  /-- Errors that SECDED has corrected (R391). -/
  corrected : Nat := 0
  cmdHead  : Word := 0
  cmdTail  : Word := 0
  /-- A tail value of queue 0 was discarded (R335). -/
  cmdErr   : Bool := false
  /-- TLB_INV commands whose reply waits: tag, context, VA, length. -/
  invs     : List (Word × Nat × Nat × Nat) := []
deriving DecidableEq, Repr

/-- A message or signal that leaves the device. -/
inductive Out where
  | interrupt (vector : Nat)
  | replyInterrupt
  /-- The path that the packets of the next message take (R375). -/
  | header (dev : Nat) (path : List Nat)
  | request (dev : Nat) (src : ReqSource) (seqno prev : Nat) (req : RemoteReq)
  | reply (src : ReqSource) (seqno : Nat) (v : DWord) (code : Byte)
  | marker (dev : Nat) (src : ReqSource) (count : Nat)
  | markerAnswer (src : ReqSource) (count : Nat)
  | tide (dev : Nat) (gid : Word) (kind : Nat) (data : List Nat)
  | block (dev cid block : Nat) (b : CollBlock)
  | final (dev cid block : Nat) (b : CollBlock)
  | collRecord (dev cid : Nat) (cover : Bool) (count : Nat) (root : Bool) (members : List Nat)
  | collAgreed (dev cid : Nat)
  | collAbort (dev cid code named : Nat) (fc : Byte)
  | lossNotice (dev : Nat)
  | admission (dev : Nat)
  | forward (port dst : Nat)
  /-- The training record that this end of a link sends (R378). -/
  | training (port : Nat) (data : List Byte)
  | stallHint (dev : Nat)
  | writeBack (key : Nat)
deriving DecidableEq, Repr

/-- What the outside and the schedulers decide next: an event, or which wave a pipe issues, with the lanes whose remote
access the target refuses at that issue and its fault (R183 orders 4 to 6, R358), and the bytes at remote VAs that other devices
answer to what the instruction reads as it issues. -/
inductive Choice where
  | event (i : Instr)
  | issue (wave : Nat) (refused : List (Nat × Byte)) (answers : List (Nat × Byte))
deriving DecidableEq, Repr

/-! ### The device -/

/-- One device. `cur` is the issuing wave; `agenda` holds the choices of schedulers and outside in order; `free`
counts the open values used (log entry 3); `nextId` names waves' workgroups, gangs and engine operations. -/
structure State where
  mem      : Memory := []
  marks    : Table Bool := []
  sys      : Sys := {}
  fabric   : Fabric := {}
  heads    : Table Head := []
  ctxs     : Table Context := []
  queues   : Table Queue := []
  binds    : Table Bind := []
  launches : Table Launch := []
  wgs      : Table Workgroup := []
  gangs    : Table Gang := []
  waves    : Table Wave := []
  clusters : Table Cluster := []
  cores    : Table CoreState := []
  shuttles : Table ShuttleOp := []
  sorts    : Table SortOp := []
  resolves : Table ResolveOp := []
  vresolves : Table ResolveOp := []
  colls    : Table CollOp := []
  /-- The binned geometry by context·2^64 + state-block address (R259). -/
  bins     : Table (List Triangle) := []
  walkers  : Table Walker := []
  tides    : Table TideRec := []
  coords   : Table Coord := []
  early    : Table (List EarlyTide) := []
  earlyOut : List (Word × DWord) := []
  locked   : Table Word := []
  /-- Lines of replicated pages whose replicas a core has locked for a write (R99). -/
  replicas : Table Nat := []
  outbox   : List Out := []
  agenda   : List Choice := []
  /-- By partition, the gang that its dispatcher cannot place (R346). -/
  stalls   : Table Stall := []
  /-- What targets refuse at the present issue, by lane. -/
  refused  : List (Nat × Byte) := []
  /-- What other devices answer at the present issue, by remote VA. -/
  answers  : List (Nat × Byte) := []
  cur      : Nat := 0
  /-- The waves have the next turn of the schedule. -/
  turn     : Bool := false
  /-- The partition that the shared engines of a kind served last (R329): 0 shuttle, collectives among them (R289), 1 shingle,
  2 couching, 3 binner, 4 resolver. -/
  served   : Table Nat := []
  free     : Nat := 0
  nextId   : Nat := 1
deriving DecidableEq, Repr

/-- The device right after PCIe reset (R388): stage 0, the command and reply rings empty, one partition, the safe
frame on every head, the power cap at the module's 1,800 W (R392) and the arithmetic clock at 1.6 GHz (R16); no
context, queue, launch or wave exists, so no register of a wave does (R50 gives each its value at its start). -/
def State.reset : State := {}

/-- Why a step has no next state. -/
inductive Fault where
  /-- Raised by a wave instruction when no live wave is issuing: `exec` was applied outside an issue. Safe. -/
  | noIssuingWave
deriving DecidableEq, Repr

/-- Why the model does not answer. -/
inductive Refusal where
  /-- Raised by an arm of `exec` whose instruction has no meaning yet. Safe. -/
  | notModelled (mnemonic : String)
deriving DecidableEq, Repr

end Sys2Proof.Machine
end

