-- ==== Sys2Proof/Machine/Bits.lean ====
section
/-! DEFINITION. Tables, the memory list, lane masks and byte order: the small operations everything else uses. -/

namespace Sys2Proof.Machine

/-! ### Tables -/

/-- The entry of a key. -/
def tget? {α : Type} : Table α → Nat → Option α
  | [], _ => none
  | (k, x) :: t, n => if k = n then some x else if n < k then none else tget? t n

/-- The table with an entry put at a key. -/
def tput {α : Type} : Table α → Nat → α → Table α
  | [], n, y => [(n, y)]
  | (k, x) :: t, n, y => if n < k then (n, y) :: (k, x) :: t else if k = n then (n, y) :: t else (k, x) :: tput t n y

/-- The table without a key's entry. -/
def tdel {α : Type} : Table α → Nat → Table α
  | [], _ => []
  | (k, x) :: t, n => if k = n then t else if n < k then (k, x) :: t else (k, x) :: tdel t n

/-- A key's value, `d` where it has no entry. -/
def tgetD {α : Type} (t : Table α) (n : Nat) (d : α) : α := (tget? t n).getD d

/-- The table with a value at a key; the value `d` removes the entry. -/
def tsetD {α : Type} [DecidableEq α] (t : Table α) (n : Nat) (d x : α) : Table α :=
  if x = d then tdel t n else tput t n x

/-- The table with a key's entry changed, if it has one. -/
def tmod {α : Type} (t : Table α) (n : Nat) (f : α → α) : Table α :=
  match tget? t n with
  | some x => tput t n (f x)
  | none => t

/-- The table with every entry changed. -/
def tmap {α : Type} (t : Table α) (f : Nat → α → α) : Table α := t.map fun (k, x) => (k, f k x)

/-- The first entry that meets a test. -/
def tfind? {α : Type} (t : Table α) (p : Nat → α → Bool) : Option (Nat × α) := t.find? fun (k, x) => p k x

/-- The entries that meet a test. -/
def tfilter {α : Type} (t : Table α) (p : Nat → α → Bool) : Table α := t.filter fun (k, x) => p k x

/-! ### Bytes -/

/-- A number of `n` bytes, little-endian. -/
def leNat : List Byte → Nat
  | [] => 0
  | b :: bs => b.toNat + 256 * leNat bs

/-! ### Memory -/

/-- The byte at a key: an unlisted key reads as 0. -/
def memGet : Memory → Nat → Byte
  | [], _ => 0
  | (k, b) :: m, n => if k = n then b else if n < k then 0 else memGet m n

/-- Memory with a byte written; writing 0 removes the entry. -/
def memSet : Memory → Nat → Byte → Memory
  | [], n, b => if b = 0 then [] else [(n, b)]
  | (k, c) :: m, n, b =>
    if n < k then (if b = 0 then (k, c) :: m else (n, b) :: (k, c) :: m)
    else if k = n then (if b = 0 then m else (n, b) :: m)
    else (k, c) :: memSet m n b

/-- `n` bytes from a key upward. -/
def memRead (m : Memory) (a : Nat) : Nat → List Byte
  | 0 => []
  | n + 1 => memGet m a :: memRead m (a + 1) n

/-- Bytes written from a key upward. -/
def memWrite (m : Memory) (a : Nat) : List Byte → Memory
  | [] => m
  | b :: bs => memWrite (memSet m a b) (a + 1) bs

/-- Memory with the bytes of a range removed, so that it reads as 0. -/
def memClear (m : Memory) (lo len : Nat) : Memory := m.filter fun c => c.1 < lo || lo + len ≤ c.1

/-- Memory with the bytes of a range moved to another place, so that the range reads as 0. -/
def memMove (m : Memory) (src dst len : Nat) : Memory :=
  (m.filter fun c => src ≤ c.1 && c.1 < src + len).foldl (fun m c => memSet m (c.1 - src + dst) c.2) (memClear (memClear m dst len) src len)

/-! ### The layout of memory's keys -/

/-- Bits [hi:lo] of a number. -/
def bitsOf (x hi lo : Nat) : Nat := (x / 2 ^ lo) % 2 ^ (hi + 1 - lo)
/-- One bit of a number. -/
def bitOf (x i : Nat) : Bool := (x / 2 ^ i) % 2 = 1

/-- Device memory: physical addresses below 2^40 (R330). -/
def devKey (pa : Nat) : Nat := pa % 2 ^ 40
/-- Host memory. -/
def hostKey (a : Nat) : Nat := 2 ^ 62 + a % 2 ^ 62
/-- PB, where the private window of a wave stands in context memory (R77): a workgroup's windows are aligned to 128 bytes and each
follows the one before (R367). The memory that firmware takes for them has addresses above those that a page can name
(DESIGN CHOICE: log entry 4), and no global VA maps it. -/
def windowBase (wave priv : Nat) : Nat := 2 ^ 40 + wave / 32 * 2 ^ 28 + wave % 32 * (128 * priv)
/-- The keys of a window's lines while the core's L1 holds them: they are written back when the workgroup is saved (R79, R300). -/
def prvBase (wave priv : Nat) : Nat := 2 ^ 64 + windowBase wave priv
/-- addr(o, l) of a wave's private window (R77): word w of every lane lies in one 128-byte line. No agent but the lane names
these bytes (R79). -/
def prvKey (wave priv lane off : Nat) : Nat := prvBase wave priv + off / 4 * 128 + lane * 4 + off % 4
/-- The scratch of a workgroup (R80). -/
def scrKey (wg off : Nat) : Nat := 2 ^ 112 + wg * 2 ^ 20 + off
/-- The hoop buffer (4 MiB), skein buffer (2 MiB) and accumulator tiles (1 MiB) of a cluster (R12). -/
def hoopKey (cluster off : Nat) : Nat := 2 ^ 160 + cluster * 2 ^ 24 + off
/-- The skein buffer. -/
def skeinKey (cluster off : Nat) : Nat := 2 ^ 161 + cluster * 2 ^ 24 + off
/-- Element (row, column) of an accumulator tile (R50). -/
def tileKey (cluster tile row col : Nat) : Nat := 2 ^ 162 + cluster * 2 ^ 24 + tile * 4096 + (row * 32 + col) * 4
/-- The management BAR's rings (R334). -/
def barKey (off : Nat) : Nat := 2 ^ 163 + off

/-- Whether a key lies in a private window. -/
def isPrvKey (k : Nat) : Bool := 2 ^ 64 ≤ k && k < 2 ^ 112
/-- The key of byte `i` of an access: in a private window the next word of a lane lies in the next line (R77, R78). -/
def byteKey (k i : Nat) : Nat := if isPrvKey k then k + i + (k % 4 + i) / 4 * 124 else k + i

/-- The home slice of a device physical address, by its 4 KiB granule (R13, R330). -/
def sliceOf (pa : Nat) : Nat :=
  let g := bitsOf pa 39 12
  Nat.xor (Nat.xor (bitsOf g 7 0) (bitsOf g 15 8)) (Nat.xor (bitsOf g 23 16) (bitsOf g 27 24))
/-- The base die on which a slice lies (R330). -/
def sliceDie (slice : Nat) : Nat := slice / 64
/-- The slice of the copy on a base die of a line whose primary replica lies in a slice (R330). -/
def replicaSlice (die slice : Nat) : Nat := 64 * die + slice % 64
/-- The slices of the four copies of a replicated line, the primary one first, as its locks are taken (R99, R330). -/
def replicaSlices (pa : Nat) : List Nat :=
  sliceOf pa :: (([0, 1, 2, 3].filter fun d => d ≠ sliceDie (sliceOf pa)).map fun d => replicaSlice d (sliceOf pa))

/-- Whether a key lies in host memory. -/
def isHostKey (k : Nat) : Bool := 2 ^ 62 ≤ k && k < 2 ^ 63
/-- Whether a key lies in device memory. -/
def isDevKey (k : Nat) : Bool := k < 2 ^ 40

/-! ### Memory of a state -/

namespace State

/-- `n` bytes at a key. -/
def bytesAt (s : State) (k n : Nat) : List Byte := memRead s.mem k n
/-- `n` bytes at a key as a number. -/
def natAt (s : State) (k n : Nat) : Nat := leNat (memRead s.mem k n)
/-- A state with the update mark of R109 of each 64-byte line of device memory set or cleared by a write: a write of
all of bytes 60 to 63 clears it, any other write to bytes 0 to 59 sets it. -/
def markLines (s : State) (k n : Nat) : State :=
  if !isDevKey k || n = 0 then s else
  let l0 := k / 64
  let cnt := (k + n - 1) / 64 - l0 + 1
  { s with marks := (List.range cnt).foldl (fun t i =>
      let base := (l0 + i) * 64
      let whole := decide (k ≤ base + 60) && decide (base + 64 ≤ k + n)
      let payload := decide (k < base + 60)
      if whole then tdel t (l0 + i) else if payload then tput t (l0 + i) true else t) s.marks }
/-- Lines held uncorrectable (R391) without those that a write covers whole. -/
def healLines (s : State) (k n : Nat) : State :=
  { s with sys := { s.sys with bad := s.sys.bad.filter fun l => !(decide (k ≤ l * 64) && decide (l * 64 + 64 ≤ k + n)) } }
/-- Bytes written at a key. -/
def writeAt (s : State) (k : Nat) (bs : List Byte) : State :=
  ({ s with mem := memWrite s.mem k bs }.markLines k bs.length).healLines k bs.length
/-- The update marks after one write of cells (R109): a line whose bytes 60 to 63 are all among them is whole, any other
line with one of its bytes 0 to 59 among them is marked. -/
def markCells (marks : Table Bool) (cells : Table Byte) : Table Bool :=
  let lines := (cells.map fun x => x.1 / 64).eraseDups
  lines.foldl (fun t l =>
    if !isDevKey (l * 64) then t
    else if [60, 61, 62, 63].all fun i => (tget? cells (l * 64 + i)).isSome then tdel t l
    else if (cells.any fun x => x.1 / 64 = l && x.1 % 64 < 60) then tput t l true else t) marks
/-- Cells written as one write of an engine (R109). -/
def writeCells (s : State) (cells : Table Byte) : State :=
  let whole (l : Nat) : Bool := (List.range 64).all fun i => (tget? cells (64 * l + i)).isSome
  { s with
    mem := cells.foldl (fun m (k, b) => memSet m k b) s.mem, marks := markCells s.marks cells
    sys := { s.sys with bad := s.sys.bad.filter fun l => !whole l } }
/-- A number written as `n` bytes at a key. -/
def setNat (s : State) (k n v : Nat) : State := s.writeAt k (leBytes n v)

/-- The next open value below `2^64`, and the state that has used it (log entry 3). -/
def fresh (s : State) : Nat × State := (Config.freeNat s.free, { s with free := s.free + 1 })
/-- The errors corrected since they were last counted, an open number, counted (R391; log entry 3). -/
def countCorrected (s : State) : State :=
  { s with sys := { s.sys with corrected := s.sys.corrected + Config.freeNat s.free }, free := s.free + 1 }
/-- Bytes of memory made open values (log entry 3). -/
def openRange (s : State) (key n : Nat) : State :=
  { s with mem := memWrite s.mem key ((List.range n).map fun i => BitVec.ofNat 8 (Config.freeNat (s.free + i))), free := s.free + n }
/-- A state with a message added to the outbox. -/
def emit (s : State) (o : Out) : State := { s with outbox := s.outbox ++ [o] }

end State

/-! ### Lane masks -/

/-- The lanes of a wave in ascending order. -/
def allLanes : List Nat := List.range 32
/-- The lanes of a mask in ascending order. -/
def lanesOf (m : LaneMask) : List Nat := allLanes.filter fun l => m.getLsbD l
/-- The mask of the lanes that meet a test. -/
def maskOf (p : Nat → Bool) : LaneMask :=
  allLanes.foldl (fun m l => if p l then m ||| (1#32 <<< l) else m) 0
/-- The mask of one lane. -/
def laneBit (l : Nat) : LaneMask := 1#32 <<< l
/-- The lowest lane of a mask. -/
def lowLane (m : LaneMask) : Nat := ((lanesOf m).head?).getD 0

/-- A signed number's two's complement in `w` bits. -/
def ofInt (w : Nat) (x : Int) : Nat := (x % (2 ^ w : Int)).toNat
/-- The two's-complement reading of `w` bits. -/
def sext (w : Nat) (x : Nat) : Int :=
  let y := x % 2 ^ w
  if w = 0 then 0 else if y < 2 ^ (w - 1) then (y : Int) else (y : Int) - 2 ^ w

end Sys2Proof.Machine
end

