-- ==== Sys2Proof/Machine/Float.lean ====
section
/-! DEFINITION. Binary floating point computed exactly and rounded once (R55 to R59, R164 to R169): decoding,
rounding, NaN results, and the operations on bit patterns, each with the flags it raises. -/

namespace Sys2Proof.Machine

/-! ### Flags (R59) -/

/-- NX. -/
def fNX : Word := 1
/-- UF. -/
def fUF : Word := 2
/-- OF. -/
def fOF : Word := 4
/-- DZ. -/
def fDZ : Word := 8
/-- NV. -/
def fNV : Word := 16
/-- QS. -/
def fQS : Word := 32

/-- A flag where a condition holds. -/
def flagIf (c : Bool) (f : Word) : Word := if c then f else 0

/-! ### Rounding exact values -/

/-- Rounds num/den to an integer in a mode; `neg` is the sign of the value. Answers the magnitude and whether the
value was not an integer. -/
def roundQuot (rm : Rnd) (neg : Bool) (num den : Nat) : Nat × Bool :=
  let n := num / den
  let r := num % den
  if r = 0 then (n, false) else
  let up := match rm with
    | .rne => den < 2 * r || (den = 2 * r && n % 2 = 1)
    | .rtz => false
    | .rup => !neg
    | .rdn => neg
  (if up then n + 1 else n, true)

/-- num·2^e/den as a quotient of naturals. -/
def scaleQ (num den : Nat) (e : Int) : Nat × Nat :=
  if 0 ≤ e then (num * 2 ^ e.toNat, den) else (num, den * 2 ^ (-e).toNat)

/-- floor(log2(num/den)) for positive num. -/
def log2Q (num den : Nat) : Int :=
  let g : Int := (Nat.log2 num : Int) - (Nat.log2 den : Int)
  let (a, b) := scaleQ num den (-g)
  if a < b then g - 1 else g

/-- The value num·2^e/den > 0 rounded to `mb` fraction bits with minimum exponent `emin` and no maximum: the
magnitude n at the quantum 2^q, whether it is inexact, and whether the result is tiny after rounding. -/
structure Rounded where
  n   : Nat
  q   : Int
  nx  : Bool
  tiny : Bool
deriving DecidableEq, Repr

/-- See `Rounded`. -/
def roundPrec (rm : Rnd) (neg : Bool) (mb : Nat) (emin : Int) (num den : Nat) (e : Int) : Rounded :=
  let E := log2Q num den + e
  let q := max (E - mb) (emin - mb)
  let (a, b) := scaleQ num den (e - q)
  let (n, nx) := roundQuot rm neg a b
  let tiny :=
    if emin ≤ E then false
    else if E = emin - 1 then
      let (a', b') := scaleQ num den (e - (E - mb))
      decide ((roundQuot rm neg a' b').1 < 2 ^ (mb + 1))
    else true
  ⟨n, q, nx, tiny⟩

/-! ### IEEE formats -/

/-- An IEEE binary format: exponent and fraction bits (R55). -/
structure FFmt where
  eb : Nat
  mb : Nat
deriving DecidableEq, Repr

/-- FP64. -/
def fmt64 : FFmt := ⟨11, 52⟩
/-- FP32. -/
def fmt32 : FFmt := ⟨8, 23⟩
/-- FP16. -/
def fmt16 : FFmt := ⟨5, 10⟩
/-- BF16. -/
def fmtB16 : FFmt := ⟨8, 7⟩

/-- The element format of a floating-point type. -/
def tyFmt : AluTy → FFmt
  | .f64 => fmt64 | .f16x2 => fmt16 | .bf16x2 => fmtB16 | _ => fmt32

namespace FFmt

/-- The exponent bias. -/
def bias (f : FFmt) : Nat := 2 ^ (f.eb - 1) - 1
/-- The minimum exponent of a normal number. -/
def emin (f : FFmt) : Int := 1 - (f.bias : Int)
/-- The width in bits. -/
def width (f : FFmt) : Nat := 1 + f.eb + f.mb
/-- The sign bit's place value. -/
def signBit (f : FFmt) : Nat := 2 ^ (f.eb + f.mb)
/-- The pattern of +∞. -/
def infBits (f : FFmt) : Nat := (2 ^ f.eb - 1) * 2 ^ f.mb
/-- The generated NaN (R55). -/
def genNaN (f : FFmt) : Nat := f.infBits + 2 ^ (f.mb - 1)
/-- The largest finite value's pattern. -/
def maxBits (f : FFmt) : Nat := f.infBits - 1
/-- A sign put on a magnitude pattern. -/
def withSign (f : FFmt) (neg : Bool) (x : Nat) : Nat := if neg then f.signBit + x else x

end FFmt

/-- What a pattern stands for: a NaN, an infinity, or ±m·2^e. -/
inductive FV where
  | nan (x : Nat)
  | inf (neg : Bool)
  | fin (neg : Bool) (m : Nat) (e : Int)
deriving DecidableEq, Repr

/-- The value of a pattern. -/
def FFmt.value (f : FFmt) (x : Nat) : FV :=
  let x := x % 2 ^ f.width
  let neg := decide (f.signBit ≤ x)
  let mag := x % f.signBit
  let ex := mag / 2 ^ f.mb
  let fr := mag % 2 ^ f.mb
  if ex = 2 ^ f.eb - 1 then (if fr = 0 then .inf neg else .nan x)
  else if ex = 0 then .fin neg fr (f.emin - f.mb)
  else .fin neg (2 ^ f.mb + fr) ((ex : Int) - f.bias - f.mb)

/-- Whether a pattern is a NaN. -/
def FFmt.isNaN (f : FFmt) (x : Nat) : Bool := match f.value x with | .nan _ => true | _ => false
/-- Whether a pattern is a signalling NaN. -/
def FFmt.isSNaN (f : FFmt) (x : Nat) : Bool := f.isNaN x && !bitOf x (f.mb - 1)
/-- quiet() of R58. -/
def FFmt.quiet (f : FFmt) (x : Nat) : Nat := if bitOf x (f.mb - 1) then x else x + 2 ^ (f.mb - 1)

/-- nanrule of R58 over operands: the quieted NaN of greatest magnitude pattern, the positive one on a tie; the
generated NaN where no operand is a NaN. -/
def FFmt.nanrule (f : FFmt) (xs : List Nat) : Nat :=
  let cand := (xs.filter f.isNaN).map fun x => f.quiet (x % 2 ^ f.width)
  cand.foldl (fun best y =>
    let k := y % f.signBit
    let kb := best % f.signBit
    if kb < k || (k = kb && y < best) then y else best) (cand.headD f.genNaN)

/-- A NaN result with the flags of its operands: NV for a signalling operand (R58). -/
def FFmt.nanResult (f : FFmt) (xs : List Nat) : Nat × Word := (f.nanrule xs, flagIf (xs.any f.isSNaN) fNV)

/-- The rounded result of ±num·2^e/den (R56), with NX, UF and OF; a zero keeps the sign `neg`. -/
def FFmt.round (f : FFmt) (rm : Rnd) (neg : Bool) (num den : Nat) (e : Int) : Nat × Word :=
  if num = 0 then (f.withSign neg 0, 0) else
  let r := roundPrec rm neg f.mb f.emin num den e
  -- the biased exponent field and fraction of n·2^q, as one number
  let (n, q) := if r.n = 2 ^ (f.mb + 1) then (2 ^ f.mb, r.q + 1) else (r.n, r.q)
  let mag := if n < 2 ^ f.mb then n else ((q + f.mb + f.bias).toNat) * 2 ^ f.mb + (n - 2 ^ f.mb)
  if f.infBits ≤ mag then
    let toInf := match rm with | .rne => true | .rtz => false | .rup => !neg | .rdn => neg
    (f.withSign neg (if toInf then f.infBits else f.maxBits), fOF ||| fNX)
  else (f.withSign neg mag, flagIf r.nx fNX ||| flagIf (r.nx && r.tiny) fUF)

/-- The rounded result of the integer x·2^e; an exact zero has the sign `zneg`. -/
def FFmt.roundInt (f : FFmt) (rm : Rnd) (x : Int) (e : Int) (zneg : Bool) : Nat × Word :=
  if x = 0 then (f.withSign zneg 0, 0) else f.round rm (decide (x < 0)) x.natAbs 1 e

/-- A finite value as an integer at the exponent `e`, which is at most its own. -/
def atExp (neg : Bool) (m : Nat) (me e : Int) : Int :=
  let v : Int := (m * 2 ^ (me - e).toNat : Nat)
  if neg then -v else v

/-- The sign of an exact zero sum (R56): the common sign of zero terms, else + (− under rdn). -/
def zeroSign (rm : Rnd) (negs : List Bool) : Bool :=
  if negs.all (· == true) then true else if negs.all (· == false) then false else rm == .rdn

/-- A sum of exact terms rounded once: NaNs by R58, ∞ − ∞ the generated NaN with NV. -/
def FFmt.sum (f : FFmt) (rm : Rnd) (nans : List Nat) (terms : List FV) : Nat × Word :=
  if nans.any f.isNaN then f.nanResult nans else
  let pinf := terms.any (· == .inf false)
  let ninf := terms.any (· == .inf true)
  if pinf && ninf then (f.genNaN, fNV)
  else if pinf then (f.infBits, 0)
  else if ninf then (f.withSign true f.infBits, 0)
  else
    let fins := terms.filterMap fun t => match t with | .fin n m e => some (n, m, e) | _ => none
    let e0 := fins.foldl (fun a t => min a t.2.2) ((fins.head?.map (·.2.2)).getD 0)
    let x := fins.foldl (fun a t => a + atExp t.1 t.2.1 t.2.2 e0) 0
    f.roundInt rm x e0 (zeroSign rm (fins.map (·.1)))

/-- The exact product of two values that are not NaN; ∞ × 0 is none. -/
def FV.mul : FV → FV → Option FV
  | .fin n m e, .fin n' m' e' => some (.fin (n != n') (m * m') (e + e'))
  | .inf n, .inf n' => some (.inf (n != n'))
  | .inf n, .fin n' m _ | .fin n' m _, .inf n => if m = 0 then none else some (.inf (n != n'))
  | _, _ => none

/-- The value with its sign changed. -/
def FV.neg : FV → FV
  | .nan x => .nan x | .inf n => .inf (!n) | .fin n m e => .fin (!n) m e

/-! ### Operations on patterns -/

namespace FFmt

/-- rnd(a + b) (R165). -/
def add (f : FFmt) (rm : Rnd) (a b : Nat) : Nat × Word := f.sum rm [a, b] [f.value a, f.value b]
/-- rnd(a − b). -/
def sub (f : FFmt) (rm : Rnd) (a b : Nat) : Nat × Word := f.sum rm [a, b] [f.value a, (f.value b).neg]

/-- rnd(a × b). -/
def mul (f : FFmt) (rm : Rnd) (a b : Nat) : Nat × Word :=
  if f.isNaN a || f.isNaN b then f.nanResult [a, b] else
  match (f.value a).mul (f.value b) with
  | some (.fin n m e) => f.round rm n m 1 e
  | some (.inf n) => (f.withSign n f.infBits, 0)
  | _ => (f.genNaN, fNV)

/-- rnd(a × b + c) with one rounding (R165): ∞ × 0 raises NV even when c is a quiet NaN. -/
def fma (f : FFmt) (rm : Rnd) (a b c : Nat) : Nat × Word :=
  let bad := !f.isNaN a && !f.isNaN b && ((f.value a).mul (f.value b)).isNone
  if f.isNaN a || f.isNaN b || f.isNaN c then
    let (r, fl) := f.nanResult [a, b, c]
    (r, fl ||| flagIf bad fNV)
  else match (f.value a).mul (f.value b) with
    | some p => f.sum rm [] [p, f.value c]
    | none => (f.genNaN, fNV)

/-- The order of two values that are not NaN: −0 below +0 when `zeros` (R56). -/
def lt (f : FFmt) (zeros : Bool) (a b : Nat) : Bool :=
  let key (x : Nat) : Int :=
    let m : Int := ((x % f.signBit : Nat) : Int)
    if f.signBit ≤ x % 2 ^ f.width then -m - (if zeros then 1 else 0) else m
  key a < key b

/-- The smaller operand (R166). -/
def fmin (f : FFmt) (a b : Nat) : Nat × Word :=
  if f.isNaN a || f.isNaN b then f.nanResult [a, b] else (if f.lt true b a then b else a, 0)
/-- The larger operand. -/
def fmax (f : FFmt) (a b : Nat) : Nat × Word :=
  if f.isNaN a || f.isNaN b then f.nanResult [a, b] else (if f.lt true a b then b else a, 0)

/-- fmin(fmax(a, b), c), nanrule over all three (R166). -/
def clamp (f : FFmt) (a b c : Nat) : Nat × Word :=
  if f.isNaN a || f.isNaN b || f.isNaN c then f.nanResult [a, b, c] else ((f.fmin (f.fmax a b).1 c).1, 0)

/-- A comparison and the flag it raises (R166). -/
def cmp (f : FFmt) (cc : FCond) (a b : Nat) : Bool × Word :=
  let nan := f.isNaN a || f.isNaN b
  let snan := f.isSNaN a || f.isSNaN b
  let l := f.lt false a b
  let g := f.lt false b a
  match cc with
  | .uo => (nan, flagIf snan fNV)
  | .ord => (!nan, flagIf snan fNV)
  | .rel .eq => (!nan && !l && !g, flagIf snan fNV)
  | .rel .ne => (nan || l || g, flagIf snan fNV)
  | .rel .lt => (!nan && l, flagIf nan fNV)
  | .rel .le => (!nan && !g, flagIf nan fNV)
  | .rel .gt => (!nan && g, flagIf nan fNV)
  | .rel .ge => (!nan && !l, flagIf nan fNV)

/-- rnd(a / b) (R57, R167). -/
def div (f : FFmt) (rm : Rnd) (a b : Nat) : Nat × Word :=
  if f.isNaN a || f.isNaN b then f.nanResult [a, b] else
  match f.value a, f.value b with
  | .fin n m e, .fin n' m' e' =>
    if m' = 0 then (if m = 0 then (f.genNaN, fNV) else (f.withSign (n != n') f.infBits, fDZ))
    else f.round rm (n != n') m m' (e - e')
  | .inf n, .fin n' _ _ => (f.withSign (n != n') f.infBits, 0)
  | .fin n _ _, .inf n' => (f.withSign (n != n') 0, 0)
  | _, _ => (f.genNaN, fNV)

/-- The pattern of 1.0. -/
def one (f : FFmt) : Nat := f.bias * 2 ^ f.mb

/-- rnd(1 / a). -/
def rcp (f : FFmt) (rm : Rnd) (a : Nat) : Nat × Word :=
  if f.isNaN a then f.nanResult [a] else f.div rm f.one a

end FFmt

/-- The integer square root, digit by digit over `k` bits. -/
def isqrtBits (x : Nat) : Nat → Nat
  | 0 => 0
  | k + 1 =>
    let r := isqrtBits (x / 4) k * 2
    if (r + 1) * (r + 1) ≤ x then r + 1 else r

/-- floor(√x). -/
def isqrt (x : Nat) : Nat := isqrtBits x (Nat.log2 x / 2 + 1)

namespace FFmt

/-- rnd(√a) (R57). -/
def sqrt (f : FFmt) (rm : Rnd) (a : Nat) : Nat × Word :=
  match f.value a with
  | .nan x => f.nanResult [x]
  | .inf neg => if neg then (f.genNaN, fNV) else (f.infBits, 0)
  | .fin neg m e =>
    if m = 0 then (f.withSign neg 0, 0) else if neg then (f.genNaN, fNV) else
    -- m·2^e = M·4^h with M of at least 2·mb + 8 bits
    let k := 2 * f.mb + 8
    let k := if (e - k) % 2 = 0 then k else k + 1
    let M := m * 2 ^ k
    let r := isqrt M
    let h := (e - k) / 2
    if r * r = M then f.round rm false r 1 h else f.round rm false (2 * r + 1) 1 (h - 1)

/-- rnd(1/√a) (R57). -/
def rsq (f : FFmt) (rm : Rnd) (a : Nat) : Nat × Word :=
  match f.value a with
  | .nan x => f.nanResult [x]
  | .inf neg => if neg then (f.genNaN, fNV) else (0, 0)
  | .fin neg m e =>
    if m = 0 then (f.withSign neg f.infBits, fDZ) else if neg then (f.genNaN, fNV) else
    let (m, e) := if e % 2 = 0 then (m, e) else (2 * m, e - 1)
    let k := f.mb + 8 + Nat.log2 m
    let r := isqrt (2 ^ (2 * k) / m)
    let h := -(e / 2) - (k : Int)
    if r * r * m = 2 ^ (2 * k) then f.round rm false r 1 h else f.round rm false (2 * r + 1) 1 (h - 1)

/-- The value of a finite pattern rounded to an integer in a mode: the signed integer, and whether it differs. -/
def toInt (rm : Rnd) (neg : Bool) (m : Nat) (e : Int) : Int × Bool :=
  let (a, b) := scaleQ m 1 e
  let (n, nx) := roundQuot rm neg a b
  (if neg then -(n : Int) else n, nx)

/-- rnd to an integral value (R167): keeps a zero's sign, never raises NX. -/
def fround (f : FFmt) (rm : Rnd) (a : Nat) : Nat × Word :=
  match f.value a with
  | .nan x => f.nanResult [x]
  | .inf _ => (a % 2 ^ f.width, 0)
  | .fin neg m e => ((f.round .rne neg (FFmt.toInt rm neg m e).1.natAbs 1 0).1, 0)

/-- a − floor(a), rounded, kept below 1 (R167); an exact zero is +0 in every rounding mode (DESIGN CHOICE, log entry 57). -/
def fract (f : FFmt) (rm : Rnd) (a : Nat) : Nat × Word :=
  match f.value a with
  | .nan x => f.nanResult [x]
  | .inf _ => (f.genNaN, fNV)
  | .fin neg m e =>
    if m = 0 then (0, 0) else
    let den := 2 ^ (-e).toNat
    let num := if 0 ≤ e then 0 else if neg then (den - m % den) % den else m % den
    let (r, fl) := f.round rm false num den 0
    if r = f.one then (f.one - 1, fNX) else (r, fl)

/-- rnd(a × 2^n) (R168). -/
def ldexp (f : FFmt) (rm : Rnd) (a : Nat) (n : Int) : Nat × Word :=
  match f.value a with
  | .nan x => f.nanResult [x]
  | .inf neg => (f.withSign neg f.infBits, 0)
  | .fin neg m e =>
    -- beyond these bounds the result overflows or underflows whatever n is
    f.round rm neg m 1 (e + max (-10000) (min 10000 n))

/-- The class mask of R168. -/
def classify (f : FFmt) (a : Nat) : Nat :=
  match f.value a with
  | .nan x => if f.isSNaN x then 2 ^ 8 else 2 ^ 9
  | .inf neg => if neg then 2 ^ 0 else 2 ^ 7
  | .fin neg m _ =>
    if m = 0 then (if neg then 2 ^ 3 else 2 ^ 4)
    else if m < 2 ^ f.mb then (if neg then 2 ^ 2 else 2 ^ 5)
    else (if neg then 2 ^ 1 else 2 ^ 6)

/-- A NaN moved to another format: sign kept, quieted, top fraction bits kept (R58). -/
def moveNaN (f g : FFmt) (x : Nat) : Nat :=
  let x := f.quiet (x % 2 ^ f.width)
  let fr := x % 2 ^ f.mb
  let fr' := if f.mb ≤ g.mb then fr * 2 ^ (g.mb - f.mb) else fr / 2 ^ (f.mb - g.mb)
  g.withSign (decide (f.signBit ≤ x)) (g.infBits + fr')

/-- A value converted from one format to another (R169). -/
def convert (f g : FFmt) (rm : Rnd) (a : Nat) : Nat × Word :=
  match f.value a with
  | .nan x => (f.moveNaN g x, flagIf (f.isSNaN x) fNV)
  | .inf neg => (g.withSign neg g.infBits, 0)
  | .fin neg m e => g.round rm neg m 1 e

/-- A value converted to an integer type of `w` bits (R169): out of range and NaN raise NV. -/
def toIntTy (f : FFmt) (rm : Rnd) (signed : Bool) (w : Nat) (a : Nat) : Nat × Word :=
  let lo : Int := if signed then -(2 ^ (w - 1)) else 0
  let hi : Int := if signed then 2 ^ (w - 1) - 1 else 2 ^ w - 1
  match f.value a with
  | .nan _ => (0, fNV)
  | .inf neg => (ofInt w (if neg then lo else hi), fNV)
  | .fin neg m e =>
    let (x, nx) := FFmt.toInt rm neg m e
    if x < lo then (ofInt w lo, fNV) else if hi < x then (ofInt w hi, fNV) else (ofInt w x, flagIf nx fNX)

end FFmt

/-- rnd(a0·b0 + a1·b1 + c, FP32) with packed operands of format `f` (R168). -/
def dot2 (f : FFmt) (rm : Rnd) (a0 b0 a1 b1 c : Nat) : Nat × Word :=
  let wide (x : Nat) : Nat := if f.isNaN x then f.moveNaN fmt32 x else 0
  let ops := [a0, b0, a1, b1]
  let bad (x y : Nat) := !f.isNaN x && !f.isNaN y && ((f.value x).mul (f.value y)).isNone
  let anyBad := bad a0 b0 || bad a1 b1
  if ops.any f.isNaN || fmt32.isNaN c then
    (fmt32.nanrule (ops.map wide ++ [c]), flagIf (ops.any f.isSNaN || fmt32.isSNaN c || anyBad) fNV)
  else match (f.value a0).mul (f.value b0), (f.value a1).mul (f.value b1) with
    | some p, some q => fmt32.sum rm [] [p, q, fmt32.value c]
    | _, _ => (fmt32.genNaN, fNV)

end Sys2Proof.Machine
end

