-- ==== Sys2Proof/Machine/Narrow.lean ====
section
/-! DEFINITION. Narrow formats (R60 to R67): validity, decoding, encoding, packing, scales and stochastic rounding. -/

namespace Sys2Proof.Machine

/-- The fields of a format register (R60). -/
structure NFmt where
  sr   : Bool
  bl32 : Bool
  sk   : Nat
  ct   : Nat
  ov   : Nat
  sp   : Nat
  bias : Int
  m    : Nat
  e    : Nat
  s    : Bool
deriving DecidableEq, Repr

/-- The fields of a format word (R60). -/
def NFmt.ofWord (w : Word) : NFmt :=
  let x := w.toNat
  { sr := bitOf x 25, bl32 := bitOf x 24, sk := bitsOf x 23 22, ct := bitsOf x 21 20, ov := bitsOf x 19 18,
    sp := bitsOf x 17 16, bias := sext 8 (bitsOf x 15 8), m := bitsOf x 6 4, e := bitsOf x 3 1, s := bitOf x 0 }

namespace NFmt

/-- Container bits (R60). -/
def cbits (f : NFmt) : Nat := match f.ct with | 0 => 4 | 1 => 6 | _ => 8
/-- Element width (R61). -/
def width (f : NFmt) : Nat := (if f.s then 1 else 0) + f.e + f.m
/-- Elements per lane (R170). -/
def count (f : NFmt) : Nat := if f.ct = 0 then 8 else 4
/-- Block length (R60). -/
def block (f : NFmt) : Nat := if f.bl32 then 32 else 16

/-- The rules of R61 on a format word. -/
def valid (w : Word) : Bool :=
  let f := ofWord w
  w.toNat / 2 ^ 26 = 0 && !bitOf w.toNat 7 && f.ct ≠ 3 && f.ov ≠ 3 && f.sp ≠ 3 &&
  2 ≤ f.width && f.width ≤ f.cbits && (f.e ≠ 0 || (f.sp = 2 && f.ov = 0)) &&
  (f.sp ≠ 0 || (2 ≤ f.e && 1 ≤ f.m)) && (f.sp ≠ 1 || 1 ≤ f.e) && (f.ov ≠ 1 || f.sp = 0) && (f.ov ≠ 2 || f.sp ≤ 1)

/-- The value of an element (R62). A NaN keeps its sign as a generated FP32 NaN. -/
def decode (f : NFmt) (x : Nat) : FV :=
  let x := x % 2 ^ f.width
  if f.e = 0 then
    let n : Int := if f.s then sext f.width x else x
    .fin (decide (n < 0)) n.natAbs f.bias
  else
    let neg := f.s && bitOf x (f.e + f.m)
    let e := bitsOf x (f.e + f.m - 1) f.m
    let m := x % 2 ^ f.m
    let ones := e = 2 ^ f.e - 1
    if f.sp = 0 ∧ ones then (if m = 0 then .inf neg else .nan (fmt32.withSign neg fmt32.genNaN))
    else if f.sp = 1 ∧ ones ∧ m = 2 ^ f.m - 1 then .nan (fmt32.withSign neg fmt32.genNaN)
    else if e = 0 then .fin neg m (1 - f.bias - f.m)
    else .fin neg (2 ^ f.m + m) ((e : Int) - f.bias - f.m)

/-- The magnitude pattern (exponent and mantissa fields) of the largest finite value (R62). -/
def maxMag (f : NFmt) : Nat :=
  let top := 2 ^ (f.e + f.m) - 1
  match f.sp with | 0 => (2 ^ f.e - 1) * 2 ^ f.m - 1 | 1 => top - 1 | _ => top

/-- maxf as m·2^e (R62); the integer bound for E = 0. -/
def maxf (f : NFmt) : Nat × Int :=
  if f.e = 0 then ((if f.s then 2 ^ (f.width - 1) - 1 else 2 ^ f.width - 1), f.bias)
  else match f.decode f.maxMag with | .fin _ m e => (m, e) | _ => (0, 0)

/-- emax = floor(log2 maxf) (R62, R170); an open value for the valid format whose only finite value is 0 (log entry 57). -/
def emax (f : NFmt) : Int := let (m, e) := f.maxf; if m = 0 then Config.emaxOfZero else (Nat.log2 m : Int) + e

/-- The sign bit of an element. -/
def signOf (f : NFmt) (neg : Bool) : Nat := if f.s && neg then 2 ^ (f.e + f.m) else 0

/-- The NaN pattern (R63): the top mantissa bit under SP 0, all ones under SP 1. -/
def nanElem (f : NFmt) (neg : Bool) : Nat :=
  f.signOf neg + (if f.sp = 0 then (2 ^ f.e - 1) * 2 ^ f.m + 2 ^ (f.m - 1) else 2 ^ (f.e + f.m) - 1)

/-- The infinity pattern under SP 0. -/
def infElem (f : NFmt) (neg : Bool) : Nat := f.signOf neg + (2 ^ f.e - 1) * 2 ^ f.m

/-- The result of an overflow (R63, last row), without its flags but QS. -/
def overflow (f : NFmt) (rm : Rnd) (neg : Bool) : Nat × Word :=
  match f.ov with
  | 0 => (f.signOf neg + f.maxMag, fQS)
  | 1 =>
    let toInf := match rm with | .rne => true | .rtz => false | .rup => !neg | .rdn => neg
    (if toInf then f.infElem neg else f.signOf neg + f.maxMag, 0)
  | _ => (f.nanElem neg, 0)

/-- The magnitude fields of n·2^q for a value within range. -/
def magBits (f : NFmt) (n : Nat) (q : Int) : Nat :=
  let (n, q) := if n = 2 ^ (f.m + 1) then (2 ^ f.m, q + 1) else (n, q)
  if n < 2 ^ f.m then n else ((q + f.m + f.bias).toNat) * 2 ^ f.m + (n - 2 ^ f.m)

/-- The element of the rounded value y = n·2^q with the flags of R63: y is tiny below the least normal value. -/
def finish (f : NFmt) (rm : Rnd) (neg : Bool) (r : Rounded) : Nat × Word :=
  let (mm, me) := f.maxf
  let e := min r.q me
  if mm * 2 ^ (me - e).toNat < r.n * 2 ^ (r.q - e).toNat then
    let (x, fl) := f.overflow rm neg
    (x, fl ||| fOF ||| fNX)
  else (f.signOf neg + f.magBits r.n r.q, flagIf r.nx fNX ||| flagIf (r.nx && decide (r.n < 2 ^ f.m)) fUF)

/-- The integer element of an E = 0 format from a rounded magnitude (R63). -/
def finishInt (f : NFmt) (neg : Bool) (n : Nat) (nx : Bool) : Nat × Word :=
  let x : Int := if neg then -(n : Int) else n
  let lo : Int := if f.s then -(2 ^ (f.width - 1)) else 0
  let hi : Int := if f.s then 2 ^ (f.width - 1) - 1 else 2 ^ f.width - 1
  let c := if x < lo then lo else if hi < x then hi else x
  (ofInt f.width c, flagIf (c ≠ x) fQS ||| flagIf (nx || c ≠ x) fNX)

/-- ±∞ encoded (R63): where the format has no infinity, the overflow's ±maxf, in an integer format too. -/
def encodeInf (f : NFmt) (rm : Rnd) (neg : Bool) : Nat × Word :=
  if neg && !f.s then (0, fNX)
  else if f.sp = 0 then (f.infElem neg, 0)
  else if f.e = 0 then
    let top := 2 ^ (f.width - 1)
    (if f.s then (if neg then top + 1 else top - 1) else 2 ^ f.width - 1, fQS ||| fNX)
  else let (x, fl) := f.overflow rm neg; (x, fl ||| fNX)

/-- A NaN encoded (R63). -/
def encodeNaN (f : NFmt) (neg : Bool) : Nat × Word := if f.sp = 2 then (0, fNV) else (f.nanElem neg, 0)

/-- ±num·2^e/den encoded in a mode (R63). -/
def encodeFin (f : NFmt) (rm : Rnd) (neg : Bool) (num den : Nat) (e : Int) : Nat × Word :=
  if num = 0 then (if f.e = 0 then 0 else f.signOf neg, 0) else
  if neg && !f.s then (0, fNX) else
  if f.e = 0 then
    let (a, b) := scaleQ num den (e - f.bias)
    let (n, nx) := roundQuot rm neg a b
    f.finishInt neg n nx
  else f.finish rm neg (roundPrec rm neg f.m (1 - f.bias) num den e)

/-- mix of R66. -/
def srMix (h k : Nat) : Nat :=
  let rotl (x n : Nat) := (x * 2 ^ n + x / 2 ^ (32 - n)) % 2 ^ 32
  let k := k * 0xCC9E2D51 % 2 ^ 32
  let k := rotl k 15
  let k := k * 0x1B873593 % 2 ^ 32
  let h := rotl (Nat.xor h k) 13
  (h * 5 + 0xE6546B64) % 2 ^ 32

end NFmt

/-- srhash of R66. -/
def srhash (seed key e : Nat) : Nat :=
  let h := NFmt.srMix (NFmt.srMix (NFmt.srMix (seed % 2 ^ 32) (key % 2 ^ 32)) (key / 2 ^ 32 % 2 ^ 32)) (e % 2 ^ 32)
  let h := Nat.xor h 12
  let h := Nat.xor h (h / 2 ^ 16) * 0x85EBCA6B % 2 ^ 32
  let h := Nat.xor h (h / 2 ^ 13) * 0xC2B2AE35 % 2 ^ 32
  Nat.xor h (h / 2 ^ 16)

namespace NFmt

/-- Stochastic rounding of ±num·2^e/den (R66): the neighbour above with probability frac. Its mode is none of 0, 2 and 3, so
that an overflow under OV = 1 gives ±maxf (R63; DEDUCED: log 23). DESIGN CHOICE: a value beyond maxf on the grid continued there counts
as representable, so that no hash decides it, and overflows (log entry 65). -/
def stochFin (f : NFmt) (neg : Bool) (num den : Nat) (e : Int) (hash : Nat) : Nat × Word :=
  if num = 0 then (if f.e = 0 then 0 else f.signOf neg, 0) else
  if neg && !f.s then (0, fNX) else
  -- the quantum of the grid at the value, and the value in quanta
  let E := log2Q num den + e
  let q := if f.e = 0 then f.bias else max (E - f.m) (1 - f.bias - f.m)
  let (a, b) := scaleQ num den (e - q)
  let n := a / b
  let r := a % b
  if r = 0 then (if f.e = 0 then f.finishInt neg n false else f.finish .rtz neg ⟨n, q, false, false⟩) else
  -- for a negative value the neighbour lo is the larger magnitude
  let frac := if neg then (b - r) * 2 ^ 32 / b else r * 2 ^ 32 / b
  let hi := hash < frac
  let n := if hi then (if neg then n else n + 1) else (if neg then n + 1 else n)
  if f.e = 0 then f.finishInt neg n true
  else f.finish .rtz neg ⟨n, q, true, false⟩

/-- A value encoded in the mode, or stochastically with a hash when the format says so (R63, R66). -/
def encodeVal (f : NFmt) (rm : Rnd) (hash : Nat) (v : FV) (den : Nat) (de : Int) : Nat × Word :=
  match v with
  | .nan x => f.encodeNaN (decide (2 ^ 31 ≤ x))
  | .inf neg => f.encodeInf rm neg
  | .fin neg m e => if f.sr then f.stochFin neg m den (e - de) hash else f.encodeFin rm neg m den (e - de)

/-- Packs elements of the container's width from element 0 up (R64). -/
def pack (f : NFmt) (xs : List Nat) : Nat := xs.foldr (fun x acc => x % 2 ^ f.cbits + 2 ^ f.cbits * acc) 0
/-- Element j of a packed number (R64). -/
def elem (f : NFmt) (x j : Nat) : Nat := bitsOf x (f.cbits * j + f.cbits - 1) (f.cbits * j)

end NFmt

/-! ### Scales (R65) -/

/-- The E4M3 scale format: SP 1, bias 7. -/
def e4m3 : NFmt := ⟨false, false, 0, 2, 0, 1, 7, 3, 4, true⟩
/-- The MXFP8 preset's format (R67). -/
def mxfp8 : NFmt := NFmt.ofWord 0x01610739

/-- A scale of kind SK from its register or memory bits: a NaN scale is a NaN value. -/
def scaleVal (sk x : Nat) : FV :=
  match sk with
  | 0 => .fin false 1 0
  | 1 => let b := x % 256; if b = 255 then .nan fmt32.genNaN else .fin false 1 ((b : Int) - 127)
  | 2 => e4m3.decode (x % 256)
  | _ => fmt32.value x

/-- The exact product of an element and its scale: a NaN scale makes the generated NaN, a NaN element keeps its own;
∞ × 0 is the generated NaN (R65). -/
def scaled (el sc : FV) : FV :=
  match sc, el with
  | .nan _, _ => .nan fmt32.genNaN
  | _, .nan x => .nan x
  | sc, el => (el.mul sc).getD (.nan fmt32.genNaN)

/-- A value rounded to FP32. -/
def FV.round32 (rm : Rnd) : FV → Nat × Word
  | .nan x => (x, 0)
  | .inf neg => (fmt32.withSign neg fmt32.infBits, 0)
  | .fin neg m e => fmt32.round rm neg m 1 e

/-- NV for a signalling NaN operand (R59). -/
def signalling (x : Nat) : Word := if fmt32.isSNaN x then fNV else 0

/-- x / scale encoded into a format (R63, R65): under a zero scale +0 and NV if x is not 0; an infinite scale
divides a finite value to 0. Under a NaN scale the NaN pattern is the positive one (log entry 57). -/
def encodeQuot (f : NFmt) (rm : Rnd) (hash : Nat) (x : Nat) (sc : FV) : Nat × Word :=
  match sc with
  | .nan _ => f.encodeNaN false
  | .inf sneg => match fmt32.value x with
    | .nan y => f.encodeNaN (decide (2 ^ 31 ≤ y))
    | .inf _ => let r := f.encodeNaN false; (r.1, r.2 ||| fNV)
    | .fin neg _ _ => f.encodeVal rm hash (.fin (neg != sneg) 0 0) 1 0
  | .fin sneg sm se =>
    if sm = 0 then (0, match fmt32.value x with | .fin _ 0 _ => 0 | _ => fNV)
    else match fmt32.value x with
      | .nan y => f.encodeNaN (decide (2 ^ 31 ≤ y))
      | .inf neg => f.encodeInf rm (neg != sneg)
      | .fin neg m e => f.encodeVal rm hash (.fin (neg != sneg) m e) sm se

/-- An FP32 operand encoded under a scale, with NV for a signalling NaN among the two (R59, R63, R65). -/
def encodeScaled (f : NFmt) (rm : Rnd) (hash : Nat) (x : Nat) (sc : FV) : Nat × Word :=
  let (q, fl) := encodeQuot f rm hash x sc
  (q, fl ||| signalling x ||| (match sc with | .nan y => signalling y | _ => 0))

/-- The E8M0 scale byte of a magnitude (R65, R172): 127 for 0 and for what is not finite. -/
def e8m0Scale (f : NFmt) (mag : Nat) : Nat :=
  match fmt32.value mag with
  | .fin _ m e => if m = 0 then 127 else (max 0 (min 254 ((Nat.log2 m : Int) + e - f.emax + 127))).toNat
  | _ => 127

/-- The E4M3 scale byte rup(m / maxf), kept in 2^-9 to 448 (R65, R172); open within that range where maxf is 0 (log entry
57). -/
def e4m3Scale (f : NFmt) (mag : Nat) : Nat :=
  match fmt32.value mag with
  | .fin _ m e =>
    let (mm, me) := f.maxf
    if m = 0 then 1
    else max 1 (min 0x7E (if mm = 0 then Config.scaleOfZero mag else (e4m3.encodeFin .rup false m mm (e - me)).1))
  | _ => 1

/-- The FP32 scale rup(m / maxf) (R172); open where maxf is 0 (log entry 57). -/
def fp32Scale (f : NFmt) (mag : Nat) : Nat :=
  match fmt32.value mag with
  | .fin _ m e =>
    let (mm, me) := f.maxf
    if m = 0 then 0x3F800000 else if mm = 0 then Config.scaleOfZero mag % 2 ^ 32
    else (fmt32.round .rup false m mm (e - me)).1
  | _ => 0x3F800000

end Sys2Proof.Machine
end

