-- ==== Sys2Proof/Machine/Topology.lean ====
section
/-! DEFINITION. The fabric's shape and routes: the points of PG(2, q) and their neighbours (R372, R373), minimal paths and
Valiant candidates (R374), the choice of a path (R375), and which device a request can reach (R84, R379, R380). -/

namespace Sys2Proof.Machine

/-! ### The field (R372) -/

/-- The orders that a fabric may have. -/
def fabricOrders : List Nat := [2, 3, 4, 5, 7, 8, 9, 11, 13, 16, 17, 19, 23, 25, 27, 29, 31]

/-- Characteristic, degree, and the negated low coefficients of the reducing polynomial (x^k equals them). -/
def gfField (q : Nat) : Nat × Nat × List Nat :=
  match q with
  | 4 => (2, 2, [1, 1])
  | 8 => (2, 3, [1, 1, 0])
  | 9 => (3, 2, [2, 0])
  | 16 => (2, 4, [1, 1, 0, 0])
  | 25 => (5, 2, [3, 4])
  | 27 => (3, 3, [2, 1, 0])
  | p => (p, 1, [0])

/-- The coefficients of a code in base p. -/
def digits (p : Nat) : Nat → Nat → List Nat
  | 0, _ => []
  | k + 1, x => x % p :: digits p k (x / p)
/-- The code of coefficients. -/
def undigits (p : Nat) : List Nat → Nat
  | [] => 0
  | d :: ds => d + p * undigits p ds

/-- The sum of two elements. -/
def gfAdd (q a b : Nat) : Nat :=
  let (p, k, _) := gfField q
  undigits p (List.zipWith (fun x y => (x + y) % p) (digits p k a) (digits p k b))

/-- An element times x, reduced. -/
def gfShift (p : Nat) (red : List Nat) (as : List Nat) : List Nat :=
  let top := as.getLastD 0
  List.zipWith (fun x r => (x + top * r) % p) (0 :: as.dropLast) red

/-- The product of coefficients b (lowest first) with a, a multiplied by x at each step. -/
def gfMulAux (p : Nat) (red as : List Nat) : List Nat → List Nat
  | [] => as.map fun _ => 0
  | b :: bs => List.zipWith (fun x y => (b * x + y) % p) as (gfMulAux p red (gfShift p red as) bs)

/-- The product of two elements. -/
def gfMul (q a b : Nat) : Nat :=
  let (p, k, red) := gfField q
  if k = 1 then a * b % p else undigits p (gfMulAux p red (digits p k a) (digits p k b))

/-! ### Devices and ports (R372, R373) -/

/-- The devices of a fabric of order q; 1 when standalone. -/
def fabricN (q : Nat) : Nat := if q = 0 then 1 else q * q + q + 1

/-- The point of an index. -/
def pointOf (q n : Nat) : Nat × Nat × Nat :=
  if n = 0 then (0, 0, 1)
  else if n ≤ q then (0, 1, n - 1)
  else (1, (n - 1 - q) / q, (n - 1 - q) % q)

/-- Whether two points are orthogonal. -/
def orthogonal (q : Nat) (x y : Nat × Nat × Nat) : Bool :=
  gfAdd q (gfAdd q (gfMul q x.1 y.1) (gfMul q x.2.1 y.2.1)) (gfMul q x.2.2 y.2.2) = 0

/-- Whether two devices are neighbours. -/
def isNeighbour (q a b : Nat) : Bool := q ≠ 0 && a ≠ b && orthogonal q (pointOf q a) (pointOf q b)

/-- A device's neighbours in ascending order: the k-th is wired to port k. -/
def neighbours (q n : Nat) : List Nat := (List.range (fabricN q)).filter (isNeighbour q n)

/-- The common neighbour of two devices that are not neighbours: the point of their cross product. -/
def commonNeighbour (q a b : Nat) : Option Nat :=
  (List.range (fabricN q)).find? fun c => isNeighbour q a c && isNeighbour q c b

/-! ### Routes (R374) -/

/-- A device's membership as this device knows it. -/
def Fabric.member (f : Fabric) (d : Nat) : Member := tgetD f.members d .absent
/-- Whether a device takes part as an intermediate. -/
def Fabric.forwards (f : Fabric) (d : Nat) : Bool := f.member d == .member

/-- The minimal path from a device to another, as the devices after the first: none where its middle is fenced, absent or
still joining (R374, R380). -/
def minPath (f : Fabric) (a b : Nat) : Option (List Nat) :=
  if isNeighbour f.q a b then some [b] else
  match commonNeighbour f.q a b with
  | some c => if f.forwards c then some [c, b] else none
  | none => none

/-- The port towards a neighbour. -/
def Fabric.portTo (f : Fabric) (d : Nat) : Option Nat := (neighbours f.q f.index).findIdx? (· = d)
/-- A port. -/
def Fabric.port (f : Fabric) (k : Nat) : Port := tgetD f.ports k {}
/-- Whether a path's first port carries traffic (R373). -/
def Fabric.pathUp (f : Fabric) (path : List Nat) : Bool :=
  match path.head?.bind f.portTo with | some k => (f.port k).up | none => false

/-- Whether a value may be a Valiant candidate. -/
def candidateOk (f : Fabric) (d i : Nat) (have_ : List Nat) : Bool :=
  i ≠ f.index && i ≠ d && f.forwards i && !have_.contains i && (minPath f f.index i).isSome && (minPath f i d).isSome

/-- The Valiant candidates from j on, at most 8 (R374): `n` values of j are left. -/
def candidatesFrom (f : Fabric) (d j : Nat) (have_ : List Nat) : Nat → List Nat
  | 0 => have_
  | n + 1 =>
    if have_.length = 8 then have_ else
    let i := srhash f.seed.toNat (1024 * f.index + d) j % fabricN f.q
    candidatesFrom f d (j + 1) (if candidateOk f d i have_ then have_ ++ [i] else have_) n

/-- The Valiant candidates towards a destination. -/
def candidates (f : Fabric) (d : Nat) : List Nat := candidatesFrom f d 0 [] 256

/-- The path through a candidate. -/
def viaPath (f : Fabric) (d i : Nat) : List Nat := ((minPath f f.index i).getD []) ++ ((minPath f i d).getD [])

/-- The paths that the router table holds for a destination, the minimal one first, without those whose first port is down; to a
joining device, and from one, the direct link alone (R380). -/
def routes (f : Fabric) (d : Nat) : List (List Nat) :=
  (if f.member d == .joining || f.member f.index == .joining then (if isNeighbour f.q f.index d then [[d]] else [])
   else (minPath f f.index d).toList ++ (candidates f d).map (viaPath f d)).filter f.pathUp

/-- The product of R375 for a path: flits queued at its first port times its hops. -/
def pathCost (f : Fabric) (path : List Nat) : Nat :=
  (match path.head?.bind f.portTo with | some k => (f.port k).depth | none => 0) * path.length

/-- The path that the source chooses for a packet (R375): the earliest of the cheapest. -/
def choosePath (f : Fabric) (d : Nat) : Option (List Nat) :=
  (routes f d).foldl (fun best p => match best with
    | none => some p
    | some b => if pathCost f p < pathCost f b then some p else some b) none

/-- Whether an index names a device of the fabric (R84, R274). -/
def namesDevice (s : State) (dev : Nat) : Bool := dev < fabricN s.fabric.q

/-- Whether a new request can reach a device (R84, R374, R379, R380): a joining device, at either end, is reached over
direct links only. -/
def reachable (s : State) (dev : Nat) : Bool :=
  let f := s.fabric
  namesDevice s dev && (dev = f.index ||
    (!f.fencedSelf &&
      (if f.member dev == .joining || f.member f.index == .joining then
        (f.member dev == .joining || f.member dev == .member) && isNeighbour f.q f.index dev && f.pathUp [dev]
      else f.member dev == .member && !(routes f dev).isEmpty)))

/-- The flits that the links have carried since the last packet, an open number of each queue's (log entry 3); a mark clears at
half the threshold (R376). -/
def State.drainPorts (s : State) : State :=
  { s with
    fabric := { s.fabric with ports := s.fabric.ports.map fun (k, p) =>
      let d := p.depth - Config.freeNat (s.free + k) % (p.depth + 1)
      (k, { p with depth := d, cong := p.cong && s.fabric.thresh < 2 * d }) }
    free := s.free + 32 }

/-- A packet of one flit put into the output queue of a path's first port; above the threshold the port's peer is marked
congested, with a stall hint (R375, R376). -/
def State.queueFlit (s : State) (path : List Nat) : State :=
  match path.head?.bind s.fabric.portTo with
  | none => s
  | some k =>
    let p := s.fabric.port k
    let d := min 512 (p.depth + 1)
    let over_ := s.fabric.thresh < d
    let s := { s with fabric := { s.fabric with ports := tput s.fabric.ports k { p with depth := d, cong := p.cong || over_ } } }
    if over_ && !p.cong then s.emit (.stallHint p.peer) else s

/-- A message to another device, behind the header with the path that the source chose for its packet (R375); a fenced device
sends none (R379). -/
def State.sendTo (s : State) (dev : Nat) (o : Out) : State :=
  if dev = s.fabric.index then s.emit o
  else if s.fabric.fencedSelf then s
  else
    let s := s.drainPorts
    let path := (choosePath s.fabric dev).getD []
    ((s.emit (.header dev path)).emit o).queueFlit path

end Sys2Proof.Machine
end

