-- ==== Sys2Proof/Machine/Ops.lean ====
section
/-! DEFINITION. The named operations over registers and the parts of the state; the issue of an instruction: who
issues, who is enabled (R7, R22), what each lane's fate is (R9, R24); taking a fault (R24, R359, R360) and returning
from one (R362); program-counter flow and the check of a transfer (R113, R114); translation (R353, R354, R83, R84). -/

namespace Sys2Proof.Machine

/-- The result of a step. -/
abbrev Res := Host.Outcome State Fault Refusal

/-! ### Parts of the state -/

/-- The workgroup of a wave (waves are numbered workgroup × 32 + F1). -/
def wgOf (wave : Nat) : Nat := wave / 32
/-- The key of a launch: queue and sequence (R44). -/
def launchKey (queue seq : Nat) : Nat := queue * 2 ^ 64 + seq

namespace State

/-- A wave; an unknown one has retired. -/
def wave (s : State) (id : Nat) : Wave := tgetD s.waves id {}
/-- A state with a wave changed. -/
def modWave (s : State) (id : Nat) (f : Wave → Wave) : State := { s with waves := tput s.waves id (f (s.wave id)) }
/-- A core's state. -/
def core (s : State) (c : Nat) : CoreState := tgetD s.cores c {}
/-- A state with a core changed. -/
def modCore (s : State) (c : Nat) (f : CoreState → CoreState) : State := { s with cores := tput s.cores c (f (s.core c)) }
/-- A cluster's state. -/
def cluster (s : State) (c : Nat) : Cluster := tgetD s.clusters c {}
/-- A state with a cluster changed. -/
def modCluster (s : State) (c : Nat) (f : Cluster → Cluster) : State :=
  { s with clusters := tput s.clusters c (f (s.cluster c)) }
/-- A state with a workgroup changed. -/
def modWg (s : State) (id : Nat) (f : Workgroup → Workgroup) : State := { s with wgs := tmod s.wgs id f }
/-- A state with a gang changed. -/
def modGang (s : State) (id : Nat) (f : Gang → Gang) : State := { s with gangs := tmod s.gangs id f }
/-- A state with a context changed. -/
def modCtx (s : State) (id : Nat) (f : Context → Context) : State := { s with ctxs := tmod s.ctxs id f }
/-- A state with a queue changed. -/
def modQueue (s : State) (id : Nat) (f : Queue → Queue) : State := { s with queues := tmod s.queues id f }
/-- A state with a launch changed. -/
def modLaunch (s : State) (k : Nat) (f : Launch → Launch) : State := { s with launches := tmod s.launches k f }
/-- A new identifier and the state that has used it. -/
def newId (s : State) : Nat × State := (s.nextId, { s with nextId := s.nextId + 1 })
/-- The place in issue order of an operation without an identifier of its own: after each one numbered so far. -/
def issuePlace (s : State) : Nat := 2 * s.nextId - 1

end State

/-! ### Registers (R50 to R52) -/

namespace Wave

/-- Lane l of `v`n. -/
def vreg (w : Wave) (n l : Nat) : Word := tgetD w.v (n * 32 + l) 0
/-- A wave with lane l of `v`n written. -/
def setV (w : Wave) (n l : Nat) (x : Word) : Wave := { w with v := tsetD w.v (n * 32 + l) 0 x }
/-- The pair `v`n, `v`n+1 of lane l (R51). -/
def vreg64 (w : Wave) (n l : Nat) : DWord := w.vreg (n + 1) l ++ w.vreg n l
/-- A wave with the pair of lane l written. -/
def setV64 (w : Wave) (n l : Nat) (x : DWord) : Wave := (w.setV n l (x.setWidth 32)).setV (n + 1) l (x.extractLsb' 32 32)
/-- `s`n. -/
def sreg (w : Wave) (n : Nat) : DWord := tgetD w.s n 0
/-- A wave with `s`n written. -/
def setS (w : Wave) (n : Nat) (x : DWord) : Wave := { w with s := tsetD w.s n 0 x }
/-- `p`n; `p15` reads as all ones (R52). -/
def preg (w : Wave) (n : Nat) : LaneMask := if n = 15 then 0xFFFFFFFF#32 else tgetD w.p n 0
/-- A wave with the bits of `m` of `p`n written from `x`; a write to `p15` is discarded (R52). -/
def setP (w : Wave) (n : Nat) (m x : LaneMask) : Wave :=
  if n = 15 then w else { w with p := tsetD w.p n 0 ((w.preg n &&& ~~~m) ||| (x &&& m)) }
/-- `f`n. -/
def freg (w : Wave) (n : Nat) : Word := tgetD w.f n 0
/-- A wave with `f`n written. -/
def setF (w : Wave) (n : Nat) (x : Word) : Wave := { w with f := tsetD w.f n 0 x }
/-- The PC of a lane (R22). -/
def pc (w : Wave) (l : Nat) : DWord := tgetD w.vpc l exitedPc
/-- A wave with a lane's PC set. -/
def setPc (w : Wave) (l : Nat) (x : DWord) : Wave := { w with vpc := tsetD w.vpc l exitedPc x }
/-- The lanes that have not exited (R22). -/
def liveMask (w : Wave) : LaneMask := maskOf fun l => w.pc l != exitedPc
/-- The issue address: the lowest PC of a live lane (R22). -/
def issuePc (w : Wave) : DWord := allLanes.foldl (fun a l => if (w.pc l).toNat < a.toNat then w.pc l else a) exitedPc
/-- The issuing lanes: the live lanes at the issue address (R22). -/
def issuingMask (w : Wave) : LaneMask := maskOf fun l => w.pc l == w.issuePc && w.pc l != exitedPc
/-- The guard's mask (R7, R120). -/
def guardMask (w : Wave) (g : Guard) : LaneMask := if g.neg then ~~~(w.preg g.pr.toNat) else w.preg g.pr.toNat
/-- A wave with sticky flags raised (R59). -/
def raise (w : Wave) (f : Word) : Wave := { w with fflags := w.fflags ||| f }

end Wave

/-! ### The issue -/

/-- What an issuing instruction works with: the wave, its workgroup, launch, header and context, the issue address,
and the issuing, enabled, and enabled non-helper lanes (R7, R22, R29). -/
structure Env where
  id      : Nat
  w       : Wave
  wgId    : Nat
  wg      : Workgroup
  L       : Launch
  H       : Header
  det     : Bool
  ctx     : Nat
  c       : Context
  cluster : Nat
  pc      : DWord
  issuing : LaneMask
  enabled : LaneMask
  active  : LaneMask
deriving Repr

/-- Whether a range comes back by a recompute graph to which a launch belongs: it is the graph, or was submitted by its walker
(R352). -/
def rebuiltBy (s : State) (L : Launch) (r : RangeRec) : Bool :=
  r.state == .returning && r.graph != 0 &&
  ((bitOf L.flags 1 && L.target == r.graph) ||
   match L.parent.bind fun k => tget? s.launches k with | some G => G.target == r.graph | none => false)

/-- A context as the accesses of a launch see it: the ranges that the launch itself helps to rebuild do not stop it (R352). -/
def Context.seenBy (c : Context) (s : State) (L : Launch) : Context :=
  { c with ranges := tfilter c.ranges fun _ r => !rebuiltBy s L r }
/-- A context as the accesses of a launch, if there is one, see it. -/
def Context.seen (c : Context) (s : State) (L : Option Launch) : Context :=
  match L with | some L => c.seenBy s L | none => c

/-- The issue of the current wave under a guard. -/
def State.env? (s : State) (g : Guard) : Option Env := do
  let w ← tget? s.waves s.cur
  let wg ← tget? s.wgs (wgOf s.cur)
  let L ← tget? s.launches wg.launch
  let H ← L.header
  let c ← tget? s.ctxs L.ctx
  let q ← tget? s.queues L.queue
  let iss := w.issuingMask
  if iss = 0 then none else
  let en := iss &&& w.guardMask g
  some { id := s.cur, w, wgId := wgOf s.cur, wg, L, H, det := q.det, ctx := L.ctx, c := c.seenBy s L, cluster := wg.core / 16,
         pc := w.issuePc, issuing := iss, enabled := en, active := en &&& ~~~w.helpers }

/-- Sequential flow (R113). -/
def nextPc (pc : DWord) : DWord :=
  if (pc &&& 7#64) < 4#64 then pc + 1 else (pc &&& ~~~(63#64)) + 64

/-- What becomes of an enabled lane: it advances, moves to a PC, keeps its PC, exits, or faults (R9, R24). -/
inductive Fate where
  | adv
  | goto (pc : DWord)
  | stay
  | fault (code : Byte) (addr : DWord)
deriving DecidableEq, Repr

/-! ### Work identifiers (R19, R21) -/

/-- Field k of a workgroup's identifier above F1, from its linear index and the counts c2 to c5. -/
def wgFields (cs : List Nat) (i : Nat) : List Nat :=
  let c2 := max 1 (cs.getD 1 1); let c3 := max 1 (cs.getD 2 1); let c4 := max 1 (cs.getD 3 1)
  [i % c2, i / c2 % c3, i / c2 / c3 % c4, i / c2 / c3 / c4]

/-- The work identifier of a lane (R19, R21). -/
def workId (H : Header) (cs : List Nat) (i f1 l : Nat) : Nat :=
  let fs := l :: f1 :: wgFields cs i
  ((fs.zip H.widths).foldl (fun (acc : Nat × Nat) (f, w) => (acc.1 + f * 2 ^ acc.2, acc.2 + w)) (0, 0)).1

/-- The identifier of a lane of an issue. -/
def Env.wid (e : Env) (l : Nat) : DWord := BitVec.ofNat 64 (workId e.H e.L.counts e.wg.index (e.id % 32) l)

/-! ### Taking a fault -/

/-- The 64 bytes of a fault record (R360). -/
def faultBytes (code : Byte) (source flags : Nat) (lanes : LaneMask) (addr pc : DWord) (seq : Nat) (wid : DWord)
    (queue core token : Nat) (prog : DWord) (device context : Nat) : List Byte :=
  code :: leBytes 1 source ++ leBytes 2 flags ++ leBytes 4 lanes.toNat ++ leBytes 8 addr.toNat ++ leBytes 8 pc.toNat ++
  leBytes 8 seq ++ leBytes 8 wid.toNat ++ leBytes 2 queue ++ leBytes 2 core ++ leBytes 4 token ++
  leBytes 8 prog.toNat ++ leBytes 2 device ++ leBytes 2 context ++ leBytes 4 0

/-- Whether a fault code's address may be a remote VA, which sets REMOTE (R358, R360). -/
def remoteCode (code : Byte) : Bool := [0x10#8, 0x11#8, 0x16#8, 0x40#8, 0x41#8, 0x70#8].contains code

/-- Whether a fault's address is a remote VA: of an access to `.glb` memory, not of a fetch or a scratch address (`near`). -/
def remoteFault (near : Bool) (code : Byte) (addr : DWord) : Bool := !near && remoteCode code && addr.getLsbD 63

/-- The flags of a record: REMOTE, FETCH, WRITE, TOKEN (R360). -/
def recordFlags (remote fetch write token : Bool) : Nat :=
  (if remote then 1 else 0) + (if fetch then 2 else 0) + (if write then 4 else 0) +
  (if token then 8 else 0)

/-- The device a remote address names (R84). -/
def remoteDev (va : DWord) : Nat := (va.extractLsb' 53 10).toNat
/-- The offset of a remote address (R84). -/
def remoteOff (va : DWord) : Nat := (va.extractLsb' 0 53).toNat

/-- The coordinator that a tide group's identifier names (R274). -/
def tideCoord (gid : Word) : Nat := gid.toNat / 2 ^ 22

/-- A failure of this device's contribution to a group: the first one makes the record FAILED and sends NO to the
coordinator (R278, R280, R282, R284). -/
def State.markFailed (s : State) (gid : Word) (onlyOpen : Bool) (code dev : Nat) (fc : Byte) : State :=
  match tget? s.tides gid.toNat with
  | none => s
  | some r =>
    if r.state == .opened || (r.state == .closed && !onlyOpen) then
      { s with tides := tput s.tides gid.toNat { r with state := .failed, code, dev, fc } }.sendTo
        (tideCoord gid) (.tide (tideCoord gid) gid 2 [code, fc.toNat, dev])
    else s

/-- A fault delivered for a wave fails every contribution that the wave is part of (R280). -/
def State.failTides (s : State) (id : Nat) (code : Byte) : State :=
  (s.wave id).tides.foldl (fun s gid => s.markFailed gid true 1 s.fabric.index code) s

/-- Taking a lane fault: one record for the wave's lanes `lanes` at `pc`, with a token, joins the context's fault
records, and the wave stops (R24, R359, R360, R362). -/
def State.laneFault (s : State) (id : Nat) (source : Nat) (lanes : LaneMask) (code : Byte) (addr pc : DWord)
    (fetch write emit : Bool) (reports : List Report) (near : Bool := fetch) : State :=
  match tget? s.wgs (wgOf id) with
  | none => s
  | some wg =>
  match tget? s.launches wg.launch with
  | none => s
  | some L =>
    let (tok, s) := s.newId
    let w := s.wave id
    let wid : DWord := match L.header with
      | some H => BitVec.ofNat 64 (workId H L.counts wg.index (id % 32) (lowLane lanes))
      | none => 0
    let rem := remoteFault near code addr
    let prog := (reports.head?.map (·.prog)).getD (w.done.setWidth 64)
    let bytes := faultBytes code source (recordFlags rem fetch write true) lanes addr pc L.seq wid L.queue wg.core
      tok prog (if rem then remoteDev addr else 0) 0
    let s := (s.modWave id fun w => { w with
      status := .stopped, tokens := w.tokens ++ [tok], prog := prog, redo := false, marked := none
      moored := 0 }).failTides id code
    s.modCtx L.ctx fun c => { c with
      faults := c.faults ++ [{ bytes, code, wave := some id }]
      tokens := tput c.tokens tok ⟨.lanes id lanes code pc emit reports, code, addr, write⟩ }

/-- The faulting lanes of an issue grouped by code and 64 KiB granule, lowest lane first (R360). -/
def groupFaults (fs : List (Nat × Byte × DWord)) : List (LaneMask × Byte × DWord) :=
  fs.foldl (fun acc (l, code, addr) =>
    if acc.any fun (_, c, a) => c = code ∧ a.toNat / 65536 = addr.toNat / 65536 then
      acc.map fun (m, c, a) => if c = code ∧ a.toNat / 65536 = addr.toNat / 65536 then (m ||| laneBit l, c, a) else (m, c, a)
    else acc ++ [(laneBit l, code, addr)]) []

/-- Every faulting lane of an issue taken (R24): the records in ascending order of their lowest lane. -/
def State.takeFaults (s : State) (id : Nat) (pc : DWord) (write : Bool) (fs : List (Nat × Byte × DWord))
    (near : Bool := false) : State :=
  (groupFaults fs).foldl (fun s (m, code, addr) => s.laneFault id 0 m code addr pc false write false [] near) s

/-! ### Pins (R202, R348) -/

/-- An increment of a completion pin deferred to where pins are kept: see `Sync`. -/
def pinCluster (p : Nat) : Nat := bitsOf p 13 8

/-! ### The end of an issue -/

/-- The wave after its lanes' fates: disabled lanes advance, each enabled lane as its fate says (R9). -/
def applyFates (w : Wave) (issuing enabled : LaneMask) (pc : DWord) (fate : Nat → Fate) : Wave :=
  (lanesOf issuing).foldl (fun w l =>
    if enabled.getLsbD l then
      match fate l with
      | .adv => w.setPc l (nextPc pc)
      | .goto p => w.setPc l p
      | .stay | .fault _ _ => w
    else w.setPc l (nextPc pc)) w

/-- The end of an issue: lanes advance or keep their PC, faulting lanes are taken and stop the wave, and a wave that
waited for this instruction is ready again (R9, R24); `near`: no fault's address is a remote VA. -/
def finish (e : Env) (s : State) (fate : Nat → Fate) (write : Bool := false) (near : Bool := false) : Res :=
  let s := s.modWave e.id fun w =>
    let w := applyFates w e.issuing e.enabled e.pc fate
    { w with status := match w.status with | .waiting _ => .ready | st => st }
  let fs := (lanesOf e.enabled).filterMap fun l =>
    match fate l with | .fault c a => some (l, c, a) | _ => none
  .next (s.takeFaults e.id e.pc write fs near)

/-- The end of an instruction with a progress index (R364): with faults the lanes done, those of the issue that a RETRY
continues among them, stand in the records; without, an index that a RETRY continues is cleared. -/
def withProgress (e : Env) (s : State) (lanes : LaneMask) (faults : Bool) (k : State → Res) : Res :=
  if faults then
    match k (s.modWave e.id fun w => { w with done := lanes ||| (if w.redo then w.prog.setWidth 32 else 0) }) with
    | .next s => .next (s.modWave e.id fun w => { w with done := 0 })
    | r => r
  else k (s.modWave e.id fun w => { w with done := 0, prog := if w.redo then 0 else w.prog, redo := false })

/-- Every issuing lane advances. -/
def done (e : Env) (s : State) : Res := finish e s fun _ => .adv
/-- Every enabled lane faults with a code and address. -/
def faultAll (e : Env) (s : State) (code : Byte) (addr : DWord := 0) (write : Bool := false) : Res :=
  finish e s (fun _ => .fault code addr) write
/-- The wave waits, and the instruction is tried again when the wave next issues (R28, R366). -/
def block (e : Env) (s : State) : Res :=
  .next (s.modWave e.id fun w => { w with status := .waiting .retry })

/-- An issue of the current wave under a guard; without a live wave there is none to run. -/
def issue (g : Guard) (s : State) (k : Env → Res) : Res :=
  match s.env? g with
  | some e => k e
  | none => .fault .noIssuingWave

/-- The guard that every encoding error is taken under: no lane is disabled (R116, R120). -/
def noGuard : Guard := ⟨15, false⟩

/-- A check of R116 that fails: every issuing lane faults, whatever the guard. -/
def illegalIssue (e : Env) (s : State) (code : Byte) : Res :=
  faultAll { e with enabled := e.issuing } s code

/-- A wave-level instruction (R199): without an enabled lane (without an active one when `act`) the issuing lanes
advance and nothing else happens. -/
def waveLevel (g : Guard) (act : Bool) (s : State) (k : Env → Res) : Res :=
  issue g s fun e => if (if act then e.active else e.enabled) = 0 then done e s else k e

/-! ### Register checks at issue (R51, R116 check 5) -/

/-- `n` vector registers from `v`d up exist (R51, R119). -/
def Env.vOk (e : Env) (d n : Nat) : Bool := d + n ≤ e.H.vregs
/-- A vector operand of a 32-bit or, when `wide`, 64-bit type: in range, and even when wide (R51). -/
def Env.vTy (e : Env) (wide : Bool) (n : Nat) : Bool := if wide then n % 2 = 0 && e.vOk n 2 else e.vOk n 1

/-! ### Lines that are held or spoiled -/

/-- The line of a key, as tide locks name it (R286). -/
def lineNo (k : Nat) : Nat := k / 64
/-- Whether a line of the bytes at a key is held: by a tide's apply (R286), or by the write of a core other than `own` that has
locked its replicas (R99). -/
def heldFor (s : State) (own : Option Nat) (k n : Nat) : Bool :=
  n ≠ 0 && [lineNo k, lineNo (k + n - 1)].any fun l => (tget? s.locked l).isSome ||
    match tget? s.replicas l with | some c => own != some c | none => false
/-- Whether a line of the bytes at a key is held against every access. -/
def tideLocked (s : State) (k n : Nat) : Bool := heldFor s none k n

/-- The address that stands for a wait on a line that is held, where an error 0 waits: no range lies there. -/
def heldAddr : DWord := 0xFFFFFFFFFFFFFFFF#64

/-- Whether a key's line holds data that cannot be corrected (R391). -/
def badLine (s : State) (k : Nat) : Bool := s.sys.bad.contains (k / 64)

/-! ### Translation (R353, R354) -/

/-- What an access needs of a page (R354). -/
inductive Need where
  | read | write | both | fetch
deriving DecidableEq, Repr

/-- A leaf entry's flags and the physical address it gives a VA. -/
structure Page where
  key   : Nat
  host  : Bool
  repl  : Bool
  x     : Bool
  w     : Bool
  r     : Bool
deriving DecidableEq, Repr

/-- Whether a table entry is malformed at a level (R354). R83 lets a page of either kind be replicated; a host page with REPL is
malformed here, as R354 has it (DESIGN CHOICE, log entry 65). -/
def badEntry (level : Nat) (x : Nat) : Bool :=
  let leaf := bitOf x 5
  let host := bitOf x 60
  let addr := bitsOf x 55 12 * 4096
  bitsOf x 63 62 ≠ 0 || bitsOf x 59 56 ≠ 0 || bitsOf x 11 6 ≠ 0 || bitOf x 1 ||
  (leaf && level = 3) || (!leaf && level = 0) ||
  (bitOf x 61 && (host || !leaf)) || (host && !leaf) ||
  (!host && 2 ^ 40 ≤ addr) ||
  (leaf && addr % (match level with | 0 => 2 ^ 16 | 1 => 2 ^ 21 | _ => 2 ^ 29) ≠ 0)

/-- The index of a VA at a level (R353). -/
def walkIndex (level va : Nat) : Nat :=
  match level with
  | 3 => bitsOf va 56 41 | 2 => bitsOf va 40 29 | 1 => bitsOf va 28 21 | _ => bitsOf va 20 16

/-- The page of a leaf entry for a VA. -/
def leafPage (level x va : Nat) : Page :=
  let size := match level with | 0 => 2 ^ 16 | 1 => 2 ^ 21 | _ => 2 ^ 29
  let a := bitsOf x 55 12 * 4096 + va % size
  { key := if bitOf x 60 then hostKey a else devKey a, host := bitOf x 60, repl := bitOf x 61,
    x := bitOf x 4, w := bitOf x 3, r := bitOf x 2 }

/-- The walk from a table at a level down (R353, R354): a page, or fault 0x10 or 0x70; 0x40 for an entry whose data cannot be
corrected (R15). -/
def walkFrom (s : State) (table va : Nat) : Nat → Except Byte Page
  | 0 =>
    let k := devKey (table + 8 * walkIndex 0 va)
    let x := s.natAt k 8
    if badLine s k then .error 0x40
    else if !bitOf x 0 then .error 0x10 else if badEntry 0 x then .error 0x70 else .ok (leafPage 0 x va)
  | level + 1 =>
    let k := devKey (table + 8 * walkIndex (level + 1) va)
    let x := s.natAt k 8
    if badLine s k then .error 0x40
    else if !bitOf x 0 then .error 0x10
    else if badEntry (level + 1) x then .error 0x70
    else if bitOf x 5 then .ok (leafPage (level + 1) x va)
    else walkFrom s (bitsOf x 55 12 * 4096) va level

/-- The walk of a context's tables for a VA below 2^57. -/
def walk (s : State) (c : Context) (va : Nat) : Except Byte Page := walkFrom s c.ptroot va 3

/-- The key of a TLB entry: context and 64 KiB granule (R355). -/
def tlbKey (ctx va : Nat) : Nat := ctx * 2 ^ 48 + va / 65536
/-- A page entry as a TLB holds it: the granule's base and flags. -/
def Page.pack (p : Page) (va : Nat) : DWord :=
  BitVec.ofNat 64 ((p.key - va % 65536) / 65536 * 32 + (if p.host then 16 else 0) + (if p.repl then 8 else 0) +
    (if p.x then 4 else 0) + (if p.w then 2 else 0) + (if p.r then 1 else 0))
/-- The page of a TLB entry for a VA. -/
def unpackPage (x : DWord) (va : Nat) : Page :=
  let n := x.toNat
  { key := n / 32 % 2 ^ 47 * 65536 + va % 65536, host := bitOf n 4, repl := bitOf n 3, x := bitOf n 2, w := bitOf n 1, r := bitOf n 0 }

/-- Whether a page permits an access (R354). -/
def Page.permits (p : Page) : Need → Bool
  | .read => p.r | .write => p.w | .both => p.r && p.w | .fetch => p.x

/-- Whether an access meets a range that firmware has reclaimed, or writes one whose outward copy runs (R352). -/
def reclaimed (c : Context) (va : Nat) (need : Need) : Bool :=
  c.ranges.any fun (b, r) => b ≤ va && va < b + r.len &&
    (match r.state with
     | .outward => need == .write || need == .both
     | _ => true)

/-- A local VA translated for an access, through the core's TLB where it holds an entry (R355, R356). The error 0 is
the fault that firmware absorbs (R352): the access waits. -/
def translate (s : State) (core : Option Nat) (ctx : Nat) (c : Context) (va : Nat) (need : Need) : Except Byte Page :=
  if reclaimed c va need then .error 0 else
  let p : Except Byte Page := match core.bind fun k => tget? (s.core k).tlb (tlbKey ctx va) with
    | some x => .ok (unpackPage x va)
    | none => walk s c va
  match p with
  | .error f => .error f
  | .ok p => if p.permits need then .ok p else .error 0x11

/-- Whether a VA is a local global address: bits [63:57] are 0 (R83). -/
def isLocalVa (va : DWord) : Bool := va.toNat < 2 ^ 57

/-- The export entry of this device for an importer: the exporting context and the entry (R272, R331). -/
def findExport (s : State) (dev ctx : Nat) : Option (Nat × Context × Export) :=
  s.ctxs.findSome? fun (k, c) => (c.table.find? fun x => x.dev = dev ∧ x.ctx = ctx).map fun x => (k, c, x)

/-- Whether an export entry permits an access (R331). -/
def Export.permits (x : Export) : Need → Bool
  | .read => x.perm.getLsbD 0 | .write => x.perm.getLsbD 1 | .both => x.perm.getLsbD 2 | .fetch => false

/-- Whether an export window holds `size` bytes at an offset and permits the access; R188's operations need ATOMIC (R331, R358). -/
def Export.allows (x : Export) (off size : Nat) (need : Need) (atomic : Bool) : Bool :=
  off + size ≤ x.len && (if atomic then x.permits .both else x.permits need)

/-- A remote request translated at this device as its target (R358). -/
def translateExport (s : State) (dev ctx off size : Nat) (need : Need) (atomic : Bool) : Except Byte (Nat × Page) :=
  match findExport s dev ctx with
  | none => .error 0x16
  | some (k, c, x) =>
    if !x.allows off size need atomic then .error 0x11 else
    match translate s none k c ((x.base + off) % 2 ^ 57) need with
    | .error f => .error f
    | .ok p => .ok (k, p)

end Sys2Proof.Machine
end

