-- ==== Sys2Proof/Machine/Flags.lean ====
section
/-! DEFINITION. How flags reach `sr.fflags` (R59): each lane's or element's flags are gathered, and those of enabled
lanes that are not helpers are raised when the instruction completes. -/

namespace Sys2Proof.Machine

/-- Results of elements with their flags gathered. -/
def gatherFlags (rs : List (Nat × Word)) : List Nat × Word := (rs.map (·.1), rs.foldl (fun f r => f ||| r.2) 0)

/-- The flags that a lane's result raises: none for a helper (R59). -/
def laneFlags (active : LaneMask) (l : Nat) (f : Word) : Word := if active.getLsbD l then f else 0

/-- Flags of one result that stands for the whole wave: raised when some enabled lane is not a helper. -/
def waveFlags (active : LaneMask) (f : Word) : Word := if active = 0 then 0 else f

end Sys2Proof.Machine
end

