-- ==== Sys2Proof/Machine/Operands.lean ====
section
/-! DEFINITION. The operand forms of the ALU class (R51, R52, R121 to R123, R151): reading A, B and C per lane or
once in the scalar form, elements of packed types, writing the result; predicate results (R158); the effective
address of the memory class (R126). -/

namespace Sys2Proof.Machine

/-! ### Elements -/

/-- The elements of a value, element 0 first (R51). -/
def elemsOf (ty : AluTy) (x : Nat) : List Nat :=
  (List.range ty.elemCount).map fun k => bitsOf x (ty.elemWidth * k + ty.elemWidth - 1) (ty.elemWidth * k)
/-- The value of its elements. -/
def joinElems (ty : AluTy) (xs : List Nat) : Nat := xs.foldr (fun x acc => x % 2 ^ ty.elemWidth + 2 ^ ty.elemWidth * acc) 0

/-- An operation applied to each element of up to three operands (R151). -/
def perElem (ty : AluTy) (f : Nat → Nat → Nat → Nat × Word) (a b c : Nat) : Nat × Word :=
  let bs := elemsOf ty b
  let cs := elemsOf ty c
  let (xs, fl) := gatherFlags ((elemsOf ty a).zipIdx.map fun (x, k) => f x (bs.getD k 0) (cs.getD k 0))
  (joinElems ty xs, fl)

/-! ### Reading operands -/

/-- A register operand of a lane: a `v` register or pair, or an `s` register in the scalar form (R52, R151). -/
def readReg (w : Wave) (sc wide : Bool) (n l : Nat) : Nat :=
  if sc then (if wide then (w.sreg n).toNat else ((w.sreg n).setWidth 32).toNat)
  else if wide then (w.vreg64 n l).toNat else (w.vreg n l).toNat

/-- Operand B from an immediate (R123); a signalling FP32 one that widens to f64 is quieted without a flag (log entry 57). -/
def immB (ty : AluTy) (wide : Bool) (w : Word) : Nat :=
  if !wide then w.toNat else
  match ty with
  | .i64 => (w.signExtend 64).toNat
  | .f64 => (fmt32.convert fmt64 .rne w.toNat).1
  | _ => w.toNat

/-- Operand B of a lane, `wide` when the instruction reads 64 bits of it. -/
def readB (w : Wave) (ty : AluTy) (wide : Bool) (b : SrcB) (l : Nat) : Nat :=
  match b with
  | .v n => readReg w false wide n.toNat l
  | .s n => readReg w true wide n.toNat l
  | .imm x => immB ty wide x

/-- The registers an ALU instruction touches in vector form: for D, A, B and C, whether each is a `v` operand and
whether it is a pair (R51). -/
structure Widths where
  d : Option Bool
  a : Option Bool
  b : Option Bool
  c : Option Bool
deriving DecidableEq, Repr

/-- The same width for the operands a form has: D and A, and B and C where used. -/
def tyWidths (ty : AluTy) (b c : Bool) : Widths :=
  ⟨some ty.is64, some ty.is64, if b then some ty.is64 else none, if c then some ty.is64 else none⟩

/-- The vector operands exist and pairs are even (R51). -/
def Env.regsOk (e : Env) (o : Alu) (W : Widths) : Bool :=
  let ok (w : Option Bool) (n : BitVec 8) := match w with | some wide => e.vTy wide n.toNat | none => true
  let bOk := match o.b with | .v n => ok W.b n | _ => true
  if o.sc then true else ok W.d o.d && ok W.a o.a && bOk && ok W.c o.c

/-- A 32-bit result as an `s` register takes it (R52). -/
def extS (ty : AluTy) (x : Nat) : DWord :=
  if ty.is64 then BitVec.ofNat 64 x
  else if ty.signed then (BitVec.ofNat 32 x).signExtend 64 else (BitVec.ofNat 32 x).setWidth 64

/-- The wave with a result written for a lane (R51), or once to `s`D (R52). -/
def writeD (w : Wave) (ty : AluTy) (sc wide : Bool) (d l : Nat) (x : Nat) : Wave :=
  if sc then w.setS d (if wide then BitVec.ofNat 64 x else extS ty x)
  else if wide then w.setV64 d l (BitVec.ofNat 64 x) else w.setV d l (BitVec.ofNat 32 x)

/-- The lanes an ALU instruction computes: the enabled ones, or one pass in the scalar form (R151). -/
def Env.passes (e : Env) (sc : Bool) : List Nat :=
  if sc then (if e.enabled = 0 then [] else [lowLane e.enabled]) else lanesOf e.enabled

/-- An ALU-class instruction: for each pass, `f` of the whole operands A, B and C, written to D as type `dty` (R151).
Operands are read at issue (R134). -/
def aluWith (o : Alu) (dty : AluTy) (W : Widths) (f : Nat → Nat → Nat → Nat × Word) (s : State) : Res :=
  issue o.g s fun e =>
    if !e.regsOk o W then illegalIssue e s 0x01 else
    let r (w : Option Bool) (n : BitVec 8) (l : Nat) := readReg e.w o.sc (w.getD false) n.toNat l
    let w := (e.passes o.sc).foldl (fun w l =>
      let (x, fl) := f (r W.a o.a l) (readB e.w o.ty (W.b.getD false) o.b l) (r W.c o.c l)
      (writeD w dty o.sc (W.d.getD false) o.d.toNat l x).raise
        (if o.sc then waveFlags e.active fl else laneFlags e.active l fl)) e.w
    done e (s.modWave e.id fun _ => w)

/-- An ALU-class instruction that acts per element of one type (R151). -/
def aluElem (o : Alu) (b c : Bool) (f : Nat → Nat → Nat → Nat × Word) (s : State) : Res :=
  aluWith o o.ty (tyWidths o.ty b c) (perElem o.ty f) s

/-- The per-lane bit of a comparison combined with `pC` and written to `pD` for enabled lanes (R158). -/
def combineBit (cmb : Combine) (old new : Bool) : Bool :=
  match cmb with | .none => new | .and => old && new | .or => old || new | .xor => old != new

/-- A comparison of A and B per enabled lane into `pD` (R158, R166). -/
def aluCmp (o : Alu) (cmb : Combine) (f : Nat → Nat → Bool × Word) (s : State) : Res :=
  issue o.g s fun e =>
    let wide := o.ty.is64
    if !e.regsOk o ⟨none, some wide, some wide, none⟩ then illegalIssue e s 0x01 else
    let res (l : Nat) := f (readReg e.w false wide o.a.toNat l) (readB e.w o.ty wide o.b l)
    let bits := maskOf fun l => combineBit cmb ((e.w.preg o.c.toNat).getLsbD l) (res l).1
    let fl := (lanesOf e.enabled).foldl (fun a l => a ||| laneFlags e.active l (res l).2) 0
    done e (s.modWave e.id fun w => (w.setP o.d.toNat e.enabled bits).raise fl)

/-! ### Effective addresses (R126) -/

/-- The sum of R126 for a lane: base, scaled index and signed offset, modulo 2^64. -/
def effAddr (w : Wave) (base : Option (BitVec 8)) (index : Option (BitVec 8 × BitVec 2)) (off : Word) (l : Nat) : DWord :=
  (match base with | some a => w.sreg a.toNat | none => 0) +
  (match index with | some (b, sc) => ((w.vreg b.toNat l).signExtend 64) <<< sc.toNat | none => 0) + off.signExtend 64

end Sys2Proof.Machine
end

