-- ==== Sys2Proof/Machine/Tensor.lean ====
section
/-! DEFINITION. Tensor layout records and boxes (R214 to R216, R221): which bits of the tensor and of the dense image
each box element occupies, and which chunk it belongs to (R220). -/

namespace Sys2Proof.Machine

/-- The element width in bits of an ew code (R214). -/
def ewBits (ew : Nat) : Nat := match ew with | 0 => 4 | 1 => 6 | 2 => 8 | 3 => 16 | 4 => 32 | _ => 64
/-- Elements per granule g (R216). -/
def granElems (ew : Nat) : Nat := match ew with | 0 => 8 | 1 => 4 | 2 => 4 | 3 => 2 | _ => 1
/-- Bytes per granule G (R216). -/
def granBytes (ew : Nat) : Nat := match ew with | 0 => 4 | 1 => 3 | 5 => 8 | _ => 4

/-- The fields of a tensor layout record (R214). -/
def tensorOf (r : List Byte) : Tensor :=
  let rank := leAt r 0x08 1
  { base := BitVec.ofNat 64 (leAt r 0 8), rank, ew := leAt r 0x09 1,
    dims := (List.range 5).map fun d => leAt r (0x10 + 4 * d) 4
    strs := 0 :: (List.range 4).map fun d => leAt r (0x24 + 4 * d) 4
    box := (List.range 5).map fun d => leAt r (0x34 + d) 1 }

/-- The record's reserved bytes are nonzero (R214): fault 0x02. -/
def tensorReserved (r : List Byte) : Bool := leAt r 0x0A 6 ≠ 0 || leAt r 0x39 7 ≠ 0

namespace Tensor

/-- Extent B of the box along a dimension (R216). -/
def ext (t : Tensor) (d : Nat) : Nat := if d < t.rank then t.box.getD d 0 + 1 else 1
/-- The record's values break R214: fault 0x01. -/
def bad (t : Tensor) : Bool :=
  t.rank = 0 || 5 < t.rank || 5 < t.ew ||
  (List.range 5).any fun d => if d < t.rank then t.dims.getD d 0 = 0 else t.box.getD d 0 ≠ 0
/-- Elements of the box. -/
def count (t : Tensor) : Nat := (List.range 5).foldl (fun n d => n * t.ext d) 1
/-- Bytes of the plain dense image (R215). -/
def bytes (t : Tensor) : Nat := (t.count * ewBits t.ew + 7) / 8
/-- The transposed form is refused (R216): fault 0x01. -/
def badTr (t : Tensor) : Bool := t.rank < 2 || t.ext 0 % granElems t.ew ≠ 0
/-- The sub-byte rule of R215 fails for an origin: fault 0x12. -/
def misOrigin (t : Tensor) (o0 : Int) : Bool :=
  let m : Nat := match t.ew with | 0 => 2 | 1 => 4 | _ => 1
  t.ext 0 % m ≠ 0 || o0 % (m : Int) ≠ 0

/-- The box coordinates of the n-th element, dimension 0 first. -/
def coords (t : Tensor) (n : Nat) : List Nat :=
  ((List.range 5).foldl (fun (acc : List Nat × Nat) d => (acc.1 ++ [acc.2 % t.ext d], acc.2 / t.ext d)) ([], n)).1

/-- Whether an element x is in bounds (R215). -/
def inBounds (t : Tensor) (x : List Int) : Bool :=
  (List.range t.rank).all fun d => 0 ≤ x.getD d 0 && x.getD d 0 < (t.dims.getD d 0 : Int)

/-- The VA of the first byte and the bit offset within it of an element x in bounds (R215). -/
def place (t : Tensor) (x : List Int) : DWord × Nat :=
  let row : Int := (List.range t.rank).foldl (fun a d =>
    if d = 0 then a else a + 16 * (x.getD d 0 * (t.strs.getD d 0 : Int))) 0
  let bit : Int := x.getD 0 0 * (ewBits t.ew : Int)
  (t.base + BitVec.ofInt 64 (row + bit / 8), (bit % 8).toNat)

/-- The dense bit position of box element b (R216). -/
def densePos (t : Tensor) (tr : Bool) (b : List Nat) : Nat :=
  let B := t.ext
  let x := b.getD
  let rest := (x 4 0 * B 3 + x 3 0) * B 2 + x 2 0
  let w := ewBits t.ew
  if tr then
    let g := granElems t.ew
    ((rest * (B 0 / g) + x 0 0 / g) * B 1 + x 1 0) * granBytes t.ew * 8 + (x 0 0 % g) * w
  else ((rest * B 1 + x 1 0) * B 0 + x 0 0) * w

end Tensor

namespace ShuttleOp

/-- Whether the operation is a gather or scatter over row indices (R221). -/
def byRows (o : ShuttleOp) : Bool := match o.kind with | .gather | .scatter => true | _ => false
/-- The number of box elements the operation moves. -/
def elems (o : ShuttleOp) : Nat := if o.byRows then o.rows.length * o.tensor.ext 0 else o.tensor.count
/-- Bytes of the dense image. -/
def denseBytes (o : ShuttleOp) : Nat :=
  match o.kind with
  | .flat => o.len
  | _ => if o.byRows then (o.elems * ewBits o.tensor.ew + 7) / 8 else o.tensor.bytes
/-- The chunks of the operation (R218, R220). -/
def chunks (o : ShuttleOp) : Nat := (o.denseBytes + 511) / 512

/-- Where the n-th element stands: its dense bit position and its place in the tensor, none when out of bounds. -/
def element (o : ShuttleOp) (n : Nat) : Nat × Option (DWord × Nat) :=
  let t := o.tensor
  if o.byRows then
    let B0 := t.ext 0
    let x : List Int := [o.origin.getD 0 0 + (n % B0 : Nat), ((o.rows.getD (n / B0) 0 : Nat) : Int)]
    -- a row that several lanes of a scatter name is written by the highest of them
    let later := o.kind == .scatter && (o.rows.drop (n / B0 + 1)).contains (o.rows.getD (n / B0) 0)
    (n * ewBits t.ew, if t.inBounds x && !later then some (t.place x) else none)
  else
    let b := t.coords n
    let x : List Int := (List.range 5).map fun d => if d < t.rank then o.origin.getD d 0 + (b.getD d 0 : Int) else 0
    (t.densePos o.tr b, if t.inBounds x then some (t.place x) else none)

/-- The elements with a bit in a chunk's dense bytes that no other chunk's event has moved: each is moved once (R220). -/
def chunkElems (o : ShuttleOp) (c : Nat) : List Nat :=
  let w := ewBits o.tensor.ew
  let moved (x : Nat) : Bool := x ≠ c && (o.done.contains x || o.sent.any fun y => y.1 = x)
  (List.range o.elems).filter fun n =>
    let p := (o.element n).1
    let a := p / 4096
    let b := (p + w - 1) / 4096
    a ≤ c && c ≤ b && !moved a && !moved b

/-- The lowest and highest tensor byte the operation touches among the elements at addresses that meet a test, if any (R100). -/
def tensorSpan (o : ShuttleOp) (ok : Nat → Bool) : Option (Nat × Nat) :=
  let w := ewBits o.tensor.ew
  (List.range o.elems).foldl (fun acc n =>
    match (o.element n).2 with
    | none => acc
    | some (va, bit) =>
      if !ok va.toNat then acc else
      let lo := va.toNat
      let hi := lo + (bit + w - 1) / 8
      match acc with
      | none => some (lo, hi)
      | some (a, b) => some (min a lo, max b hi)) none

/-- The lowest and highest byte of the dense image that the operation touches: as a destination all of it, as a source those of the
elements that it reads (R100). -/
def denseTouched (o : ShuttleOp) : Option (Nat × Nat) :=
  if o.denseBytes = 0 then none else
  match o.kind with
  | .write | .scatter =>
    let w := ewBits o.tensor.ew
    (List.range o.elems).foldl (fun acc n =>
      match o.element n with
      | (_, none) => acc
      | (p, some _) =>
        let lo := p / 8
        let hi := (p + w - 1) / 8
        match acc with
        | none => some (lo, hi)
        | some (a, b) => some (min a lo, max b hi)) none
  | _ => some (0, o.denseBytes - 1)

/-- The bytes of the dense image that an element of a chunk has: its offset and how many. -/
def denseBytesOf (o : ShuttleOp) (n : Nat) : Nat × Nat :=
  let p := (o.element n).1
  (p / 8, (p % 8 + ewBits o.tensor.ew + 7) / 8)

/-- The first byte of the dense image in the space of range locks: a VA, or the key of a scratch byte (R100). -/
def denseKey (o : ShuttleOp) : Nat := if o.glb then o.dense.toNat else scrKey o.wg o.dense.toNat

/-- Whether the destination bytes [lo, hi] meet a chunk whose bit is clear (R101). -/
def pendingAt (o : ShuttleOp) (lo hi : Nat) : Bool :=
  let open' (c : Nat) : Bool := c < o.chunks && !o.done.contains c
  match o.kind with
  | .read | .gather =>
    let d := o.denseKey
    (List.range ((hi - d) / 512 + 1)).any fun c => open' c && d + 512 * c ≤ hi && lo < d + 512 * (c + 1)
  | .flat =>
    let d := o.tensor.base.toNat
    (List.range o.chunks).any fun c => open' c && d + 512 * c ≤ hi && lo < d + 512 * (c + 1)
  | _ =>
    let w := ewBits o.tensor.ew
    (List.range o.elems).any fun n =>
      match o.element n with
      | (p, some (va, bit)) =>
        (open' (p / 4096) || open' ((p + w - 1) / 4096)) && va.toNat ≤ hi && lo ≤ va.toNat + (bit + w - 1) / 8
      | _ => false

end ShuttleOp

end Sys2Proof.Machine
end

