-- ==== Sys2Proof/Machine/Access.lean ====
section
/-! DEFINITION. The access of a lane: its checks in the order of R183, the key it resolves to, the scope it executes at
(R90), range locks (R101), shared output ranges (R49), tide locks (R286), and what a helper is spared (R30). -/

namespace Sys2Proof.Machine

/-- What an access does to memory. -/
inductive AccKind where
  | load | store | atom (op : AtomOp) | red | bw
deriving DecidableEq, Repr

/-- The permission it needs (R354). -/
def AccKind.need : AccKind → Need
  | .load => .read | .atom _ => .both | .store | .red | .bw => .write
/-- Whether it is a read-modify-write of `atom` or `red`. -/
def AccKind.rmw : AccKind → Bool
  | .atom _ | .red => true | _ => false
/-- Whether it writes. -/
def AccKind.writes : AccKind → Bool
  | .load => false | _ => true

/-- Why an access is not performed now: a fault, a tide lock that it waits for, or an absorbed fault (R352). -/
inductive AccErr where
  | fault (code : Byte) (addr : DWord)
  | stall
  | absorb
deriving DecidableEq, Repr

/-- A resolved access: where it goes and on what page. -/
structure Target where
  acc  : LaneAcc
  sys  : Bool
  host : Bool
  repl : Bool
  scr  : Bool
deriving DecidableEq, Repr

/-- The workgroup of the gang with a given F2 (R80, R200). -/
def gangPeer (s : State) (gang f2 : Nat) : Option (Nat × Workgroup) :=
  (tget? s.gangs gang).bind fun G => G.wgs.findSome? fun id =>
    (tget? s.wgs id).bind fun wg => if wg.f2 = f2 then some (id, wg) else none

/-- c2 of a launch (R33). -/
def Launch.c2 (L : Launch) : Nat := L.counts.getD 1 1

/-- A scratch address resolved (R80): alignment is checked before. -/
def resolveScr (s : State) (e : Env) (size : Nat) (va : DWord) : Option (Nat × Nat) :=
  let a := va.toNat
  let off := a % 2 ^ 18
  if 2 ^ 23 ≤ a then none
  else if bitOf a 22 then
    let peer := bitsOf a 21 18
    if e.L.c2 ≤ peer then none else
    match gangPeer s e.wg.gang peer with
    | some (id, wg) => if wg.retired || e.H.scratch < off + size then none else some (id, off)
    | none => none
  else if e.H.scratch < off + size then none else some (e.wgId, off)

/-- Whether a lane's access to bytes [lo, hi] of the lock space meets a range lock of its gang (R101). -/
def lockHit (s : State) (e : Env) (writes : Bool) (lo hi : Nat) : Bool :=
  (s.cluster e.cluster).locks.any fun k =>
    k.gang = e.wg.gang &&
    (let meets (r : Option (Nat × Nat)) : Bool := match r with | some (a, b) => a ≤ hi && lo ≤ b | none => false
     if writes then meets k.src || meets k.dst
     else meets k.dst && (match tget? s.shuttles k.op with | some o => o.pendingAt lo hi | none => true))

/-- Whether bytes overlap a shared output range of the kernel (R49). -/
def sharedHit (H : Header) (lo size : Nat) : Bool := H.shared.any fun (b, n) => lo < b + n && b < lo + size

/-- Whether a page refuses the operation (R85, R191). -/
def pageRefuses (kind : AccKind) (host repl : Bool) : Bool :=
  match kind with
  | .atom op => host && !(op == .add || op == .exch || op == .cas)
  | .red => host
  | .bw => host || repl
  | _ => false

/-- The bytes of a core's L1 copies updated by a write to memory. -/
def updateCopies (t : Table DWord) (k : Nat) (bs : List Byte) : Table DWord :=
  (bs.zipIdx).foldl (fun t (b, i) =>
    let p := (k + i) / 8
    match tget? t p with
    | none => t
    | some x =>
      let sh := 8 * ((k + i) % 8)
      tput t p ((x &&& ~~~((0xFF#64) <<< sh)) ||| (b.setWidth 64 <<< sh))) t

/-- The checks of R183 in order for one lane's access of `size` bytes, `aligned` unless it is the 3-byte access. -/
def resolve (s : State) (e : Env) (kind : AccKind) (space : Space) (size : Nat) (aligned : Bool) (l : Nat) (va : DWord) :
    Except AccErr Target :=
  let fault (c : Byte) : Except AccErr Target := .error (.fault c va)
  let a := va.toNat
  if aligned && a % size ≠ 0 then fault 0x12 else
  match space with
  | .prv =>
    if e.H.priv ≤ (a + size - 1) / 4 then fault 0x13
    else .ok ⟨{ lane := l, va, key := prvKey e.id e.H.priv l a, remote := false }, false, false, false, false⟩
  | .scr =>
    match resolveScr s e size va with
    | none => fault 0x11
    | some (wg, off) =>
      let k := scrKey wg off
      if lockHit s e kind.writes k (k + size - 1) then fault 0x14
      else .ok ⟨{ lane := l, va, key := k, remote := false }, false, false, false, true⟩
  | .glb =>
    if va.getLsbD 63 then
      let dev := remoteDev va
      if !reachable s dev then fault 0x16
      else if dev ≠ s.fabric.index then
        match s.refused.find? fun x => x.1 = l && (x.2 == 0x10 || x.2 == 0x11 || x.2 == 0x16 || x.2 == 0x70) with
        | some (_, c) => fault c
        | none => if kind == .bw then fault 0x11 else .ok ⟨{ lane := l, va, key := e.ctx * 2 ^ 64 + a, remote := true }, true, false, false, false⟩
      else match translateExport s dev e.ctx (remoteOff va) size kind.need
          kind.rmw with
        | .error 0 => .error .absorb
        | .error c => fault c
        | .ok (_, p) =>
          if kind == .bw || pageRefuses kind p.host p.repl then fault 0x11
          else if tideLocked s p.key size then .error .stall
          else .ok ⟨{ lane := l, va, key := p.key, remote := false, repl := p.repl }, true, p.host, p.repl, false⟩
    else if !isLocalVa va then fault 0x11
    else match translate s (some e.wg.core) e.ctx e.c a kind.need with
      | .error 0 => .error .absorb
      | .error c => fault c
      | .ok p =>
        if pageRefuses kind p.host p.repl then fault 0x11
        else if lockHit s e kind.writes a (a + size - 1) then fault 0x14
        else if e.det && !e.w.hold && sharedHit e.H a size &&
            (match kind with | .store | .atom _ | .red => true | _ => false) then fault 0x15
        else if tideLocked s p.key size then .error .stall
        else .ok ⟨{ lane := l, va, key := p.key, remote := false, repl := p.repl }, p.host, p.host, p.repl, false⟩

/-- The scope an access executes at (R90). -/
def executedScope (space : Space) (sc : Scope) (t : Target) (atomic : Bool) : Scope :=
  match space with
  | .prv => .wv
  | .scr => match sc with | .dev | .sys => .gng | x => x
  | .glb => if t.sys then .sys else if t.repl && atomic then (match sc with | .sys => .sys | _ => .dev) else sc

/-- A target's access at the scope it executes at (R90). -/
def Target.at (space : Space) (sc : Scope) (atomic : Bool) (t : Target) : LaneAcc :=
  { t.acc with scope := executedScope space sc t atomic }

/-- The order in which R183 lists what an access of `n` bytes meets; a wait comes after every fault, but for the absorbed fault, which
stands for a page that is not present. Uncorrectable data and a lost link come last, as the access is performed. -/
def accOrder (s : State) (e : Env) (kind : AccKind) (space : Space) (n : Nat) : AccErr → Nat
  | .stall => 9
  | .absorb => 5
  | .fault c va =>
    if c == 0x12 then 1 else if c == 0x13 then 2 else if c == 0x16 then 4 else if c == 0x14 then 7 else if c == 0x15 then 8
    else if c == 0x40 || c == 0x41 then 9
    else if c != 0x11 then 5
    else if space != .glb then 3
    else if va.getLsbD 63 then
      (match findExport s (remoteDev va) e.ctx with
       | some (_, _, x) =>
         if remoteDev va = s.fabric.index && x.allows (remoteOff va) n kind.need kind.rmw then 6 else 4
       | none => 4)
    else if isLocalVa va then 6 else 3

/-- What an access in parts meets: of its parts' errors the one that R183 lists first, of the lowest part (R9). -/
def firstListed {α : Type} (s : State) (e : Env) (kind : AccKind) (space : Space) (n : Nat) (rs : List (Except AccErr α)) :
    Option AccErr :=
  rs.foldl (fun a r => match r, a with
    | .ok _, _ => a
    | .error x, none => some x
    | .error x, some y => if accOrder s e kind space n x < accOrder s e kind space n y then some x else a) none

/-- What an access in parts comes to: its parts, or what stops it first. -/
def allListed {α : Type} (s : State) (e : Env) (kind : AccKind) (space : Space) (n : Nat) (rs : List (Except AccErr α)) :
    Except AccErr (List α) :=
  match firstListed s e kind space n rs with
  | some x => .error x
  | none => .ok (rs.filterMap fun r => match r with | .ok x => some x | .error _ => none)

/-- The three parts of the 3-byte access of R186. -/
def resolveParts (s : State) (e : Env) (kind : AccKind) (space : Space) (l : Nat) (va : DWord) : List (Except AccErr Target) :=
  [0, 1, 2].map fun k => resolve s e kind space 1 false l (va + BitVec.ofNat 64 k)

/-- The 3-byte access of R186: each byte is checked, and the lane faults if any of them faults. -/
def resolve3 (s : State) (e : Env) (kind : AccKind) (space : Space) (l : Nat) (va : DWord) : Except AccErr Target :=
  match firstListed s e kind space 1 (resolveParts s e kind space l va) with
  | some x => .error x
  | none => resolve s e kind space 1 false l va

/-- The accesses of a lane that has resolved: one, or the three of R186. -/
def lanesAcc (s : State) (e : Env) (kind : AccKind) (space : Space) (sc : Scope) (three : Bool) (t : Target) : List LaneAcc :=
  let atomic := kind.rmw
  if !three then [t.at space sc atomic] else
  (resolveParts s e kind space t.acc.lane t.acc.va).filterMap fun r => match r with
    | .ok x => some (x.at space sc atomic)
    | .error _ => none

/-- The rank of a scope, wider scopes higher. -/
def scopeRank : Scope → Nat
  | .wv => 0 | .grp => 1 | .gng => 2 | .dev => 3 | .sys => 4
/-- Whether a scope is at least as wide as another. -/
def atLeast (a b : Scope) : Bool := scopeRank b ≤ scopeRank a

/-- Whether an order makes an access a release, or an acquire (R89). -/
def isRelease : Order → Bool
  | .rel | .ar | .sc => true | _ => false
/-- Whether an order makes an access an acquire. -/
def isAcquire : Order → Bool
  | .acq | .ar | .sc => true | _ => false

/-- Whether a helper is spared a load's fault (R30, R184). -/
def spared (code : Byte) : Bool := code == 0x10 || code == 0x11 || code == 0x12 || code == 0x13

/-- The record of a graph launch (R33, R35). -/
def graphRecord (va : DWord) : List Byte := leBytes 8 va.toNat ++ leBytes 0x16 0 ++ leBytes 2 2 ++ leBytes 0x20 0

/-- The queue whose frames hold the mark that names a range, or the lowest queue of the context. -/
def rangeQueue (s : State) (ctx base : Nat) : Option Nat :=
  let qs := s.queues.filter fun (_, q) => q.ctx = ctx
  let named (q : Queue) : Bool := q.frames.any fun (_, f) => f.marks.any fun
    | .recomp b n _ => b ≤ base && base < b + n
    | .needs .. => false
  ((qs.find? fun (_, q) => named q) <|> qs.head?).map (·.1)

/-- The return of a reclaimed range begun: a dropped range's graph is submitted, on the queue of the unwinder that needs it where one
does, an offloaded one's copy starts, an outward copy is cancelled (R352). -/
def State.startReturn (s : State) (ctx base : Nat) (own : Option Nat := none) : State :=
  match (tget? s.ctxs ctx).bind fun c => tget? c.ranges base with
  | none => s
  | some r =>
    let set (x : Option RangeRec) (s : State) : State := s.modCtx ctx fun c =>
      { c with ranges := match x with | some r => tput c.ranges base r | none => tdel c.ranges base }
    match r.state with
    | .outward => set none s
    | .offloaded => set (some { r with state := .returning }) s
    | .returning => s
    | .dropped =>
      let s := set (some { r with state := .returning }) s
      match own <|> rangeQueue s ctx base with
      | some q => s.modQueue q fun q => { q with offers := q.offers ++ [⟨0, .graph, some (graphRecord r.graph), []⟩] }
      | none => s

/-- The context whose tables translate an access of a context, and the VA there: the exporting one's for this device's own window
(R84). -/
def translatedAt (s : State) (ctx : Nat) (va : DWord) : Nat × Nat :=
  if !va.getLsbD 63 || remoteDev va ≠ s.fabric.index then (ctx, va.toNat) else
  match findExport s s.fabric.index ctx with
  | some (k, _, x) => (k, (x.base + remoteOff va) % 2 ^ 57)
  | none => (ctx, va.toNat)

/-- Every range that one of a context's accesses meets begins its return (R352). -/
def State.absorb (s : State) (ctx : Nat) (vas : List Nat) : State :=
  vas.foldl (fun s v =>
    let (k, v) := translatedAt s ctx (BitVec.ofNat 64 v)
    match tget? s.ctxs k with
    | none => s
    | some c => (c.ranges.filter fun (b, r) => b ≤ v && v < b + r.len).foldl (fun s (b, _) => s.startReturn k b) s) s

/-- The wave waits for the ranges that its accesses meet. -/
def absorbWait (e : Env) (s : State) (vas : List DWord) : Res :=
  block e (s.absorb e.ctx (vas.map (·.toNat)))

/-- A notice record in the context that exports a window, for a fault that a request found there (R358, R360). -/
def State.notice (s : State) (dev ctx off : Nat) (code : Byte) (write : Bool) : State :=
  match findExport s dev ctx with
  | none => s
  | some (k, _, x) =>
    if !(code == 0x10 || code == 0x11 || code == 0x70) then s else
    let bytes := faultBytes code 2 (recordFlags false false write false) 0 (BitVec.ofNat 64 (x.base + off)) 0 0 0 0 0 0 0
      dev ctx
    s.modCtx k fun c => { c with faults := c.faults ++ [{ bytes, code, wave := none }] }

/-- The notices of an access's faults at this device's own export window: one for each record of the issuing lanes, with
the record's address (R358, R360). DEDUCED: log 21. -/
def State.ownNotices (s : State) (ctx : Nat) (write : Bool) (fs : List (Nat × Byte × DWord)) : State :=
  (groupFaults fs).foldl (fun s (_, code, va) =>
    if va.getLsbD 63 && remoteDev va = s.fabric.index then s.notice s.fabric.index ctx (remoteOff va) code write else s) s

end Sys2Proof.Machine
end

