-- ==== Sys2Proof/Machine/Order.lean ====
section
/-! DEFINITION. What orders an instruction against memory: drained stores, releases and acquires (R88 to R96), stash
write-back (R82, R198), markers (R104), held reports (R393), the bobbin (R48), and RESTARTABLE (R368). -/

namespace Sys2Proof.Machine

/-- A state changed after a step that has one. -/
def andThen (r : Res) (f : State → State) : Res :=
  match r with
  | .next s => .next (f s)
  | .fault x => .fault x
  | .refused x => .refused x

/-- Whether a wave waits. -/
def isWaiting (s : State) (id : Nat) : Bool := match (s.wave id).status with | .waiting _ => true | _ => false

/-- RESTARTABLE clears for good at a side effect (R368). -/
def State.sideEffect (s : State) (wg : Nat) : State := s.modWg wg fun w => { w with restart := false }

/-! ### Stores drained -/

/-- Whether a core's store order holds a store of a wave. -/
def hasStore (s : State) (core wave : Nat) : Bool := (s.core core).fifo.any fun p => p.wave = wave
/-- Whether the wave's own counted memory operations have all been performed. -/
def settled (s : State) (e : Env) : Bool := e.w.loads.isEmpty && !hasStore s e.wg.core e.id
/-- Whether every write that a core has sent has been applied by its target. -/
def CoreState.arrived (c : CoreState) : Bool := c.flying.all fun x => x.acked
/-- Whether every tide write that a core has sent has been answered, which no marker covers (R277, R279). -/
def CoreState.tidesIn (c : CoreState) : Bool := c.flying.all fun x => x.acked || 0 < x.ord
/-- Whether what a core has sent lets a release at a scope complete: at `.gng` and `.dev` all of it is at its target devices (R95); a
release at `.sys` learns of stores from its markers (R104), and of tide writes from their answers. -/
def CoreState.landed (c : CoreState) (sc : Scope) : Bool := if sc == .sys then c.tidesIn else c.arrived
/-- Whether a release at a scope can complete: at `.gng` or wider its wave's own loads, and every store ahead of it in its
core's store order, have been performed, and what the core has sent has landed. -/
def releaseReady (s : State) (e : Env) (sc : Scope) : Bool :=
  if atLeast sc .gng then
    e.w.loads.isEmpty && (s.core e.wg.core).fifo.isEmpty && (s.core e.wg.core).landed sc
  else true

/-! ### The stash -/

/-- The dirty bytes of a stash entry that lie in the 64-byte global line of an offset. -/
def lineDirty (st : Stash) (off : Nat) : List Nat := st.dirty.filter fun o => (st.va.toNat + o) / 64 = (st.va.toNat + off) / 64

/-- The dirty bytes of one global line written back as one masked write, which the core's copies take (R82, R86): the fault, or
the state. The error 0 is a wait, for a reclaimed range or a line that is held. Data that cannot be corrected faults unless the
write covers its line. -/
def writeBackLine (ctx : Nat) (c : Context) (core wg : Nat) (st : Stash) (s : State) (offs : List Nat) :
    Except (Byte × DWord) State :=
  let va := st.va.toNat + offs.headD 0
  let err (f : Byte) : Except (Byte × DWord) State := .error (f, BitVec.ofNat 64 va)
  match translate s (some core) ctx c va .write with
  | .error f => err f
  | .ok p =>
    if tideLocked s p.key 1 then err 0
    else if badLine s p.key && offs.length < 64 then err 0x40
    else
      let cells : List (Nat × Byte) := offs.map fun o => (p.key + (o - offs.headD 0), memGet s.mem (scrKey wg (st.off + o)))
      .ok ((s.writeCells cells).modCore core fun k =>
        { k with copies := cells.foldl (fun t (a, b) => updateCopies t a [b]) k.copies })

/-- Dirty bytes written back line by line until one faults: the state, what is still dirty, and the fault (R198). -/
def writeBackBytes (ctx : Nat) (c : Context) (core wg : Nat) (st : Stash) :
    Nat → State → List Nat → State × List Nat × Option (Byte × DWord)
  | 0, s, left => (s, left, none)
  | _ + 1, s, [] => (s, [], none)
  | n + 1, s, off :: left =>
    let offs := lineDirty { st with dirty := off :: left } off
    match writeBackLine ctx c core wg st s offs with
    | .ok s => writeBackBytes ctx c core wg st n s (left.filter fun o => !offs.contains o)
    | .error f => (s, off :: left, some f)

/-- The stash entries that a test selects written back, in order, until one faults. -/
def writeBackEntries (ctx : Nat) (c : Context) (core wg : Nat) (sel : Nat → Stash → Bool) (s : State) (i : Nat)
    (done : List Stash) : List Stash → State × List Stash × Option (Byte × DWord)
  | [] => (s, done, none)
  | st :: sts =>
    if sel i st then
      match writeBackBytes ctx c core wg st st.dirty.length s st.dirty with
      | (s, left, some f) => (s, done ++ { st with dirty := left } :: sts, some f)
      | (s, left, none) => writeBackEntries ctx c core wg sel s (i + 1) (done ++ [{ st with dirty := left }]) sts
    else writeBackEntries ctx c core wg sel s (i + 1) (done ++ [st]) sts

/-- A workgroup's stash written back: the state and the fault that stopped it (R82, R198). -/
def State.stashBack (s : State) (wg : Nat) (sel : Nat → Stash → Bool) : State × Option (Byte × DWord) :=
  match tget? s.wgs wg with
  | none => (s, none)
  | some W =>
    match (tget? s.launches W.launch).bind fun L => (tget? s.ctxs L.ctx).map fun c => (L.ctx, c.seenBy s L) with
    | none => (s, none)
    | some (ctx, c) =>
      let (s, sts, f) := writeBackEntries ctx c W.core wg sel s 0 [] W.stash
      (s.modWg wg fun W => { W with stash := sts }, f)

/-! ### Releases and acquires -/

/-- The markers of a `.sys` release: one to each device with requests since the core's last one (R104). -/
def State.markers (s : State) (core ctx : Nat) : State :=
  let c := s.core core
  let s := c.sent.foldl (fun s (dev, n) =>
    if tgetD c.marks dev 0 = n then s else s.sendTo dev (.marker dev ⟨s.fabric.index, ctx, core⟩ n)) s
  s.modCore core fun c => { c with marks := c.sent }

/-- The marker answers that a `.sys` release of a core needs: from each device that has not answered for all requests sent to
it and is not lost (R104, R107). -/
def State.unanswered (s : State) (core : Nat) : List (Nat × Nat × Nat) :=
  let c := s.core core
  c.sent.filterMap fun (dev, n) =>
    if tgetD c.answered dev 0 < n && s.fabric.member dev != .fenced then some (core, dev, n) else none

/-- Whether marker answers have come; a lost device's is not waited for (R107). -/
def State.hasAnswers (s : State) (ws : List (Nat × Nat × Nat)) : Bool :=
  ws.all fun (core, dev, n) => n ≤ tgetD (s.core core).answered dev 0 || s.fabric.member dev == .fenced

/-- What a release at a scope does once the stores before it are performed: stash write-back at `.gng` or wider, markers
at `.sys`; the fault of the write-back. -/
def State.release (s : State) (e : Env) (sc : Scope) : State × Option (Byte × DWord) :=
  if !atLeast sc .gng then (s, none) else
  match s.stashBack e.wgId (fun _ _ => true) with
  | (s, some f) => (s, some f)
  | (s, none) => (if sc == .sys then s.markers e.wg.core e.ctx else s, none)

/-- How far a release has come. -/
inductive Released where
  | waits (s : State)
  | fault (s : State) (code : Byte) (addr : DWord)
  | done (s : State)

/-- A release at a scope as an instruction performs it: it waits for the stores before it, writes the stash back, and at
`.sys` sends its markers and waits until they are answered (R95, R104). -/
def State.releaseAt (s : State) (e : Env) (sc : Scope) : Released :=
  match e.w.marked with
  | some ws => if s.hasAnswers ws then .done (s.modWave e.id fun w => { w with marked := none }) else .waits s
  | none =>
    if !releaseReady s e sc then .waits s else
    match s.release e sc with
    | (s, some (f, va)) => .fault s f va
    | (s, none) =>
      if sc == .sys && !(s.unanswered e.wg.core).isEmpty then
        .waits (s.modWave e.id fun w => { w with marked := some (s.unanswered e.wg.core) })
      else .done s

/-- An acquire at a scope by a lane of a core and workgroup: at `.gng` or wider the L1 copies go, remote ones among them (R86, R94,
R103), and the stash's clean bytes are fetched again (R82). -/
def State.acquire (s : State) (core wg : Nat) (sc : Scope) : State :=
  if !atLeast sc .gng then s else
  let s := s.modCore core fun c => { c with copies := [], remote := [] }
  s.modWg wg fun W => { W with stash := W.stash.map fun st => { st with stale := st.filled } }

/-! ### Held reports (R393) -/

/-- Reports in groups that form one record each: an operation reported in several lanes is one report (R234). -/
def groupReports (rs : List Report) : List (List Report) :=
  rs.foldl (fun acc r =>
    if r.kind = 3 && acc.any (fun g => g.any fun x => x.kind = 3 && x.op = r.op) then
      acc.map fun g => if g.any fun x => x.kind = 3 && x.op = r.op then g ++ [r] else g
    else acc ++ [[r]]) []

/-- A report put after those of operations issued no later. -/
def insertReport (r : Report) : List Report → List Report
  | [] => [r]
  | x :: xs => if r.stamp < x.stamp then r :: x :: xs else x :: insertReport r xs

/-- Reports in the order in which their operations were issued. -/
def byIssue (rs : List Report) : List Report := rs.foldl (fun acc r => insertReport r acc) []

/-- Reports taken at an instruction, source 3, in the order in which the operations were issued. -/
def State.takeReports (s : State) (id : Nat) (pc : DWord) (rs : List Report) : State :=
  let s := s.modWave id fun w => { w with reports := w.reports.filter fun r => !rs.contains r }
  (groupReports (byIssue rs)).foldl (fun s g =>
    match g with
    | [] => s
    | r :: _ => s.laneFault id 3 (g.foldl (fun m x => m ||| laneBit x.lane) 0) r.code r.addr pc false r.write false g) s

/-- The reports of enabled lanes that fall at a point. -/
def Env.reportsAt (e : Env) (p : Report → Bool) : List Report :=
  e.w.reports.filter fun r => p r && e.enabled.getLsbD r.lane

/-- The reports that a release at an executed scope takes. -/
def fallsAt (sc : Scope) (r : Report) : Bool := match r.rel with | some x => atLeast sc x | none => false

/-- A wave-level instruction at a point: with a report held by an enabled lane it is not performed, the reporting lanes
fault and every other issuing lane keeps its PC. -/
def gateWave (e : Env) (s : State) (p : Report → Bool) (k : Res) : Res :=
  match e.reportsAt p with
  | [] => k
  | rs => .next (s.takeReports e.id e.pc rs)

/-- A per-lane instruction at a point: the reporting lanes fault and keep their PC, the others complete. -/
def gateLanes (e : Env) (p : Report → Bool) (k : Env → Res) : Res :=
  match e.reportsAt p with
  | [] => k e
  | rs =>
    let m := ~~~(maskOf fun l => rs.any fun r => r.lane = l)
    andThen (k { e with issuing := e.issuing &&& m, enabled := e.enabled &&& m, active := e.active &&& m }) fun s' =>
      if isWaiting s' e.id then s' else s'.takeReports e.id e.pc rs

/-- The end of an instruction by how far its release has come: a fault of the write-back falls on every enabled lane (R198). -/
def afterRelease (e : Env) (r : Released) (k : State → Res) : Res :=
  match r with
  | .waits s => block e s
  | .fault s f va => if f = 0 then absorbWait e s [va] else faultAll e s f va true
  | .done s => k s

/-- A wave-level release at a scope before an instruction's own effect: reports, the stores before it, the stash, at `.sys` the
markers (R104, R198, R393). -/
def waveRelease (e : Env) (s : State) (sc : Scope) (k : State → Res) : Res :=
  gateWave e s (fallsAt sc) (afterRelease e (s.releaseAt e sc) k)

/-! ### The bobbin (R48) -/

/-- The place of a wave in bobbin order: i·c1 + f1. -/
def bobIndex (L : Launch) (i f1 : Nat) : Nat := i * L.counts.headD 1 + f1
/-- The number of waves of a launch. -/
def bobTotal (L : Launch) : Nat := (L.counts.foldl (· * ·) 1)
/-- The wave at a place of the bobbin order, if it is placed. -/
def bobWave (s : State) (L : Launch) (p : Nat) : Option Nat :=
  let c1 := max 1 (L.counts.headD 1)
  L.wgs.findSome? fun id => (tget? s.wgs id).bind fun wg => if wg.index = p / c1 then some (id * 32 + p % c1) else none

/-- The token moved on from a place past every wave already passed or retired; a placed wave it reaches holds it, with
an acquire at `.dev`. -/
def State.tokenFrom (s : State) (k p : Nat) : Nat → State
  | 0 => s.modLaunch k fun L => { L with bobbin := p }
  | n + 1 =>
    match tget? s.launches k with
    | none => s
    | some L =>
      if L.bobDone.contains p then s.tokenFrom k (p + 1) n else
      let s := s.modLaunch k fun L => { L with bobbin := p }
      match bobWave s L p with
      | none => s
      | some id =>
        let core := match tget? s.wgs (wgOf id) with | some wg => wg.core | none => 0
        (s.modWave id fun w => { w with hold := true }).acquire core (wgOf id) .dev

/-- The token set moving from a place. -/
def State.moveToken (s : State) (k p : Nat) : State :=
  match tget? s.launches k with
  | none => s
  | some L => s.tokenFrom k p (bobTotal L - p)

/-- A wave passed in this round: the token moves on if it holds it, else when it arrives. -/
def State.passBobbin (s : State) (id : Nat) : State :=
  match tget? s.wgs (wgOf id) with
  | none => s
  | some wg =>
  match tget? s.launches wg.launch with
  | none => s
  | some L =>
    let p := bobIndex L wg.index (id % 32)
    if L.bobDone.contains p then s else
    let held := (s.wave id).hold
    let s := s.modWave id fun w => { w with hold := false, passed := true }
    let s := s.modLaunch wg.launch fun L => { L with bobDone := p :: L.bobDone }
    if held then (s.sideEffect (wgOf id)).moveToken wg.launch (p + 1) else s

/-- A write-back whose fault reports nothing (R198): it only waits where a line is held or a range is reclaimed. -/
def bestBack (e : Env) (s : State) (k : State → Res) : Res :=
  match s.stashBack e.wgId (fun _ _ => true) with
  | (s, some (0, va)) => absorbWait e s [va]
  | (s, _) => k s

/-- The release of a wave that passes the token, at the instruction that passes it (R48): by the holder as any release
at `.dev`; a wave that is marked passed before the token comes has its stores performed, and a write-back that faults then
reports nothing (R198). -/
def passRelease (e : Env) (s : State) (k : State → Res) : Res :=
  if !e.det then k s
  else if e.w.hold then waveRelease e s .dev k
  else if e.w.passed then k s
  else if !releaseReady s e .dev then block e s
  else bestBack e s k

end Sys2Proof.Machine
end

