-- ==== Sys2Proof/Machine/Backwash.lean ====
section
/-! DEFINITION. The backwash accumulator (R72 to R75, R190, R192, R193): contributions, spill records, flush. -/

namespace Sys2Proof.Machine

/-- 2^324, the modulus of the sum S (R72). -/
def accMod : Nat := 2 ^ 324

/-- A finite FP32 value in units of 2^-149 (R73). -/
def bwUnits (neg : Bool) (m : Nat) (e : Int) : Int :=
  let x : Int := (m * 2 ^ (e + 149).toNat : Nat)
  if neg then -x else x

/-- The running NaN after another NaN is contributed (R73). -/
def nanInto (run : Option Word) (x : Nat) : Option Word :=
  match run with
  | none => some (BitVec.ofNat 32 (fmt32.quiet x))
  | some r => some (BitVec.ofNat 32 (fmt32.nanrule [r.toNat, x]))

namespace Accum

/-- An exact contribution (R73). -/
def add (a : Accum) (c : Word) : Accum :=
  match fmt32.value c.toNat with
  | .nan x => { a with nan := nanInto a.nan x }
  | .inf neg => if neg then { a with ninf := true } else { a with pinf := true }
  | .fin neg m e => { a with sum := ((bwUnits neg m e + (a.sum : Int)) % (accMod : Int)).toNat }

/-- What a part contributes to a merge's sum: a part whose NAN is set contributes its running NaN only (R75). -/
def sumPart (a : Accum) : Nat := if a.nan.isSome then 0 else a.sum

/-- A record and an accumulator merged (R75). -/
def merge (a b : Accum) : Accum :=
  { a with
    sum := (a.sumPart + b.sumPart) % accMod, pinf := a.pinf || b.pinf, ninf := a.ninf || b.ninf
    nan := match a.nan, b.nan with
      | none, y => y
      | x, none => x
      | some x, some y => some (BitVec.ofNat 32 (fmt32.nanrule [x.toNat, y.toNat])) }

/-- The word that a flush writes (R74). -/
def flush (a : Accum) (w : Word) : Word :=
  let s : Int := sext 324 a.sum
  let isNaN := fmt32.isNaN w.toNat
  let v := fmt32.value w.toNat
  let pw := v == FV.inf false
  let nw := v == FV.inf true
  if isNaN || a.nan.isSome then
    BitVec.ofNat 32 (fmt32.nanrule ((if isNaN then [w.toNat] else []) ++ (match a.nan with | some x => [x.toNat] | none => [])))
  else if (a.pinf || pw) && (a.ninf || nw) then 0x7FC00000#32
  else if a.pinf || pw then 0x7F800000#32
  else if a.ninf || nw then 0xFF800000#32
  else if s = 0 then w
  else match v with
    | .fin neg m e => BitVec.ofNat 32 (fmt32.roundInt .rne (bwUnits neg m e + s) (-149) false).1
    | _ => w

end Accum

/-- Records that a context's spill region holds (R72). -/
def spillRoom (c : Context) : Nat := c.spillsize / 48
/-- Whether the spill region can take no further record (R192). -/
def spillFull (c : Context) : Bool := spillRoom c ≤ c.spills.length

/-- All that a context has accumulated for a word: its accumulator and its spill records (R75). -/
def accumOf (c : Context) (va : Nat) : Option Accum :=
  match tget? c.accums va, tget? c.spills va with
  | some a, some b => some (a.merge b)
  | some a, none => some a
  | none, y => y

/-- A word flushed for a launch (R74): read and written at its home slice, its accumulator and records freed; the fault of its
translation or of its data; `core` is the core that asks for it, where one does. The error 0 is a wait, for a reclaimed range or a line that is held (R286, R352). -/
def State.flushWord (s : State) (L : Launch) (core : Option Nat) (va : Nat) : State × Option (Byte × DWord) :=
  let ctx := L.ctx
  let err (f : Byte) : State × Option (Byte × DWord) := (s, some (f, BitVec.ofNat 64 va))
  match tget? s.ctxs ctx with
  | none => (s, none)
  | some c =>
    match accumOf c va with
    | none => (s, none)
    | some a =>
      match translate s core ctx (c.seenBy s L) va .write with
      | .error f => err f
      | .ok p =>
        if tideLocked s p.key 4 then err 0
        else if badLine s p.key then err 0x40
        else
          let w := a.flush (BitVec.ofNat 32 (s.natAt p.key 4))
          let s := s.setNat p.key 4 w.toNat
          let s := match core with
            | some k => s.modCore k fun k => { k with copies := updateCopies k.copies p.key (leBytes 4 w.toNat) }
            | none => s
          (s.modCtx ctx fun c => { c with accums := tdel c.accums va, spills := tdel c.spills va }, none)

/-- Words flushed in order until one faults. -/
def State.flushWords (s : State) (L : Launch) (core : Option Nat) : List Nat → State × Option (Byte × DWord)
  | [] => (s, none)
  | va :: vas =>
    match s.flushWord L core va with
    | (s, none) => s.flushWords L core vas
    | (s, some f) => (s, some f)

/-- The 48 bytes of a spill record (R72). -/
def spillBytes (a : Accum) (word : Nat) : List Byte :=
  let value := leBytes 40 (a.sum % 2 ^ 320)
  let value := match a.nan with | some x => leBytes 4 x.toNat ++ value.drop 4 | none => value
  let tag := (if a.nan.isSome then 2 ^ 63 else 0) + (if a.pinf then 2 ^ 62 else 0) + (if a.ninf then 2 ^ 61 else 0) +
    a.sum / 2 ^ 320 % 16 * 2 ^ 57 + word % 2 ^ 57
  value ++ leBytes 8 tag

/-- Bytes written at a VA of a context, byte by byte through its pages; none where a page refuses, or where a line is held (R286). -/
def State.writeVa (s : State) (ctx : Nat) (va : Nat) : List Byte → Option State
  | [] => some s
  | b :: bs =>
    match (tget? s.ctxs ctx).map fun c => translate s none ctx c va .write with
    | some (.ok p) => if tideLocked s p.key 1 then none else (s.writeAt p.key [b]).writeVa ctx (va + 1) bs
    | _ => none

/-- Whether a line of `n` bytes at a VA is held. -/
def heldAt (s : State) (ctx va n : Nat) : Bool :=
  match tget? s.ctxs ctx with
  | none => false
  | some c => ((List.range n).map (va + ·)).any fun a =>
    match translate s none ctx c a .write with | .ok p => tideLocked s p.key 1 | .error _ => false

/-- The first address of `n` bytes at a VA that lies in a reclaimed range (R352). -/
def reclaimedAt (s : State) (ctx va n : Nat) : Option Nat :=
  (tget? s.ctxs ctx).bind fun c => ((List.range n).map (va + ·)).find? fun a =>
    match translate s none ctx c a .write with | .error f => f = 0 | .ok _ => false

/-- Bytes that the device writes for a context: nothing where a page refuses them, and later where a range has to return first
(R352) or a line is held (R286). -/
def State.deviceWrite (s : State) (ctx va : Nat) (bs : List Byte) : State :=
  match s.writeVa ctx va bs with
  | some s => s
  | none =>
    let later (s : State) : State := s.modCtx ctx fun c => { c with stalled := c.stalled ++ [.bytes va bs] }
    match reclaimedAt s ctx va bs.length with
    | none => if heldAt s ctx va bs.length then later s else s
    | some a =>
      let s := s.absorb ctx [a]
      (s.writeVa ctx va bs).getD (later s)

/-- The place of the record of a word in its context's spill region: the one it has, else the first free one. -/
def spillPlace (c : Context) (word : Nat) : Nat :=
  match tget? c.spills word with
  | some r => r.place
  | none => ((List.range (c.spills.length + 1)).find? fun i => !c.spills.any fun (_, r) => r.place = i).getD 0

/-- An accumulator evicted as a spill record, merged with one the word already has (R75); none without room in the region, or
where a page refuses the record. -/
def State.evict (s : State) (ctx word : Nat) : Option State :=
  match tget? s.ctxs ctx with
  | none => none
  | some c =>
    match tget? c.accums word with
    | none => none
    | some a =>
      if spillFull c && (tget? c.spills word).isNone then none else
      let r := { (match tget? c.spills word with | some b => a.merge b | none => a) with place := spillPlace c word }
      (s.writeVa ctx (c.spill.toNat + 48 * r.place) (spillBytes r word)).map fun s =>
        s.modCtx ctx fun c => { c with accums := tdel c.accums word, spills := tput c.spills word r }

/-- `accumulator evict` (R75). -/
def execAccumulatorEvict (ctx word : Nat) (s : State) : Res := .next ((s.evict ctx word).getD s)

/-- The accumulators that a home slice holds, by context and word. -/
def sliceAccums (s : State) (slice : Nat) : List (Nat × Nat) :=
  s.ctxs.flatMap fun (k, c) => (c.accums.filter fun (_, a) => a.slice = slice).map fun (w, _) => (k, w)

/-- Room for one more accumulator in a home slice: it holds 2048 (R12), and a full one evicts the first that it can. -/
def State.sliceRoom (s : State) (slice : Nat) : Option State :=
  if (sliceAccums s slice).length < 2048 then some s
  else (sliceAccums s slice).findSome? fun (ctx, word) => s.evict ctx word

/-- An exact contribution to a word of a context at its home slice (R73, R190); none where a fresh accumulator is needed and
the slice can evict none (R192). -/
def State.bwAdd (s : State) (ctx key va : Nat) (c : Word) : Option State :=
  match tget? s.ctxs ctx with
  | none => some s
  | some x =>
    match tget? x.accums va with
    | some a => some (s.modCtx ctx fun x => { x with accums := tput x.accums va (a.add c) })
    | none => (s.sliceRoom (sliceOf key)).map fun s => s.modCtx ctx fun x =>
        { x with accums := tput x.accums va (Accum.add { slice := sliceOf key } c) }

end Sys2Proof.Machine
end

