-- ==== Sys2Proof/Machine/Elementary.lean ====
section
/-! DEFINITION. The correctly rounded functions of R57: base-2 exponential and logarithm, sine and cosine of πx.
Each is computed in fixed point as an interval that holds the exact value; the precision doubles until both ends
round to one result. A value that is exactly representable is answered exactly first. -/

namespace Sys2Proof.Machine

/-- Σ of a series in fixed point: `term k` for k below `n`, added up. -/
def sumTo (n : Nat) (term : Nat → Nat) : Nat := (List.range n).foldl (fun a k => a + term k) 0

/-- ln 2 · 2^P, from Σ 1/(k·2^k); low by less than P + 2. -/
def ln2Fix (P : Nat) : Nat := sumTo (P + 1) fun k => 2 ^ P / ((k + 1) * 2 ^ (k + 1))

/-- arctan(1/m) · 2^P by its alternating series. -/
def atanInvFix (P m : Nat) : Nat :=
  let n := P / 4 + 4
  let t (k : Nat) := 2 ^ P / ((2 * k + 1) * m ^ (2 * k + 1))
  sumTo n (fun k => if k % 2 = 0 then t k else 0) - sumTo n (fun k => if k % 2 = 1 then t k else 0)

/-- π · 2^P by Machin's formula, within P + 16 units. -/
def piFix (P : Nat) : Nat := 16 * atanInvFix P 5 - 4 * atanInvFix P 239

/-- exp(t) · 2^P for t·2^P below 2^P, summing terms t^k/k! while they are nonzero, at most `n`. -/
def expFix (P t : Nat) : Nat :=
  ((List.range (P / 3 + 12)).foldl (fun (acc : Nat × Nat) k => (acc.1 + acc.2, acc.2 * t / 2 ^ P / (k + 1))) (0, 2 ^ P)).1

/-- sin(t) · 2^P for 0 ≤ t ≤ π/2. -/
def sinFix (P t : Nat) : Nat :=
  let t2 := t * t / 2 ^ P
  let r := (List.range (P / 6 + 12)).foldl (fun (acc : Nat × Nat × Nat) k =>
    let (p, n, x) := acc
    (if k % 2 = 0 then p + x else p, if k % 2 = 1 then n + x else n, x * t2 / 2 ^ P / ((2 * k + 2) * (2 * k + 3)))) (0, 0, t)
  r.1 - r.2.1

/-- ln(1 + z)/(1 − z)) / 2 · 2^P = atanh(z) · 2^P for 0 ≤ z ≤ 1/5, z·2^P given. -/
def atanhFix (P z : Nat) : Nat :=
  let z2 := z * z / 2 ^ P
  ((List.range (P / 4 + 8)).foldl (fun (acc : Nat × Nat) k =>
    (acc.1 + acc.2 / (2 * k + 1), acc.2 * z2 / 2 ^ P)) (0, z)).1

/-- Rounds the exact value known only as an interval lo..hi (times 2^e) by raising the precision. `eval P` answers
the sign, the ends and the exponent; after the last precision the low end is taken. -/
def roundInterval (f : FFmt) (rm : Rnd) (eval : Nat → Bool × Nat × Nat × Int) : List Nat → Nat × Word
  | [] => (0, 0)
  | P :: rest =>
    let (neg, lo, hi, e) := eval P
    let a := f.round rm neg (2 * lo + 1) 2 e
    let b := f.round rm neg (2 * hi + 1) 2 e
    if lo ≠ 0 ∧ a = b ∨ rest = [] then a else roundInterval f rm eval rest

/-- The precisions tried. -/
def precisions : List Nat := [96, 224, 480, 800]

/-- The slack put around a fixed-point value at precision P. -/
def slack (P : Nat) : Nat := 4 * P + 256

/-- The ends of an interval around a fixed-point value. -/
def around (P x : Nat) : Nat × Nat := (x - slack P, x + slack P)

namespace FFmt

/-- rnd(2^a) (R57). -/
def exp2 (f : FFmt) (rm : Rnd) (a : Nat) : Nat × Word :=
  match f.value a with
  | .nan x => f.nanResult [x]
  | .inf neg => (if neg then 0 else f.infBits, 0)
  | .fin neg m e =>
    if m = 0 then (f.one, 0) else
    if 16 ≤ (Nat.log2 m : Int) + e then
      -- |a| ≥ 2^16: beyond every format's range
      (if neg then f.round rm false 1 1 (-100000) else f.round rm false 1 1 100000)
    else
    -- a = n + r/den with 0 ≤ r < den
    let den := 2 ^ (-e).toNat
    let num := m * 2 ^ e.toNat
    let n : Int := if neg then -(((num + den - 1) / den : Nat) : Int) else ((num / den : Nat) : Int)
    let r := if neg then (den - num % den) % den else num % den
    if r = 0 then f.round rm false 1 1 n else
    roundInterval f rm (fun P =>
      let t := r * 2 ^ P / den * ln2Fix P / 2 ^ P
      let (lo, hi) := around P (expFix P t)
      (false, lo, hi, n - P)) precisions

/-- rnd(log2 a) (R57). -/
def log2 (f : FFmt) (rm : Rnd) (a : Nat) : Nat × Word :=
  match f.value a with
  | .nan x => f.nanResult [x]
  | .inf neg => if neg then (f.genNaN, fNV) else (f.infBits, 0)
  | .fin neg m e =>
    if m = 0 then (f.withSign true f.infBits, fDZ) else if neg then (f.genNaN, fNV) else
    let l := Nat.log2 m
    -- a = M/2^l · 2^E with M/2^l in [3/4, 3/2)
    let (M, d, E) := if 3 * 2 ^ l ≤ 2 * m then (m, 2 ^ (l + 1), e + l + 1) else (m, 2 ^ l, e + l)
    if M = d then (if E = 0 then (0, 0) else f.round rm (decide (E < 0)) E.natAbs 1 0) else
    roundInterval f rm (fun P =>
      let diff : Int := (M : Int) - d
      let z := diff.natAbs * 2 ^ P / (M + d)
      let y := 2 * atanhFix P z * 2 ^ P / ln2Fix P
      let v : Int := E * 2 ^ P + (if diff < 0 then -(y : Int) else y)
      let (lo, hi) := around P v.natAbs
      (decide (v < 0), lo, hi, -(P : Int))) precisions

/-- sin(π·r/den) for 0 < r/den < 1/2, rounded, with a sign. -/
def sinFrac (f : FFmt) (rm : Rnd) (neg : Bool) (r den : Nat) : Nat × Word :=
  roundInterval f rm (fun P =>
    let (lo, hi) := around P (sinFix P (r * 2 ^ P / den * piFix P / 2 ^ P))
    (neg, lo, hi, -(P : Int))) precisions

/-- sin(π·r/den) for 0 ≤ r < 2·den, the sign changed by `neg`; a zero has the sign `zneg` (R57). -/
def sinTurn (f : FFmt) (rm : Rnd) (neg zneg : Bool) (r den : Nat) : Nat × Word :=
  if r % den = 0 then (f.withSign zneg 0, 0) else
  let neg := if den < r then !neg else neg
  let r := r % den
  if 2 * r = den then (f.withSign neg f.one, 0)
  else if 2 * r < den then f.sinFrac rm neg r den
  else f.sinFrac rm neg (den - r) den

/-- rnd(sin(πa)) (R57). -/
def sinpi (f : FFmt) (rm : Rnd) (a : Nat) : Nat × Word :=
  match f.value a with
  | .nan x => f.nanResult [x]
  | .inf _ => (f.genNaN, fNV)
  | .fin neg m e =>
    let den := 2 ^ (-e).toNat
    f.sinTurn rm neg (neg && m != 0) (m * 2 ^ e.toNat % (2 * den)) den

/-- rnd(cos(πa)) = rnd(sin(π(|a| + 1/2))) (R57). -/
def cospi (f : FFmt) (rm : Rnd) (a : Nat) : Nat × Word :=
  match f.value a with
  | .nan x => f.nanResult [x]
  | .inf _ => (f.genNaN, fNV)
  | .fin _ m e =>
    let den := 2 * 2 ^ (-e).toNat
    f.sinTurn rm false false ((2 * m * 2 ^ e.toNat + den / 2) % (2 * den)) den

end FFmt

end Sys2Proof.Machine
end

