-- ==== Sys2Proof/Machine/Memory.lean ====
section
/-! DEFINITION. Performing accesses: what a load reads (R86, R91, R92), atomic operations (R188, R189), what a store
writes, requests to other devices (R103 to R105), stash fills (R82), and held reports made (R393). -/

namespace Sys2Proof.Machine

/-! ### Values -/

/-- A loaded value as its register takes it (R125). -/
def extendLoad (ty : MemTy) (x : Nat) : Nat :=
  match ty with
  | .i8 => ofInt 32 (sext 8 x)
  | .i16 => ofInt 32 (sext 16 x)
  | _ => x

/-- A loaded value as `sD` takes it (R187). -/
def extendLds (ty : MemTy) (x : Nat) : DWord :=
  match ty with
  | .i8 => BitVec.ofInt 64 (sext 8 x)
  | .i16 => BitVec.ofInt 64 (sext 16 x)
  | .n8 | .n16 => BitVec.ofNat 64 x
  | .alu t => if t.is64 then BitVec.ofNat 64 x
    else match t with | .i32 => BitVec.ofInt 64 (sext 32 x) | _ => BitVec.ofNat 64 x

/-- A lane's destination written with a value of a memory type (R185). -/
def writeMemD (w : Wave) (ty : MemTy) (d l x : Nat) : Wave :=
  if ty.is64 then w.setV64 d l (BitVec.ofNat 64 x) else w.setV d l (BitVec.ofNat 32 (extendLoad ty x))

/-- The value that an atomic operation writes, if it writes (R188). -/
def atomNew (op : AtomOp) (ty : AluTy) (m v w1 : Nat) : Option Nat :=
  let w := if ty.is64 then 64 else 32
  let i (x : Nat) : Int := if ty.signed then sext w x else x
  let f := tyFmt ty
  match op with
  | .add => some ((m + v) % 2 ^ w)
  | .min => some (if i v < i m then v else m)
  | .max => some (if i m < i v then v else m)
  | .and => some (m &&& v)
  | .or => some (m ||| v)
  | .xor => some (m ^^^ v)
  | .exch => some v
  | .cas => if m = v then some w1 else none
  | .upto => some (if i m < i v then (m + 1) % 2 ^ w else m)
  | .downto => some (if i v < i m then (m + 2 ^ w - 1) % 2 ^ w else m)
  | .fadd => some (perElem ty (fun a b _ => f.add .rne a b) m v 0).1
  | .fmin => some (f.fmin m v).1
  | .fmax => some (f.fmax m v).1

/-- Bytes of an atomic type. -/
def atomBytes (ty : AluTy) : Nat := if ty.is64 then 8 else 4

/-! ### The stash -/

/-- A number put into a sorted list without repeats. -/
def insertNat (n : Nat) : List Nat → List Nat
  | [] => [n]
  | m :: ms => if n < m then n :: m :: ms else if n = m then m :: ms else m :: insertNat n ms

/-- Whether a key is a scratch byte. -/
def isScrKey (k : Nat) : Bool := 2 ^ 112 ≤ k && k < 2 ^ 160
/-- The workgroup and offset of a scratch key. -/
def scrPlace (k : Nat) : Nat × Nat := ((k - 2 ^ 112) / 2 ^ 20, (k - 2 ^ 112) % 2 ^ 20)

/-- Scratch bytes of stash entries marked dirty by a store (R82). -/
def State.dirtyStash (s : State) (k n : Nat) : State :=
  if !isScrKey k then s else
  let (wg, off) := scrPlace k
  match tget? s.wgs wg with
  | none => s
  | some W =>
    if W.stash.isEmpty then s else
    s.modWg wg fun W => { W with stash := W.stash.map fun st =>
      { st with dirty := (List.range n).foldl (fun d i =>
          if st.off ≤ off + i && off + i < st.off + st.len then insertNat (off + i - st.off) d else d) st.dirty } }

/-- The stash line that a scratch byte needs filled, if any: the entry and the line (R82). -/
def needsFill (s : State) (k : Nat) : Option (Nat × Stash × Nat) :=
  if !isScrKey k then none else
  let (wg, off) := scrPlace k
  (tget? s.wgs wg).bind fun W => W.stash.findSome? fun st =>
    if st.off ≤ off && off < st.off + st.len then
      let line := (off - st.off) / 128
      if !st.filled.contains line || st.stale.contains line then some (wg, st, line) else none
    else none

/-- A stash line filled from global memory, its dirty bytes kept (R82); the fault of its translation, or of its data (R15). The
error 0 is a wait, for a reclaimed range or a line that is held. -/
def State.fillStash (s : State) (ctx : Nat) (c : Context) (core : Nat) (wg : Nat) (st : Stash) (line : Nat) :
    Except (Byte × DWord) State :=
  let va := st.va.toNat + 128 * line
  let err (f : Byte) : Except (Byte × DWord) State := .error (f, BitVec.ofNat 64 va)
  match translate s (some core) ctx (c.seen s ((tget? s.wgs wg).bind fun W => tget? s.launches W.launch)) va .read with
  | .error f => err f
  | .ok p =>
    if tideLocked s p.key 128 then err 0
    else if badLine s p.key || badLine s (p.key + 64) then err 0x40
    else
      let s := (List.range 128).foldl (fun s i =>
        if st.dirty.contains (128 * line + i) then s
        else { s with mem := memSet s.mem (scrKey wg (st.off + 128 * line + i)) (memGet s.mem (p.key + i)) }) s
      .ok (s.modWg wg fun W => { W with stash := W.stash.map fun x =>
        if x.off = st.off then { x with filled := insertNat line x.filled, stale := x.stale.filter (· ≠ line) } else x })

/-- The stash lines of scratch bytes filled before an engine or an instruction touches them (R82). -/
def State.fillKeys (s : State) (ctx core : Nat) (ks : List Nat) : Except (Byte × DWord) State :=
  match tget? s.ctxs ctx with
  | none => .ok s
  | some c => ks.foldlM (fun s k => match needsFill s k with
      | none => .ok s
      | some (wg, st, line) => s.fillStash ctx c core wg st line) s

/-! ### Requests to other devices -/

/-- The bytes of a window that a request touches: its offset and length. -/
def reqSpan : RemoteReq → Nat × Nat
  | .load off n => (off, n)
  | .store off bs | .tide _ _ off bs => (off, bs.length)
  | .atom _ ty off _ _ | .red _ ty off _ => (off, atomBytes ty)

/-- The 64-byte lines of a window that a request touches, named with the window's context. -/
def reqLines (ctx off n : Nat) : List Nat :=
  let l0 := off / 64
  (List.range ((off + n - 1) / 64 - l0 + 1)).map fun i => ctx * 2 ^ 64 + (l0 + i)

/-- A request sent to another device with the core's next sequence number and the one above that of its last request on one
of the same lines; stores, atoms and reds are counted for the next marker (R103 to R105). -/
def State.sendReq (s : State) (core ctx dev : Nat) (counted : Bool) (req : RemoteReq) : State :=
  let k := s.core core
  let n := tgetD k.seqno dev 0
  let lines := (reqLines ctx (reqSpan req).1 (reqSpan req).2).map fun l => dev * 2 ^ 128 + l
  let prev := lines.foldl (fun a l => max a (tgetD k.lineSeq l 0)) 0
  (s.sendTo dev (.request dev ⟨s.fabric.index, ctx, core⟩ n prev req)).modCore core fun k => { k with
    seqno := tput k.seqno dev (n + 1)
    lineSeq := lines.foldl (fun t l => tput t l (n + 1)) k.lineSeq
    sent := if counted then tput k.sent dev (tgetD k.sent dev 0 + 1) else k.sent }

/-! ### Reports -/

/-- A record with no token for a report whose lane can no longer take it (R222). DESIGN CHOICE: so is that of a contribution refused
after its lane exited, which is then dropped (R192; log entry 65). -/
def State.looseReport (s : State) (id : Nat) (pc : DWord) (r : Report) : State :=
  match (tget? s.wgs (wgOf id)).bind fun wg => (tget? s.launches wg.launch).map fun L => (wg, L) with
  | none => s
  | some (wg, L) =>
    let wid : DWord := match L.header with
      | some H => BitVec.ofNat 64 (workId H L.counts wg.index (id % 32) r.lane)
      | none => 0
    let rem := remoteFault false r.code r.addr
    let bytes := faultBytes r.code 3 (recordFlags rem false r.write false) (laneBit r.lane) r.addr pc L.seq
      wid L.queue wg.core 0 r.prog (if rem then remoteDev r.addr else 0) 0
    (s.failTides id r.code).modCtx L.ctx fun c => { c with faults := c.faults ++ [{ bytes, code := r.code, wave := none }] }

/-- A report held by its lane, or given to the context where the lane has exited (R183: DESIGN CHOICE, log entry 65). -/
def State.report (s : State) (id : Nat) (pc : DWord) (r : Report) : State :=
  let w := s.wave id
  if w.pc r.lane == exitedPc then s.looseReport id pc r
  else s.modWave id fun w => { w with reports := w.reports ++ [r] }

/-! ### Loads -/

/-- The byte of a lane store at a key. -/
def LaneStore.byteAt (x : LaneStore) (k : Nat) : Option Byte :=
  match x.op with
  | .plain bs => if x.acc.remote then none else (bs.zipIdx.find? fun (_, i) => byteKey x.acc.key i = k).map (·.1)
  | _ => none

/-- The byte of the youngest older pending store of the wave (R92): in one store the highest lane wins (R87). -/
def forwarded (fifo : List PendingStore) (wave stamp k : Nat) : Option Byte :=
  fifo.foldl (fun acc p =>
    if p.wave = wave && p.stamp < stamp then p.lanes.foldl (fun acc x => x.byteAt k <|> acc) acc else acc) none

/-- Whether the wave has an older pending reduction, which its loads wait for (R91). -/
def olderRed (fifo : List PendingStore) (wave stamp : Nat) : Bool :=
  fifo.any fun p => p.wave = wave && p.stamp < stamp && p.lanes.any fun x => match x.op with | .red .. => true | _ => false

/-- Whether a core may keep an L1 copy of a key (R86). -/
def cachedKey (k : Nat) : Bool := isDevKey k || isHostKey k

/-- A byte as a load reads it: forwarded, from the core's copy where the access may use it, or from memory. -/
def loadByte (s : State) (c : CoreState) (wave stamp : Nat) (l1 : Bool) (k : Nat) : Byte :=
  match forwarded c.fifo wave stamp k with
  | some b => b
  | none =>
    match (if l1 && cachedKey k then tget? c.copies (k / 8) else none) with
    | some x => (x >>> (8 * (k % 8))).setWidth 8
    | none => memGet s.mem k

/-- `n` bytes as a load reads them, little-endian. -/
def loadBytes (s : State) (c : CoreState) (wave stamp : Nat) (l1 : Bool) (k n : Nat) : Nat :=
  leNat ((List.range n).map fun i => loadByte s c wave stamp l1 (byteKey k i))

/-- The 8-byte parts of the 128-byte lines that bytes at a key lie in. -/
def lineParts (k n : Nat) : List Nat :=
  ((List.range ((k + n - 1) / 128 - k / 128 + 1)).map fun i => k / 128 + i).flatMap fun l => (List.range 16).map fun i => 16 * l + i

/-- The core's copies of whole lines after bytes of them were read at the home slice: refreshed, and taken unless the policy
is `.hs` (R86). -/
def State.takeCopy (s : State) (core : Nat) (pol : Policy) (k n : Nat) : State :=
  if !cachedKey k then s else
  let near := s.mem.filter fun c => k / 128 ≤ c.1 / 128 && c.1 / 128 ≤ (k + n - 1) / 128
  s.modCore core fun c => { c with copies := (lineParts k n).foldl (fun t p =>
    if pol == .hs && (tget? t p).isNone then t else tput t p (BitVec.ofNat 64 (leNat (memRead near (8 * p) 8)))) c.copies }

/-- A value of an atomic type as the core's copy holds it. -/
def CoreState.copyAt (c : CoreState) (k n : Nat) : Option Nat :=
  (tget? c.copies (k / 8)).map fun x => x.toNat / 2 ^ (8 * (k % 8)) % 2 ^ (8 * n)

/-- Bytes written to memory where a core performs them: memory, the core's copies, stash dirty bits. -/
def State.store (s : State) (core k : Nat) (bs : List Byte) : State :=
  if isPrvKey k then { s with mem := bs.zipIdx.foldl (fun m (b, i) => memSet m (byteKey k i) b) s.mem } else
  let s := s.writeAt k bs
  let s := if cachedKey k then s.modCore core fun c => { c with copies := updateCopies c.copies k bs } else s
  s.dirtyStash k bs.length

/-- Every core's copies after bytes of memory were written at the home slice by a write that each of them follows (R286). -/
def State.refreshCopies (s : State) (cells : Table Byte) : State :=
  { s with cores := tmap s.cores fun _ c => { c with
      copies := cells.foldl (fun t (k, b) => if cachedKey k then updateCopies t k [b] else t) c.copies } }

/-- A number of `n` bytes at the key of an access. -/
def State.numAt (s : State) (k n : Nat) : Nat := leNat ((List.range n).map fun i => memGet s.mem (byteKey k i))

/-- Whether an atomic access, by the scope that it executes at, acts on its core's L1 copy (R90, R97). -/
def inL1 (x : LaneAcc) : Bool := !atLeast x.scope .gng && isDevKey x.key && !x.repl

/-- A read-modify-write at its execution point (R97, R98): the old value and the state. At a core's L1 it reads the core's copy,
where `hit` says that the line is still held, and takes the line otherwise; the write goes through to the home slice. -/
def State.rmw (s : State) (core : Nat) (hit : Bool) (pol : Policy) (x : LaneAcc) (op : AtomOp) (ty : AluTy)
    (v w1 : Nat) : Nat × State :=
  let n := atomBytes ty
  let held : Option Nat := if hit && inL1 x then (s.core core).copyAt x.key n else none
  let s := if held.isSome then s else s.takeCopy core (if inL1 x then pol else .hs) x.key n
  let m := held.getD (s.natAt x.key n)
  match atomNew op ty m v w1 with
  | some y => (m, s.store core x.key (leBytes n y))
  | none => (m, s)

/-! ### Copies of remote words (R86, R103) -/

/-- Whether an entry of the remote copies overlaps `n` bytes at a remote VA, which comes with its context as in `LaneAcc.key`. -/
def remoteMeets (p va n : Nat) : Bool := p / 16 < va + n && va < p / 16 + p % 16
/-- The remote copies after a value of `n` bytes was read at a remote VA: no other copy of its bytes stays. -/
def keepRemote (t : Table DWord) (va n : Nat) (v : DWord) : Table DWord :=
  tput (tfilter t fun p _ => !remoteMeets p va n) (16 * va + n) v
/-- The remote copies after the core's own store to a remote VA: their bytes are updated. -/
def storeRemote (t : Table DWord) (va : Nat) (bs : List Byte) : Table DWord :=
  tmap t fun p x =>
    if !remoteMeets p va bs.length then x else
    BitVec.ofNat 64 (leNat ((List.range (p % 16)).map fun i =>
      let a := p / 16 + i
      match (if va ≤ a then bs[a - va]? else none) with | some b => b | none => (x >>> (8 * i)).setWidth 8))
/-- The remote copies without those of `n` bytes at a remote VA. -/
def dropRemote (t : Table DWord) (va n : Nat) : Table DWord := tfilter t fun p _ => !remoteMeets p va n

end Sys2Proof.Machine
end

