-- ==== Sys2Proof/Machine/MemOps.lean ====
section
/-! DEFINITION. The memory-class instructions (R182 to R198) at issue: loads, stores, atomics, reductions, backwash adds
and flushes, hints, fences, mooring and the stash. What a counted one does when it is performed is in `Complete`. -/

namespace Sys2Proof.Machine

/-! ### One access per lane -/

/-- The index register of a memory operand exists. -/
def Env.memOk (e : Env) (m : Mem) : Bool := match m.index with | some (b, _) => e.vTy false b.toNat | none => true
/-- A lane's effective address (R126). -/
def Env.ea (e : Env) (m : Mem) (l : Nat) : DWord := effAddr e.w m.base m.index m.off l

/-- The lanes' accesses: a target or why there is none. -/
abbrev LaneTargets := List (Nat × Except AccErr Target)

/-- The faults among the lanes' accesses. -/
def LaneTargets.faults (rs : LaneTargets) : List (Nat × Byte × DWord) :=
  rs.filterMap fun (l, r) => match r with | .error (.fault c a) => some (l, c, a) | _ => none
/-- The resolved accesses. -/
def LaneTargets.oks (rs : LaneTargets) : List (Nat × Target) :=
  rs.filterMap fun (l, r) => match r with | .ok t => some (l, t) | _ => none

/-- Whether some access waits for a tide lock. -/
def LaneTargets.stalls (rs : LaneTargets) : Bool := rs.any fun (_, r) => match r with | .error .stall => true | _ => false
/-- Whether some access meets a reclaimed range. -/
def LaneTargets.absorbs (rs : LaneTargets) : Bool := rs.any fun (_, r) => match r with | .error .absorb => true | _ => false

/-- The stash line that an access of `size` bytes needs filled. -/
def fillFor (s : State) (size : Nat) (t : Target) : Option (Nat × Stash × Nat) :=
  if !t.scr then none else needsFill s t.acc.key <|> needsFill s (t.acc.key + size - 1)

/-- One lane's stash lines filled before its access; a fill that faults is the lane's fault (R82). -/
def fillLane (e : Env) (size : Nat) (st : State × LaneTargets) (x : Nat × Except AccErr Target) : State × LaneTargets :=
  let go (s : State) (t : Target) : Except (Byte × DWord) State :=
    match fillFor s size t with
    | none => .ok s
    | some (wg, en, line) => s.fillStash e.ctx e.c e.wg.core wg en line
  match x with
  | (l, .ok t) =>
    match go st.1 t with
    | .error (f, va) => (st.1, st.2 ++ [(l, .error (if f = 0 then .absorb else .fault f va))])
    | .ok s => match go s t with
      | .error (f, va) => (s, st.2 ++ [(l, .error (if f = 0 then .absorb else .fault f va))])
      | .ok s => (s, st.2 ++ [(l, .ok t)])
  | x => (st.1, st.2 ++ [x])

/-- The accesses made ready: a wave whose lanes meet a tide lock or a reclaimed range waits; stash lines are filled once
the wave's own operations are performed (R82, R286, R352). -/
def memPrep (e : Env) (s : State) (size : Nat) (addr : Nat → DWord) (rs : LaneTargets) (k : State → LaneTargets → Res) : Res :=
  let vas := rs.map fun (l, _) => addr l
  if rs.absorbs then absorbWait e s vas
  else if rs.stalls then block e s
  else if rs.any (fun (_, r) => match r with | .ok t => (fillFor s size t).isSome | _ => false) then
    if !settled s e then block e s else
    let (s', rs') := rs.foldl (fillLane e size) (s, [])
    if rs'.absorbs then absorbWait e s' (rs.filterMap fun (_, r) => match r with
      | .ok t => (fillFor s size t).map fun (_, en, line) => en.va + BitVec.ofNat 64 (128 * line)
      | _ => none)
    else k s' rs'
  else k s rs

/-- The fates of an instruction whose lanes complete but for those with a fault. -/
def laneFates (fs : List (Nat × Byte × DWord)) (l : Nat) : Fate :=
  match fs.find? fun x => x.1 = l with | some (_, c, a) => .fault c a | none => .adv

/-- The end of a memory instruction: lanes with a fault keep their PC, the others advance; notices of faults found at
this device's own export window (R24, R358). -/
def memFinish (e : Env) (s : State) (space : Space) (write : Bool) (fs : List (Nat × Byte × DWord)) : Res :=
  finish e (if space == .glb then s.ownNotices e.ctx write fs else s) (laneFates fs) write (space != .glb)

/-- The widest scope that the lanes' accesses execute at (R90). -/
def widest (space : Space) (sc : Scope) (atomic : Bool) (ts : List (Nat × Target)) : Scope :=
  ts.foldl (fun a (_, t) => let x := executedScope space sc t atomic; if atLeast x a then x else a) .wv

/-- The reports that a release of lanes to their targets takes (R393): each lane's own executed scope decides. -/
def laneFalls (space : Space) (sc : Scope) (atomic : Bool) (ts : List (Nat × Target)) (r : Report) : Bool :=
  match ts.find? fun x => x.1 = r.lane with
  | some (_, t) => fallsAt (executedScope space sc t atomic) r
  | none => false

/-- The stash written back before the lanes that release at `.gng` or wider perform their access: a fault of it falls on each of
those lanes, but for one that meets a fault of its own, and the other lanes complete (R9, R198). -/
def laneRelease (e : Env) (s : State) (space : Space) (sc : Scope) (atomic : Bool) (rs : LaneTargets)
    (k : State → LaneTargets → Res) : Res :=
  let far (t : Target) : Bool := atLeast (executedScope space sc t atomic) .gng
  if !(rs.oks.any fun (_, t) => far t) || e.wg.stash.isEmpty then k s rs
  else if !releaseReady s e (widest space sc atomic rs.oks) then block e s
  else match s.stashBack e.wgId (fun _ _ => true) with
    | (s, none) => k s rs
    | (s, some (f, va)) =>
      if f = 0 then absorbWait e s [va] else
      k s (rs.map fun (l, r) => (l, match r with | .ok t => if far t then .error (.fault f va) else .ok t | r => r))

/-- A peer's RESTARTABLE clears when its scratch is accessed (R368). -/
def State.touchPeers (s : State) (e : Env) (ts : List (Nat × Target)) : State :=
  ts.foldl (fun s (_, t) => if t.scr && (scrPlace t.acc.key).1 ≠ e.wgId then s.sideEffect (scrPlace t.acc.key).1 else s) s

/-- RESTARTABLE clears when a lane writes outside its workgroup, or performs an operation that always clears it (R368). -/
def State.touches (s : State) (e : Env) (always : Bool) (ts : List (Nat × Target)) : State :=
  let own (t : Target) : Bool := t.scr && (scrPlace t.acc.key).1 = e.wgId
  let s := if ts.any fun (_, t) => always || !(own t || isPrvKey t.acc.key) then s.sideEffect e.wgId else s
  s.touchPeers e ts

/-! ### Loads -/

/-- The lanes' accesses of a load. -/
def loadTargets (s : State) (e : Env) (space : Space) (size : Nat) (three : Bool) (addr : Nat → DWord) (lanes : List Nat) :
    LaneTargets :=
  lanes.map fun l => (l, if three then resolve3 s e .load space l (addr l) else resolve s e .load space size true l (addr l))

/-- Whether a lane's fault is spared because it is a helper. -/
def helperSpared (e : Env) (l : Nat) (c : Byte) : Bool := e.w.helpers.getLsbD l && spared c

/-- A load joins the wave's pending loads and holds the ld counter (R130, R131). -/
def State.pushLoad (s : State) (e : Env) (op : LoadOp) (acc : List LaneAcc) (sc : Scope) (ord : Order) (pol : Policy)
    (zeros : LaneMask) : State :=
  let (st, s) := s.newId
  s.modWave e.id fun w => { w with
    loads := w.loads ++ [⟨op, st, e.pc, e.active, acc, sc, ord, pol, zeros, none⟩], ldCnt := w.ldCnt + 1 }

/-- A counted load per lane (R185, R186). -/
def loadLanes (e : Env) (s : State) (m : Mem) (size : Nat) (three : Bool) (op : LoadOp) : Res :=
  if e.enabled = 0 then done e s
  else if e.w.ldCnt = 63 then block e s
  else
    memPrep e s size (e.ea m) (loadTargets s e m.space size three (e.ea m) (lanesOf e.enabled)) fun s rs =>
      let fs := rs.faults.filter fun (l, c, _) => !helperSpared e l c
      let zeros := maskOf fun l => rs.faults.any fun (k, c, _) => k = l && helperSpared e l c
      let ts := rs.oks
      let s := s.touchPeers e ts
      if ts.isEmpty && zeros = 0 then memFinish e s m.space false fs else
      let ord := if m.space == .prv then .rlx else m.ord
      memFinish e (s.pushLoad e op (ts.flatMap fun (_, t) => lanesAcc s e .load m.space m.scope three t)
        (widest m.space m.scope false ts) ord m.pol zeros) m.space false fs

/-- `ld` (R185). -/
def execLd (m : Mem) (s : State) : Res :=
  issue m.g s fun e =>
    if !(e.vTy m.ty.is64 m.d.toNat && e.memOk m) then illegalIssue e s 0x01
    else loadLanes e s m m.ty.bytes false (.ld m.d.toNat m.ty)

/-- Bytes per lane of a narrow image (R186). -/
def narrowBytes (f : NFmt) : Nat := if f.ct = 1 then 3 else 4

/-- The checks of `ldq` and `stq`: registers, and the format register (R61, R170, R186). -/
def withGroup (m : Mem) (fr : Nat) (s : State) (k : Env → NFmt → Word → Res) : Res :=
  issue m.g s fun e =>
    let w := e.w.freg fr
    if !(e.vTy false m.d.toNat && e.memOk m) then illegalIssue e s 0x01
    else if !NFmt.valid w then illegalIssue e s 0x31
    else if !e.vOk m.d.toNat (NFmt.ofWord w).count then illegalIssue e s 0x01
    else k e (NFmt.ofWord w) w

/-- `ldq` (R186). -/
def execLdq (m : Mem) (f : BitVec 4) (s : State) : Res :=
  withGroup m f.toNat s fun e fm w =>
    loadLanes e s m (narrowBytes fm) (fm.ct = 1) (.ldq m.d.toNat w m.rnd)

/-- `lds`: one access for the issue (R187). -/
def execLds (m : Mem) (s : State) : Res :=
  issue m.g s fun e =>
    if e.enabled = 0 then done e s
    else if e.w.ldCnt = 63 then block e s
    else
      let l := lowLane e.enabled
      let va := e.ea m l
      memPrep e s m.ty.bytes (fun _ => va) (loadTargets s e m.space m.ty.bytes false (fun _ => va) [l]) fun s rs =>
        let ord := if m.space == .prv then .rlx else m.ord
        let op := LoadOp.lds m.d.toNat m.ty e.enabled
        match rs.faults with
        | (_, c, a) :: _ =>
          if e.active = 0 && spared c then done e (s.pushLoad e op [] .wv ord m.pol (laneBit l))
          else memFinish e s m.space false ((lanesOf e.enabled).map fun l => (l, c, a))
        | [] =>
          let ts := rs.oks
          done e ((s.touchPeers e ts).pushLoad e op (ts.map fun (_, t) => t.at m.space m.scope false)
            (widest m.space m.scope false ts) ord m.pol 0)

/-! ### Stores and reductions -/

/-- A store joins its core's store order and holds the st counter (R92, R130, R131). -/
def State.pushStore (s : State) (e : Env) (ls : List LaneStore) (sc : Scope) (pol : Policy) (rel : Bool) : State :=
  let (st, s) := s.newId
  let s := s.modCore e.wg.core fun c => { c with
    fifo := c.fifo ++ [⟨e.id, st, e.pc, e.ctx, sc, pol, ls, true, rel, none⟩] }
  s.modWave e.id fun w => { w with stCnt := w.stCnt + 1 }

/-- A lane's writes: one, or one per byte of a 3-byte access. -/
def laneStores (accs : List LaneAcc) (op : StoreOp) : List LaneStore :=
  match accs, op with
  | [a], op => [⟨a, op⟩]
  | accs, .plain bs => (accs.zip bs).map fun (a, b) => ⟨a, .plain [b]⟩
  | accs, op => accs.map fun a => ⟨a, op⟩

/-- A counted store-class instruction of the lanes that are not helpers (R184, R185, R189). -/
def storeLanes (e : Env) (s : State) (kind : AccKind) (m : Mem) (size : Nat) (three : Bool) (ord : Order)
    (op : Nat → Target → StoreOp) (effect : State → List (Nat × Target) → State) : Res :=
  let atomic := kind.rmw
  let targets (e : Env) : LaneTargets := (lanesOf e.active).map fun l =>
    (l, if three then resolve3 s e kind m.space l (e.ea m l) else resolve s e kind m.space size true l (e.ea m l))
  gateLanes e (fun r => isRelease ord && laneFalls m.space m.scope atomic (targets e).oks r) fun e =>
    if e.active = 0 then done e s
    else if e.w.stCnt = 63 then block e s
    else
      let sc := widest m.space m.scope atomic (targets e).oks
      let go (s : State) (rs : LaneTargets) : Res :=
        memPrep e s size (e.ea m) rs fun s rs =>
          let ts := rs.oks
          if ts.isEmpty then memFinish e s m.space true rs.faults else
          let s := effect (s.touches e (match kind with | .store => false | _ => true) ts) ts
          memFinish e (s.pushStore e (ts.flatMap fun (l, t) => laneStores (lanesAcc s e kind m.space m.scope three t) (op l t)) sc m.pol
            (isRelease ord)) m.space true rs.faults
      if isRelease ord then laneRelease e s m.space m.scope atomic (targets e) go else go s (targets e)

/-- The value that a lane stores, of a memory type (R185). -/
def storeValue (w : Wave) (ty : MemTy) (d l : Nat) : Nat := if ty.is64 then (w.vreg64 d l).toNat else (w.vreg d l).toNat

/-- `st` (R185). -/
def execSt (m : Mem) (s : State) : Res :=
  issue m.g s fun e =>
    if !(e.vTy m.ty.is64 m.d.toNat && e.memOk m) then illegalIssue e s 0x01 else
    let ord := if m.space == .prv then .rlx else m.ord
    storeLanes e s .store m m.ty.bytes false ord
      (fun l _ => .plain (leBytes m.ty.bytes (storeValue e.w m.ty m.d.toNat l))) fun s _ => s

/-- The packed image that a lane's `stq` stores, and its flags (R186). -/
def stqLane (e : Env) (f : NFmt) (rm : Rnd) (d l : Nat) : Nat × Word :=
  let (qs, fl) := gatherFlags ((List.range f.count).map fun j =>
    encodeScaled f rm (srhash 0 (e.wid l).toNat j) (e.w.vreg (d + j) l).toNat (.fin false 1 0))
  (f.pack qs, fl)

/-- `stq` (R186). -/
def execStq (m : Mem) (f : BitVec 4) (s : State) : Res :=
  withGroup m f.toNat s fun e fm _ =>
    let ord := if m.space == .prv then .rlx else m.ord
    let z := narrowBytes fm
    storeLanes e s .store m z (fm.ct = 1) ord (fun l _ => .plain (leBytes z (stqLane e fm m.rnd m.d.toNat l).1))
      fun s ts => (s.modWave e.id fun w => w.raise (ts.foldl (fun a (l, _) => a ||| (stqLane e fm m.rnd m.d.toNat l).2) 0)).sideEffect e.wgId

/-- The ALU type of a memory type. -/
def aluOf (ty : MemTy) : AluTy := match ty with | .alu t => t | _ => .n32

/-- `red` (R189). -/
def execRed (m : Mem) (op : AtomOp) (s : State) : Res :=
  issue m.g s fun e =>
    if !(e.vTy m.ty.is64 m.d.toNat && e.memOk m) then illegalIssue e s 0x01 else
    storeLanes e s .red m m.ty.bytes false m.ord
      (fun l _ => .red op (aluOf m.ty) (BitVec.ofNat 64 (storeValue e.w m.ty m.d.toNat l))) fun s _ => s

/-- A backwash add: the launch's targeted set gains the words (R190). -/
def bwadd (exact : Bool) (m : Mem) (s : State) : Res :=
  issue m.g s fun e =>
    if !(e.vTy false m.d.toNat && e.memOk m) then illegalIssue e s 0x01 else
    storeLanes e s .bw m 4 false .rlx (fun l _ => .bwadd (exact || e.det) (e.w.vreg m.d.toNat l)) fun s ts =>
      s.modLaunch e.wg.launch fun L => { L with targeted := ts.foldl (fun a (_, t) => insertNat t.acc.va.toNat a) L.targeted }

/-- `bwadd.x` (R190). -/
def execBwaddX (m : Mem) (s : State) : Res := bwadd true m s
/-- `bwadd.r`, which is `bwadd.x` in deterministic mode (R47, R190). -/
def execBwaddR (m : Mem) (s : State) : Res := bwadd false m s

/-! ### Atomics -/

/-- The data registers of an atomic exist (R125, R189). -/
def atomRegs (e : Env) (m : Mem) (op : AtomOp) : Bool :=
  let d := m.d.toNat
  e.vTy m.ty.is64 d && e.memOk m && (op != .cas || (if m.ty.is64 then e.vTy true (d + 2) else e.vTy false (d + 1)))

/-- `atom` (R189): counted in ld; a helper receives 0. -/
def execAtom (m : Mem) (op : AtomOp) (s : State) : Res :=
  issue m.g s fun e =>
    if !atomRegs e m op then illegalIssue e s 0x01 else
    let targets (e : Env) : LaneTargets := (lanesOf e.active).map fun l =>
      (l, resolve s e (.atom op) m.space m.ty.bytes true l (e.ea m l))
    gateLanes e (fun r => isRelease m.ord && laneFalls m.space m.scope true (targets e).oks r) fun e =>
      if e.enabled = 0 then done e s
      else if e.w.ldCnt = 63 then block e s
      else
        let sc := widest m.space m.scope true (targets e).oks
        let helpers := e.enabled &&& e.w.helpers
        let go (s : State) (rs : LaneTargets) : Res :=
          memPrep e s m.ty.bytes (e.ea m) rs fun s rs =>
            let ts := rs.oks
            if ts.isEmpty && helpers = 0 then memFinish e s m.space true rs.faults else
            let d := m.d.toNat
            let vs := ts.map fun (l, _) =>
              (l, BitVec.ofNat 64 (storeValue e.w m.ty d l),
                if op == .cas then BitVec.ofNat 64 (storeValue e.w m.ty (if m.ty.is64 then d + 2 else d + 1) l) else 0)
            let s := s.touches e true ts
            memFinish e (s.pushLoad e (.atom d op m.ty vs) (ts.map fun (_, t) => t.at m.space m.scope true) sc m.ord m.pol helpers)
              m.space true rs.faults
        if isRelease m.ord then laneRelease e s m.space m.scope true (targets e) go else go s (targets e)

/-! ### Flushes, hints and fences -/

/-- `bwflush` (R193): the wave waits until the core's store order is empty, so that every contribution before it is in. Where a word
no longer translates, those flushed before it stay flushed and every enabled lane faults (log entry 57). -/
def execBwflush (g : Guard) (rng : Option (BitVec 8 × BitVec 8 × Word)) (s : State) : Res :=
  waveLevel g true s fun e =>
    if !releaseReady s e .dev then block e s else
    let flush (vas : List Nat) : Res :=
      match s.flushWords e.L (some e.wg.core) vas with
      | (s, none) => done e s
      | (s, some (f, va)) => if f = 0 then absorbWait e s [va] else faultAll e s f va true
    match rng with
    | none => flush e.L.targeted
    | some (d, a, off) =>
      let base := e.w.sreg a.toNat + off.signExtend 64
      let n := (e.w.sreg d.toNat).toNat
      if base.toNat % 4 ≠ 0 ∨ n % 4 ≠ 0 then faultAll e s 0x12 base true
      else flush (e.L.targeted.filter fun va => base.toNat ≤ va && va + 4 ≤ base.toNat + n)

/-- The key of the 128-byte line that a lane names with a hint, where it is local device memory, and whether it is replicated
(R194). -/
def hintLine (s : State) (e : Env) (va : DWord) : Option (Nat × Bool) :=
  if !isLocalVa va then none else
  match translate s (some e.wg.core) e.ctx e.c va.toNat .read with
  | .ok p => if p.host then none else some (p.key / 128 * 128, p.repl)
  | .error _ => none

/-- `prefd`: copies taken into the core's L1 unless the policy is `.hs` (R194). -/
def execPrefd (m : Mem) (s : State) : Res :=
  issue m.g s fun e =>
    if !e.memOk m then illegalIssue e s 0x01 else
    done e ((lanesOf e.enabled).foldl (fun s l =>
      match hintLine s e (e.ea m l) with
      | some (k, _) => if m.pol == .hs || tideLocked s k 128 then s else s.takeCopy e.wg.core m.pol k 128
      | none => s) s)

/-- `cwb.inv`: the core's copies of the line go, a remote line's too (R194). -/
def execCwbInv (m : Mem) (s : State) : Res :=
  issue m.g s fun e =>
    if !e.memOk m then illegalIssue e s 0x01 else
    done e ((lanesOf e.enabled).foldl (fun s l =>
      let va := e.ea m l
      if va.getLsbD 63 then
        s.modCore e.wg.core fun c => { c with remote := tfilter c.remote fun p _ => p / 2048 ≠ (e.ctx * 2 ^ 64 + va.toNat) / 128 }
      else match hintLine s e va with
        | some (k, _) => s.modCore e.wg.core fun c => { c with copies := tfilter c.copies fun p _ => p / 16 ≠ k / 128 }
        | none => s) s)

/-- `cwb.wb`: the home slice writes the line to HBM4, but for a replicated one; nothing a program reads changes (R194). -/
def execCwbWb (m : Mem) (s : State) : Res :=
  issue m.g s fun e =>
    if !e.memOk m then illegalIssue e s 0x01 else
    done e ((lanesOf e.enabled).foldl (fun s l =>
      match hintLine s e (e.ea m l) with | some (k, false) => s.emit (.writeBack k) | _ => s) s)

/-- `fence` (R95, R195): at `.grp` or wider it drains the wave's own operations; a release at `.gng` or wider waits for
the core's store order and writes the stash back, at `.sys` with markers; an acquire drops copies. -/
def execFence (g : Guard) (scope : Scope) (ord : Order) (s : State) : Res :=
  issue g s fun e => gateLanes e (fun r => isRelease ord && fallsAt scope r) fun e =>
    if e.enabled = 0 then done e s
    else if atLeast scope .grp && e.w.marked.isNone && !settled s e then block e s
    else
      let acquire (s : State) : Res := done e (if isAcquire ord then s.acquire e.wg.core e.wgId scope else s)
      if isRelease ord then afterRelease e (s.releaseAt e scope) acquire else acquire s

/-! ### Mooring -/

/-- The condition of `moor` (R196). -/
def moorMet (c : MoorCond) (ty : AluTy) (m v : Nat) : Bool :=
  let w := ty.elemWidth
  let i (x : Nat) : Int := if ty.signed then sext w x else x
  match c with
  | .eq => m == v | .ne => m != v
  | .lt => i m < i v | .le => i m ≤ i v | .gt => i m > i v | .ge => i m ≥ i v
  | .any => (m &&& v) != 0
  | .none => (m &&& v) == 0

/-- The lanes that the `moor` in progress need not read again: those done, and those whose fault it has met (R196). -/
def moorOver (w : Wave) : LaneMask := w.done ||| maskOf fun l => w.emitBad.any fun x => x.1 = l
/-- The wave with a lane marked done and its value written. -/
def moorDone (w : Wave) (ty : MemTy) (d l m : Nat) : Wave :=
  { (writeMemD w ty d l m) with done := w.done ||| laneBit l }

/-- One read of a lane at its target, of a value another device gave where that is remote: uncorrectable data faults the lane,
and a lane whose condition is met, or that is a helper, is done; the core's copy takes what it read (R86, R183, R184). -/
def moorRead (e : Env) (m : Mem) (c : MoorCond) (remote : Nat) (s : State) (l : Nat) (t : Target) : State :=
  let n := m.ty.bytes
  if !t.acc.remote && badLine s t.acc.key then
    s.modWave e.id fun w => { w with emitBad := w.emitBad ++ [(l, 0x40, t.acc.va)] }
  else
    let x := if t.acc.remote then remote % 2 ^ (8 * n) else s.numAt t.acc.key n
    if e.w.helpers.getLsbD l || moorMet c (aluOf m.ty) x (storeValue e.w m.ty m.d.toNat l) then
      let s := if t.acc.remote then s.modCore e.wg.core fun k => { k with remote := dropRemote k.remote t.acc.key n }
        else s.takeCopy e.wg.core m.pol t.acc.key n
      let s := s.modWave e.id fun w => moorDone w m.ty m.d.toNat l x
      if isAcquire m.ord then s.acquire e.wg.core e.wgId (executedScope m.space m.scope t false) else s
    else s

/-- One read of every lane that is not done; a remote lane is read by the events of another device's answers. -/
def moorReads (e : Env) (s : State) (m : Mem) (c : MoorCond) (ts : List (Nat × Target)) : State :=
  ts.foldl (fun s (l, t) => if t.acc.remote then s else moorRead e m c 0 s l t) s

/-- What a lane's access has become while the `moor` waits: the device of a lane that was reachable is lost (R107). -/
def moorLost (w : Wave) (rs : LaneTargets) : LaneTargets :=
  rs.map fun (l, r) => (l, match r with
    | .error (.fault 0x16 va) => .error (.fault (if w.moored.getLsbD l then 0x41 else 0x16) va)
    | r => r)

/-- `moor` (R196): the wave blocks until every enabled lane is done; a lane whose check fails is done with its fault, which
is taken when the others are. -/
def execMoor (m : Mem) (c : MoorCond) (s : State) : Res :=
  issue m.g s fun e =>
    if !(e.vTy m.ty.is64 m.d.toNat && e.memOk m) then illegalIssue e s 0x01
    else if e.enabled = 0 then done e s
    else if !settled s e then block e s
    else
      let todo := lanesOf (e.enabled &&& ~~~(moorOver e.w))
      memPrep e s m.ty.bytes (e.ea m) (moorLost e.w (loadTargets s e m.space m.ty.bytes false (e.ea m) todo)) fun s rs =>
        let fs := rs.faults.filter fun (l, c, _) => !helperSpared e l c
        let s := (rs.faults.filter fun (l, c, _) => helperSpared e l c).foldl (fun s (l, _, _) =>
          s.modWave e.id fun w => moorDone w m.ty m.d.toNat l 0) s
        let s := moorReads e (s.touchPeers e rs.oks) m c rs.oks
        let away := maskOf fun l => rs.oks.any fun (k, t) => k = l && t.acc.remote
        let s := s.modWave e.id fun w => { w with emitBad := w.emitBad ++ fs, moored := w.moored ||| away }
        let w := s.wave e.id
        if e.enabled &&& ~~~(moorOver w) ≠ 0 then block e s else
        withProgress e (s.modWave e.id fun w => { w with emitBad := [], moored := 0 }) w.done (!w.emitBad.isEmpty) fun s =>
          memFinish e s m.space false w.emitBad

/-- A further read of one lane of the `moor` that a wave stands at; `remote` and `err` are another device's answer. -/
def moorReadLane (e : Env) (s : State) (m : Mem) (c : MoorCond) (l : Nat) (remote : DWord) (err : Byte) : State :=
  if !e.enabled.getLsbD l || (moorOver e.w).getLsbD l then s else
  match resolve s e .load m.space m.ty.bytes true l (e.ea m l) with
  | .error _ => s
  | .ok t =>
    if t.acc.remote && (err == 0x40 || err == 0x41) then
      s.modWave e.id fun w => { w with emitBad := w.emitBad ++ [(l, err, t.acc.va)] }
    else match (if t.scr then s.fillKeys e.ctx e.wg.core [t.acc.key] else .ok s) with
      | .ok s => moorRead e m c remote.toNat (s.touchPeers e [(l, t)]) l t
      | .error _ => s

/-! ### The stash instructions (R197) -/

/-- Whether two ranges meet. -/
def rangesMeet (a n b m : Nat) : Bool := a < b + m && b < a + n

/-- `smap` (R197). -/
def execSmap (g : Guard) (d a b : BitVec 8) (s : State) : Res :=
  waveLevel g true s fun e =>
    if !settled s e then block e s else
    let off := (e.w.sreg d.toNat).toNat
    let va := e.w.sreg a.toNat
    let n := (e.w.sreg b.toNat).toNat
    if 2 ^ 18 ≤ off ∨ !isLocalVa va then faultAll e s 0x11 va
    else if off % 128 ≠ 0 ∨ va.toNat % 128 ≠ 0 ∨ n % 128 ≠ 0 ∨ n = 0 then faultAll e s 0x12 va
    else if 8 ≤ e.wg.stash.length ∨ e.H.scratch < off + n ∨ e.wg.stash.any (fun st => rangesMeet st.off st.len off n) then
      faultAll e s 0x11 va
    else done e (s.modWg e.wgId fun W => { W with stash := W.stash ++ [{ off, va, len := n }] })

/-- A write-back of the entries that a test selects by `sunmap` or `swb`: its fault falls on every enabled lane (R198). -/
def stashOut (e : Env) (s : State) (sel : Stash → Bool) (k : State → Res) : Res :=
  if !settled s e then block e s else
  match s.stashBack e.wgId (fun _ st => sel st) with
  | (s, none) => k s
  | (s, some (f, va)) => if f = 0 then absorbWait e s [va] else faultAll e s f va true

/-- `sunmap` (R197). -/
def execSunmap (g : Guard) (a : BitVec 8) (s : State) : Res :=
  waveLevel g true s fun e =>
    let off := (e.w.sreg a.toNat).toNat
    if !e.wg.stash.any (fun st => st.off = off) then faultAll e s 0x11 (e.w.sreg a.toNat)
    else stashOut e s (fun st => st.off = off) fun s =>
      done e (s.modWg e.wgId fun W => { W with stash := W.stash.filter fun st => st.off ≠ off })

/-- `swb` (R197). -/
def execSwb (g : Guard) (a : Option (BitVec 8)) (s : State) : Res :=
  waveLevel g true s fun e =>
    match a with
    | none => stashOut e s (fun _ => true) fun s => done e s
    | some a =>
      let off := (e.w.sreg a.toNat).toNat
      if !e.wg.stash.any (fun st => st.off = off) then faultAll e s 0x11 (e.w.sreg a.toNat)
      else stashOut e s (fun st => st.off = off) fun s => done e s

/-- `stash write-back`: dirty bytes of an entry written back at any other time; a fault leaves its bytes dirty and
reports nothing (R82, R198). -/
def execStashWriteback (wg entry : Nat) (s : State) : Res := .next (s.stashBack wg (fun i _ => i = entry)).1

end Sys2Proof.Machine
end

