-- ==== Sys2Proof/Machine/Sync.lean ====
section
/-! DEFINITION. Waits, barriers, pins, the bobbin and phases (R39, R40, R48, R132, R199 to R204, R348). -/

namespace Sys2Proof.Machine

/-- `wait` (R132): a wave-level block until each counter is at or below its argument; reports of the counters it names
fall at it first (R393). -/
def execWait (g : Guard) (ld st cp tl : BitVec 6) (s : State) : Res :=
  waveLevel g false s fun e =>
    let names (x : BitVec 6) : Bool := x != 63
    gateWave e s (fun r => match r.kind with
        | 0 => names ld | 1 => names st | 2 => names cp | 3 => names tl | _ => false) <|
      if e.w.ldCnt ≤ ld ∧ e.w.stCnt ≤ st ∧ e.w.cpCnt ≤ cp ∧ e.w.tlCnt ≤ tl then done e s else block e s

/-! ### Barriers (R200, R201) -/

/-- The workgroup that owns the barrier named: a peer that does not exist or has retired is refused (R200). -/
def barOwner (s : State) (e : Env) (b : BarRef) : Option Nat :=
  if !b.peer then some e.wgId
  else if e.L.c2 ≤ b.owner.toNat then none
  else match gangPeer s e.wg.gang b.owner.toNat with
    | some (id, wg) => if wg.retired then none else some id
    | none => none

/-- A barrier of a workgroup. -/
def barAt (s : State) (wg i : Nat) : Barrier := match tget? s.wgs wg with | some W => tgetD W.bars i {} | none => {}
/-- A barrier as the group header holds it (R367). -/
def barrierBytes (b : Barrier) : List Byte :=
  leBytes 4 (b.expected + (if b.valid then 2 ^ 31 else 0)) ++ leBytes 4 b.mask.toNat ++ leBytes 4 b.arrived ++
  leBytes 4 b.gen.toNat ++ leBytes 4 b.dropped.toNat ++ leBytes 12 0
/-- A barrier changed; while its workgroup is out, the header in its save area is (R369). -/
def State.setBar (s : State) (wg i : Nat) (b : Barrier) : State :=
  let out := match tget? s.wgs wg with | some W => W.saved | none => false
  let s := if out then s.writeAt (devKey (Config.saveArea wg + 0x40 + 32 * i)) (barrierBytes b) else s
  s.modWg wg fun W => { W with bars := tput W.bars i b }
/-- The number that names a barrier of a workgroup. -/
def barId (wg i : Nat) : Nat := wg * 16 + i

/-- Every waiter of a barrier released with a result (R201). -/
def State.releaseWaiters (s : State) (wg i : Nat) (r : Bool) : State :=
  { s with waves := tmap s.waves fun _ w =>
      match w.status with
      | .waiting (.barrier b _) => if b = barId wg i then { w with status := .waiting (.released r) } else w
      | _ => w }

/-- Whether a barrier has waiters. -/
def hasWaiters (s : State) (wg i : Nat) : Bool :=
  s.waves.any fun (_, w) => match w.status with | .waiting (.barrier b _) => b = barId wg i | _ => false

/-- An arrival at a valid barrier (R201). -/
def State.arriveValid (s : State) (wg i : Nat) (b : Barrier) : State :=
  if b.arrived + 1 = b.expected then
    (s.setBar wg i { b with gen := b.gen + 1, arrived := 0 }).releaseWaiters wg i true
  else s.setBar wg i { b with arrived := b.arrived + 1 }

/-- The arrival of an engine operation, without the mask test (R201, R220). -/
def State.arriveAt (s : State) (wg i : Nat) : State :=
  let b := barAt s wg i
  if !b.valid then s.setBar wg i { b with dropped := b.dropped + 1 } else s.arriveValid wg i b

/-- RESTARTABLE clears at an arrival at another workgroup's barrier, on both sides (R368). -/
def State.peerBar (s : State) (e : Env) (wg : Nat) : State :=
  if wg = e.wgId then s else (s.sideEffect e.wgId).sideEffect wg

/-- An access to a barrier of another workgroup clears that one's RESTARTABLE (R368). -/
def State.touchBar (s : State) (e : Env) (wg : Nat) : State := if wg = e.wgId then s else s.sideEffect wg

/-- A barrier instruction on the barrier it names. -/
def withBar (g : Guard) (b : BarRef) (s : State) (k : Env → Nat → Nat → Res) : Res :=
  waveLevel g false s fun e =>
    match barOwner s e b with
    | none => faultAll e s 0x11
    | some wg => k e wg b.index.toNat

/-- `binit` (R201). -/
def execBinit (g : Guard) (d a b : BitVec 8) (bar : BarRef) (s : State) : Res :=
  withBar g bar s fun e wg i =>
    if hasWaiters s wg i then faultAll e (s.touchBar e wg) 0x20 else
    let x := barAt s wg i
    let n := (e.w.sreg a.toNat).toNat % 65536
    let s := (s.setBar wg i { x with
      dropped := 0, valid := true, expected := if n = 0 then 65536 else n
      mask := (e.w.sreg b.toNat).setWidth 32, arrived := 0 }).peerBar e wg
    done e (s.modWave e.id fun w => w.setS d.toNat (x.dropped.setWidth 64))

/-- The arrival of a wave with a mask: the state, or the mask mismatch (R201). -/
def arrive (s : State) (e : Env) (wg i : Nat) (mk : Word) : Option State :=
  let b := barAt s wg i
  if !b.valid then some ((s.setBar wg i { b with dropped := b.dropped + 1 }).peerBar e wg)
  else if mk ≠ b.mask then none
  else some ((s.arriveValid wg i b).peerBar e wg)

/-- `barrive` (R201): a release at `.gng`. -/
def execBarrive (g : Guard) (d a : BitVec 8) (bar : BarRef) (s : State) : Res :=
  withBar g bar s fun e wg i => waveRelease e s .gng fun s =>
    let gen := (barAt s wg i).gen
    match arrive s e wg i ((e.w.sreg a.toNat).setWidth 32) with
    | none => faultAll e (s.touchBar e wg) 0x21
    | some s => done e (s.modWave e.id fun w => w.setS d.toNat (gen.setWidth 64))

/-- The end of a barrier wait with its result; with true it is an acquire at `.gng` (R201). -/
def barDone (e : Env) (s : State) (d : BitVec 8) (r : Bool) : Res :=
  let s := if r then s.acquire e.wg.core e.wgId .gng else s
  done e (s.modWave e.id fun w => w.setP d.toNat e.enabled (if r then 0xFFFFFFFF#32 else 0))

/-- The wait of `bwait` for a generation (R201): it holds, fails, or the wave joins the waiters. -/
def barWait (e : Env) (s : State) (d : BitVec 8) (wg i : Nat) (gen : Word) : Res :=
  let b := barAt s wg i
  if 0 < (b.gen - gen).toInt then barDone e s d true
  else if !b.valid then barDone e s d false
  else .next (s.modWave e.id fun w => { w with status := .waiting (.barrier (barId wg i) gen) })

/-- `bwait` (R201). A wave that its barrier has released completes with the result. -/
def execBwait (g : Guard) (d a : BitVec 8) (bar : BarRef) (s : State) : Res :=
  waveLevel g false s fun e =>
    match e.w.status with
    | .waiting (.released r) => barDone e s d r
    | _ => match barOwner s e bar with
      | none => faultAll e s 0x11
      | some wg => barWait e (s.touchBar e wg) d wg bar.index.toNat ((e.w.sreg a.toNat).setWidth 32)

/-- `bsync` (R201): the arrival, a release at `.gng`, then the wait for the generation it found. -/
def execBsync (g : Guard) (d a : BitVec 8) (bar : BarRef) (s : State) : Res :=
  waveLevel g false s fun e =>
    match e.w.status with
    | .waiting (.released r) => barDone e s d r
    | _ => match barOwner s e bar with
      | none => faultAll e s 0x11
      | some wg => waveRelease e s .gng fun s =>
        let i := bar.index.toNat
        let gen := (barAt s wg i).gen
        match arrive s e wg i ((e.w.sreg a.toNat).setWidth 32) with
        | none => faultAll e (s.touchBar e wg) 0x21
        | some s => barWait e s d wg i gen

/-- A barrier invalidated: its waiters are released with false (R201). -/
def State.invalidateBar (s : State) (wg i : Nat) : State :=
  (s.setBar wg i { (barAt s wg i) with valid := false, arrived := 0 }).releaseWaiters wg i false

/-- `binval` (R201). -/
def execBinval (g : Guard) (bar : BarRef) (s : State) : Res :=
  withBar g bar s fun e wg i => done e ((s.invalidateBar wg i).peerBar e wg)

/-! ### Pins (R202, R348) -/

/-- Clusters of a partition (R329). -/
def partClusters (s : State) : Nat := 64 / max 1 s.sys.parts
/-- Whether a pin's cluster lies in the partition; every logical cluster does (R36, R202). -/
def pinOk (s : State) (det : Bool) (p : Nat) : Bool := det || bitsOf p 13 8 < partClusters s

/-- Where a pin stands: the physical cluster and pin, or the word of the context's pin page (R202, R348). -/
inductive PinPlace where
  | cluster (c n : Nat)
  | word (key : Nat)
deriving DecidableEq, Repr

/-- The place of a pin, or the fault of the pin page's translation; the error 0 is a wait, for a reclaimed range or a line that is
held (R286, R352). -/
def pinPlace (s : State) (det : Bool) (ctx : Nat) (p : Nat) : Except (Byte × DWord) PinPlace :=
  match tget? s.ctxs ctx with
  | none => .error (0x11, 0)
  | some c =>
    if !det then .ok (.cluster (c.part * partClusters s + bitsOf p 13 8) (p % 256)) else
    let va := c.pinpage.toNat + 4 * (p % 2 ^ 14)
    match translate s none ctx c va .both with
    | .ok q => if tideLocked s q.key 4 then .error (0, heldAddr) else .ok (.word q.key)
    | .error f => .error (f, BitVec.ofNat 64 va)

/-- The value of a pin. -/
def pinValue (s : State) : PinPlace → Word
  | .cluster c n => tgetD (s.cluster c).pins n 0
  | .word k => BitVec.ofNat 32 (s.natAt k 4)
/-- A pin set. -/
def State.setPin (s : State) (p : PinPlace) (x : Word) : State :=
  match p with
  | .cluster c n => s.modCluster c fun C => { C with pins := tsetD C.pins n 0 x }
  | .word k => s.setNat k 4 x.toNat

/-- An increment of a completion pin by an engine or a launch; a logical pin whose page refuses it keeps its value, and one in a
reclaimed range or on a line that is held takes it when the range is back or the line is free (R286, R352). -/
def State.addPin (s : State) (det : Bool) (ctx p : Nat) (inc : Word) : State :=
  match pinPlace s det ctx p with
  | .ok q => s.setPin q (pinValue s q + inc)
  | .error (f, a) =>
    if f ≠ 0 then s else
    let s := s.absorb ctx [a.toNat]
    match pinPlace s det ctx p with
    | .ok q => s.setPin q (pinValue s q + inc)
    | .error _ => s.modCtx ctx fun c => { c with stalled := c.stalled ++ [.pin p inc] }

/-- The writes of the device that waited for a range of a context performed (R352). -/
def State.unstall (s : State) (ctx : Nat) : State :=
  let ws := match tget? s.ctxs ctx with | some c => c.stalled | none => []
  ws.foldl (fun s w => match w with
    | .bytes va bs => s.deviceWrite ctx va bs
    | .pin p inc => s.addPin true ctx p inc) (s.modCtx ctx fun c => { c with stalled := [] })

/-- The writes of the device that waited for a line tried again, now that lines are free. -/
def State.unstallAll (s : State) : State :=
  (s.ctxs.filter fun (_, c) => !c.stalled.isEmpty).foldl (fun s (k, _) => s.unstall k) s

/-- The ranges that reading pins meets begin their return (R352). -/
def State.absorbPins (s : State) (det : Bool) (ctx : Nat) (ps : List Nat) : State :=
  s.absorb ctx (ps.filterMap fun p => match pinPlace s det ctx p with
    | .error (f, a) => if f = 0 then some a.toNat else none
    | .ok _ => none)

/-- Whether a gate on a pin is open: pin − threshold ≥ 0 as an i32 (R36, R42). -/
def pinReached (s : State) (det : Bool) (ctx p : Nat) (threshold : Word) : Bool :=
  match pinPlace s det ctx p with
  | .ok q => 0 ≤ (pinValue s q - threshold).toInt
  | .error _ => false

/-- The pin that an operand names (R202). -/
def pinOf (w : Wave) : PinSrc → Nat
  | .imm p => p.toNat
  | .reg b => (w.sreg b.toNat).toNat % 2 ^ 14

/-- A pin instruction on its pin (R202). -/
def withPin (g : Guard) (act : Bool) (pin : PinSrc) (s : State) (k : Env → PinPlace → Res) : Res :=
  waveLevel g act s fun e =>
    let p := pinOf e.w pin
    if !pinOk s e.det p then faultAll e s 0x11 else
    match pinPlace s e.det e.ctx p with
    | .error (f, va) => if f = 0 then absorbWait e s [va] else faultAll e s f va
    | .ok q => k e q

/-- `pinadd` (R202): a release at `.dev`. -/
def execPinadd (g : Guard) (a : BitVec 8) (pin : PinSrc) (s : State) : Res :=
  withPin g true pin s fun e q => waveRelease e s .dev fun s =>
    done e ((s.setPin q (pinValue s q + (e.w.sreg a.toNat).setWidth 32)).sideEffect e.wgId)

/-- `pinset` (R202): a release at `.dev`. -/
def execPinset (g : Guard) (a : BitVec 8) (pin : PinSrc) (s : State) : Res :=
  withPin g true pin s fun e q => waveRelease e s .dev fun s =>
    done e ((s.setPin q ((e.w.sreg a.toNat).setWidth 32)).sideEffect e.wgId)

/-- `pinwait` (R202): an acquire at `.dev`. -/
def execPinwait (g : Guard) (d a : BitVec 8) (pin : PinSrc) (s : State) : Res :=
  withPin g false pin s fun e q =>
    let v := pinValue s q
    if 0 ≤ (v - (e.w.sreg a.toNat).setWidth 32).toInt then
      done e ((s.acquire e.wg.core e.wgId .dev).modWave e.id fun w => w.setS d.toNat (v.setWidth 64))
    else block e s

/-! ### The bobbin and phases -/

/-- `bobtake` (R48, R203). -/
def execBobtake (g : Guard) (s : State) : Res :=
  waveLevel g false s fun e =>
    if !e.det || e.w.hold then done e s
    else if e.w.passed then faultAll e s 0x15
    else block e s

/-- `bobpass` (R48, R203): passing the token is a release at `.dev`. -/
def execBobpass (g : Guard) (s : State) : Res :=
  waveLevel g false s fun e =>
    if !e.det then done e s
    else passRelease e s fun s => done e ((s.passBobbin e.id).sideEffect e.wgId)

/-- The stash written back as a wave arrives at `phase`, for the phase's release (R40, R82). -/
def phaseBack (e : Env) (s : State) (k : State → Res) : Res :=
  if e.det then passRelease e s k else
  afterRelease e (match s.stashBack e.wgId (fun _ _ => true) with
    | (s, some (f, va)) => .fault s f va
    | (s, none) => .done s) k

/-- `phase` (R39, R204): once the wave's stores are performed it arrives; its issuing lanes advance and it parks. -/
def execPhase (g : Guard) (s : State) : Res :=
  waveLevel g false s fun e =>
    if e.w.stCnt ≠ 0 then block e s else
    phaseBack e s fun s => andThen (done e s) fun s =>
      ((s.modWave e.id fun w => { w with status := .phased }).passBobbin e.id).sideEffect e.wgId

/-- A wave that has arrived at the current phase or retired (R39). -/
def arrivedWave (s : State) (id : Nat) : Bool := match (s.wave id).status with | .phased | .retired => true | _ => false
/-- A workgroup that has arrived: each of its waves has arrived or retired (R39). -/
def arrivedWg (s : State) (id : Nat) : Bool :=
  match tget? s.wgs id with
  | some W => W.retired || (List.range W.waves).all fun f => arrivedWave s (id * 32 + f)
  | none => true

/-- The number of workgroups of a launch (R21). -/
def wgTotal (L : Launch) : Nat := (L.counts.drop 1).foldl (· * ·) 1

/-- Whether a core's store order holds a store of a launch's waves. -/
def launchStores (s : State) (L : Launch) : Bool :=
  s.cores.any fun (_, c) => c.fifo.any fun p => L.wgs.contains (wgOf p.wave)

/-- Whether every workgroup of a launch has been placed and has arrived, some of them at `phase` (R40). -/
def phaseReady (s : State) (L : Launch) : Bool :=
  L.nextWg = wgTotal L && L.wgs.all (arrivedWg s) && !launchStores s L &&
  L.wgs.any fun id => (List.range 32).any fun f => (s.wave (id * 32 + f)).status == WaveStatus.phased

/-- The bobbin's round started: the waves that have retired are passed, and the token starts at wave (0, 0) (R48). -/
def State.startRound (s : State) (k : Nat) : State :=
  match tget? s.launches k with
  | none => s
  | some L =>
    let det := match tget? s.queues L.queue with | some q => q.det | none => false
    if !det then s else
    let retired := L.wgs.flatMap fun id =>
      match tget? s.wgs id with
      | some W => (List.range W.waves).filterMap fun f =>
          if (s.wave (id * 32 + f)).status == .retired then some (bobIndex L W.index f) else none
      | none => []
    let s := L.wgs.foldl (fun s id => (List.range 32).foldl (fun s f =>
      match tget? s.waves (id * 32 + f) with
      | some _ => s.modWave (id * 32 + f) fun w => { w with hold := false, passed := w.status == .retired }
      | none => s) s) s
    (s.modLaunch k fun L => { L with bobDone := retired }).moveToken k 0

/-- What the stashes of workgroups have become dirty by since their waves arrived, written back; a range or a line that it waits
for. A fault then reports nothing. -/
def State.stashAll (s : State) : List Nat → State × Option DWord
  | [] => (s, none)
  | id :: ids => match s.stashBack id (fun _ _ => true) with
    | (s, some (0, va)) => (s, some va)
    | (s, _) => s.stashAll ids

/-- The cores of a launch's workgroups. -/
def launchCores (s : State) (L : Launch) : List Nat := (L.wgs.filterMap fun id => (tget? s.wgs id).map (·.core)).eraseDups

/-- A launch's release at its release scope (R37, R40): at `.sys` its cores send their markers, and it is over when they are
answered (R104); none while it waits. -/
def State.launchRelease (s : State) (k : Nat) (L : Launch) : State × Bool :=
  if !L.relSys then (s, true) else
  match L.asked with
  | some ws => if s.hasAnswers ws then (s.modLaunch k fun L => { L with asked := none }, true) else (s, false)
  | none =>
    let cs := launchCores s L
    let s := cs.foldl (fun s c => s.markers c L.ctx) s
    let ws := cs.flatMap s.unanswered
    if ws.isEmpty then (s, true) else (s.modLaunch k fun L => { L with asked := some ws }, false)

/-- `phase complete` (R40): the launch's words are flushed, a release at its scope, and the next phase starts with an
acquire; nothing happens while some workgroup has not arrived. -/
def execPhaseComplete (queue seq : Nat) (s : State) : Res :=
  let k := launchKey queue seq
  match tget? s.launches k with
  | none => .next s
  | some L =>
    if !phaseReady s L then .next s else
    match s.flushWords L none L.targeted with
    | (s, some (f, va)) => .next (if f = 0 then s.absorb L.ctx [va.toNat] else s)
    | (s, none) =>
      match s.stashAll L.wgs with
      | (s, some va) => .next (s.absorb L.ctx [va.toNat])
      | (s, none) =>
      let (s, passed) := s.launchRelease k L
      if !passed then .next s else
      let sc : Scope := if L.relSys then .sys else .dev
      let s := L.wgs.foldl (fun s id => match tget? s.wgs id with
        | some W => s.acquire W.core id sc
        | none => s) s
      let s := { s with waves := tmap s.waves fun id w =>
        if L.wgs.contains (wgOf id) && w.status == WaveStatus.phased then { w with status := .ready } else w }
      .next ((s.modLaunch k fun L => { L with phase := L.phase + 1 }).startRound k)

end Sys2Proof.Machine
end

