-- ==== Sys2Proof/Machine/Queue.lean ====
section
/-! DEFINITION. Queues and launch records: reading memory for a context, the fields of a launch record and what rejects
it when it is accepted (R33 to R36, R38), acceptance (R340), the rejection log (R341) and state words (R335). -/

namespace Sys2Proof.Machine

/-- `n` bytes read at a VA of a context, byte by byte through its pages; the fault and its address where one refuses. -/
def readVa (s : State) (ctx : Nat) (c : Context) (va : Nat) : Nat → Except (Byte × DWord) (List Byte)
  | 0 => .ok []
  | n + 1 =>
    if 2 ^ 57 ≤ va then .error (0x11, BitVec.ofNat 64 va) else
    match translate s none ctx c va .read with
    | .error f => .error (f, BitVec.ofNat 64 va)
    | .ok p => match readVa s ctx c (va + 1) n with
      | .ok bs => .ok (memGet s.mem p.key :: bs)
      | .error f => .error f

/-- What holds back or spoils an instruction's own read of `n` bytes at a VA that translates: a line that is held (error 0, at an
address that no range has), or data that cannot be corrected (R15, R286). -/
def readSpoiled (s : State) (ctx : Nat) (c : Context) (va n : Nat) : Option (Byte × DWord) :=
  (List.range n).findSome? fun i =>
    match translate s none ctx c (va + i) .read with
    | .ok p => if tideLocked s p.key 1 then some (0, heldAddr) else if badLine s p.key then some (0x40, BitVec.ofNat 64 (va + i)) else none
    | .error _ => none

/-- A record read by an instruction: as a load, it meets lines that are held and data that cannot be corrected. -/
def loadVa (s : State) (ctx : Nat) (c : Context) (va n : Nat) : Except (Byte × DWord) (List Byte) :=
  match readVa s ctx c va n with
  | .error f => .error f
  | .ok bs => match readSpoiled s ctx c va n with
    | some f => .error f
    | none => .ok bs

/-- `n` bytes that the device reads at a VA of a context by its index: held lines make it wait (error 0), and data that cannot be
corrected fails the read (R15, R286). -/
def State.readCtx (s : State) (ctx va n : Nat) : Except (Byte × DWord) (List Byte) :=
  match tget? s.ctxs ctx with
  | some c => loadVa s ctx c va n
  | none => .error (0x10, BitVec.ofNat 64 va)

/-- The address at which a read met data that cannot be corrected. -/
def spoiltAt : Except (Byte × DWord) (List Byte) → Option DWord
  | .error (f, a) => if f == 0x40 then some a else none
  | .ok _ => none

/-- A record of source 1 for data of a launch that the device could not correct (R15, R360; DEDUCED: log entry 39). -/
def State.readFault (s : State) (ctx seq queue : Nat) (addr : Option DWord) : State :=
  match addr with
  | none => s
  | some a => s.modCtx ctx fun c => { c with faults := c.faults ++
      [{ bytes := faultBytes 0x40 1 0 0 a 0 seq 0 queue 0 0 0 0 0, code := 0x40, wave := none }] }

/-! ### Export tables (R331) -/

/-- An export entry of 32 bytes; none where a reserved field is set. -/
def exportOf (bs : List Byte) : Option Export :=
  if leAt bs 4 1 / 8 ≠ 0 ∨ leAt bs 5 3 ≠ 0 ∨ leAt bs 24 8 ≠ 0 then none
  else some { dev := leAt bs 0 2, ctx := leAt bs 2 2, perm := BitVec.ofNat 3 (leAt bs 4 1), base := leAt bs 8 8, len := leAt bs 16 8 }

/-- The export table read through a context's tables; none where it does not translate or an entry is not valid. -/
def readExports (s : State) (ctx : Nat) (c : Context) : Option (List Export) :=
  match loadVa s ctx c c.exports.toNat (32 * c.nexport) with
  | .error _ => none
  | .ok bs => (List.range c.nexport).mapM fun i => exportOf (bs.drop (32 * i))

/-- Whether two entries name one importer. -/
def repeatsImporter : List Export → Bool
  | [] => false
  | x :: xs => xs.any (fun y => y.dev = x.dev && y.ctx = x.ctx) || repeatsImporter xs

/-- Whether a table names an importer that another context exports to. -/
def importerTaken (s : State) (ctx : Nat) (xs : List Export) : Bool :=
  s.ctxs.any fun (k, c) => k ≠ ctx && c.table.any fun y => xs.any fun x => x.dev = y.dev && x.ctx = y.ctx

/-- The export table that a context may have, if it may (R331). -/
def goodExports (s : State) (ctx : Nat) (c : Context) : Option (List Export) :=
  (readExports s ctx c).bind fun xs => if repeatsImporter xs || importerTaken s ctx xs then none else some xs

/-- The first request of an importer on another device: firmware reads the export tables again, and keeps what it had of one that
is not valid (R331). -/
def State.firstRequest (s : State) (dev ctx : Nat) : State :=
  s.ctxs.foldl (fun s (k, c) =>
    if c.nexport = 0 || c.importers.contains (dev, ctx) then s else
    s.modCtx k fun c => { c with importers := c.importers ++ [(dev, ctx)], table := (goodExports s k c).getD c.table }) s

/-- Launches of a queue in flight (R340). -/
def inFlight (s : State) (q : Nat) : Nat := (s.launches.filter fun (_, L) => L.queue = q && L.state != .complete).length

/-- Whether a queue can take one more launch (R335, R340). -/
def queueRoom (s : State) (qid : Nat) (q : Queue) : Bool := !q.err && inFlight s qid < 1024

/-! ### The five sources (R340) -/

/-- The place of a source in R340's list. -/
def srcPlace : LaunchSource → Nat
  | .ring => 0 | .launch => 1 | .walker _ => 2 | .unwinder => 3 | .graph => 4

/-- A record read for a queue: none where it does not translate, an error where firmware has to return its range first. -/
def takeRecord (s : State) (q : Queue) (va : DWord) : Except DWord (Option (List Byte)) :=
  if va.toNat % 64 ≠ 0 then .ok none else
  match s.readCtx q.ctx va.toNat 64 with
  | .ok bs => .ok (some bs)
  | .error (0, a) => .error a
  | .error _ => .ok none

/-- The VA of the next record of a queue's ring. -/
def ringVa (q : Queue) : DWord := q.ring + BitVec.ofNat 64 (64 * (q.head.toNat % max 1 q.entries))

/-- The first offer of a source, and the other offers. -/
def firstOffer (place : Nat) : List Offer → Option (Offer × List Offer)
  | [] => none
  | o :: os => if srcPlace o.src = place then some (o, os) else (firstOffer place os).map fun (x, xs) => (x, o :: xs)

/-- The record of an offer, as its queue reads it. -/
def offeredRecord (s : State) (q : Queue) (o : Offer) : Except DWord (Option (List Byte)) :=
  match o.bytes with
  | some r => .ok (some r)
  | none => takeRecord s q o.recVa

/-- The state word of a queue; queue 0 is the command ring (R335). -/
def queueWord (s : State) (qid : Nat) : Nat :=
  if qid = 0 then 1 + (if s.sys.cmdErr then 8 else 0) else
  match tget? s.queues qid with
  | none => 0
  | some q => 1 + (if q.susp then 2 else 0) + (if q.unwind.isSome then 4 else 0) + (if q.err then 8 else 0) +
      (if 1024 ≤ inFlight s qid then 16 else 0)

/-- A queue suspended (R333). -/
def State.suspendQueue (s : State) (q : Nat) : State := s.modQueue q fun q => { q with susp := true }
/-- A queue resumed, its ERR bit cleared (R333). -/
def State.resumeQueue (s : State) (q : Nat) : State := s.modQueue q fun q => { q with susp := false, err := false }

/-! ### The launch record -/

/-- Whether a pin field's reserved bits are set (R33). -/
def pinReserved (x : Nat) : Bool := bitsOf x 30 14 ≠ 0
/-- Whether a pin field is valid. -/
def pinValid (x : Nat) : Bool := bitOf x 31

/-- The reason that a record's own fields give, 0 for none: 13 target, 15 scope, 16 reserved, 17 pin, 18 deps (R33, R35,
R38, R341). -/
def recordReason (s : State) (det : Bool) (r : List Byte) : Nat :=
  let flags := leAt r 0x1E 2
  let pin := leAt r 0x28 4
  if leAt r 0 8 % (if bitOf flags 1 then 64 else 256) ≠ 0 then 13
  else if 1 < leAt r 0x1D 1 then 15
  else if flags / 8 ≠ 0 ∨ bitOf flags 0 ∨ leAt r 0x3A 6 ≠ 0 then 16
  else if pinReserved pin ∨ (pinValid pin ∧ !pinOk s det pin) then 17
  else if 64 < leAt r 0x38 2 ∨ (leAt r 0x38 2 ≠ 0 ∧ leAt r 0x30 8 % 8 ≠ 0) then 18
  else 0

/-- The dependency entries of a record: pins and thresholds, or none where one is refused (R36). -/
def readDeps (s : State) (det : Bool) (ctx : Nat) (va n : Nat) : Option (List (Nat × Word)) :=
  match s.readCtx ctx va (8 * n) with
  | .error _ => none
  | .ok bs => (List.range n).foldr (fun i acc =>
      acc.bind fun ds =>
        let x := leAt bs (8 * i) 8
        let p := bitsOf x 45 32
        if bitsOf x 63 46 ≠ 0 ∨ !pinOk s det p then none else some ((p, BitVec.ofNat 32 x) :: ds)) (some [])

/-- The address at which reading a record's dependency list meets a range that firmware has to return first (R352). -/
def depsAbsorb (s : State) (q : Queue) (r : Option (List Byte)) : Option DWord :=
  r.bind fun r =>
    if recordReason s q.det r ≠ 0 then none else
    match s.readCtx q.ctx (leAt r 0x30 8) (8 * leAt r 0x38 2) with
    | .error (0, a) => some a
    | _ => none

/-- The address that a record read for a queue, or its dependency list, makes it wait for. -/
def recordWaits (s : State) (q : Queue) : Except DWord (Option (List Byte)) → Option DWord
  | .error a => some a
  | .ok r => depsAbsorb s q r

/-- Whether a wave still stands at the `launch` with which it waits for a queue, on its core. -/
def launcherLive (s : State) (x : Nat × DWord) : Bool :=
  let w := s.wave x.1
  (w.status == .ready || w.status == .waiting .retry) && w.issuePc = x.2 &&
  (match tget? s.wgs (wgOf x.1) with | some W => W.resident && !W.ended && W.leaving.isNone | none => false)

/-- The `launch` that reached a queue first of those that wait for it (R340). -/
def firstLauncher (s : State) (q : Queue) : Option Nat := (q.launchers.find? (launcherLive s)).map (·.1)

/-- Whether a source has a record that the queue can take now. -/
def sourcePending (s : State) (q : Queue) (place : Nat) : Bool :=
  if place = 1 then (firstLauncher s q).isSome
  else if place = 0 then !q.susp && q.head != q.tail && (recordWaits s q (takeRecord s q (ringVa q))).isNone
  else match firstOffer place q.offers with
    | some (o, _) => (recordWaits s q (offeredRecord s q o)).isNone
    | none => false

/-- Whether it is a source's turn: no source that comes between the last one and it in the round has a record waiting (R340). -/
def sourceTurn (s : State) (q : Queue) (place : Nat) : Bool :=
  let dist (p : Nat) : Nat := (p + 4 - q.lastSrc % 5) % 5
  !((List.range 5).any fun p => dist p < dist place && sourcePending s q p)

/-- The base priority of a launch (R33). -/
def launchPrio (base : Nat) (prio : Nat) : Nat := (min 255 (max 0 ((base : Int) + sext 8 prio))).toNat

/-- The launch of a record as its queue accepts it; a record that does not translate rejects with reason 13 (R33, R38,
R341). -/
def launchOf (s : State) (qid : Nat) (q : Queue) (recVa : DWord) (r : Option (List Byte)) (parent : Option Nat)
    (unwound : Bool) : Launch :=
  let base : Launch :=
    { ctx := q.ctx, queue := qid, seq := q.seq, recVa, target := 0, counts := [0, 0, 0, 0, 0], prio := q.prio,
      relSys := false, flags := 0, args := 0, pin := 0, pininc := 0, deps := [], parent, unwound }
  match r with
  | none => { base with reject := 13 }
  | some r =>
    let L := { base with
      target := BitVec.ofNat 64 (leAt r 0 8)
      counts := (List.range 5).map fun i => leAt r (0x08 + 4 * i) 4
      prio := launchPrio q.prio (leAt r 0x1C 1)
      relSys := leAt r 0x1D 1 = 1
      flags := leAt r 0x1E 2
      args := BitVec.ofNat 64 (leAt r 0x20 8)
      pin := BitVec.ofNat 32 (leAt r 0x28 4)
      pininc := BitVec.ofNat 32 (leAt r 0x2C 4) }
    match recordReason s q.det r with
    | 0 =>
      let n := leAt r 0x38 2
      if n = 0 then L else
      match readDeps s q.det q.ctx (leAt r 0x30 8) n with
      | some ds => { L with deps := ds }
      | none => { L with reject := 18 }
    | k => { L with reject := k }

/-- Where the record of a launch, or its dependency list, holds data that cannot be corrected. -/
def recordSpoilt (s : State) (q : Queue) (recVa : DWord) (r : Option (List Byte)) : Option DWord :=
  match r with
  | none => if recVa.toNat % 64 ≠ 0 then none else spoiltAt (s.readCtx q.ctx recVa.toNat 64)
  | some r => if recordReason s q.det r ≠ 0 || leAt r 0x38 2 = 0 then none
    else spoiltAt (s.readCtx q.ctx (leAt r 0x30 8) (8 * leAt r 0x38 2))

/-! ### The ebb region (R350) -/

/-- Bytes of the region that a queue's frames take. -/
def ebbUsed (q : Queue) : Nat := q.frames.foldl (fun n (_, f) => n + 64 + 128 * f.recs.length + 64 * f.marks.length) 0
/-- Whether a push or mark of `n` bytes fits. -/
def ebbFits (q : Queue) (n : Nat) : Bool := ebbUsed q + n ≤ q.ebbsize
/-- The first byte beyond the region. -/
def ebbEnd (q : Queue) : DWord := q.ebb + BitVec.ofNat 64 q.ebbsize

/-- The bytes of a queue's region that a frame, a record or a mark of `n` bytes takes, as far as their pages take writes: how they
stand there is not stated, so they are open values (log entries 3 and 64). -/
def ebbCells (s : State) (q : Queue) (n : Nat) : Table Byte :=
  match tget? s.ctxs q.ctx with
  | none => []
  | some c => (List.range (min n (q.ebbsize - ebbUsed q))).foldl (fun t i =>
      match translate s none q.ctx c (q.ebb.toNat + ebbUsed q + i) .write with
      | .ok p => tput t p.key (BitVec.ofNat 8 (Config.freeNat (s.free + i)))
      | .error _ => t) []
/-- A state in which a frame, record or mark takes its bytes of the region. -/
def State.ebbTake (s : State) (q : Queue) (n : Nat) : State := { (s.writeCells (ebbCells s q n)) with free := s.free + n }

/-- Acceptance from a source (R340, R44): the launch takes the queue's next sequence and owns a frame; a graph launch's frame is empty
and sealed. -/
def State.acceptLaunch (s : State) (qid : Nat) (recVa : DWord) (r : Option (List Byte)) (parent : Option Nat)
    (unwound : Bool) (place : Nat) : Nat × State :=
  match tget? s.queues qid with
  | none => (0, s)
  | some q =>
    let L := launchOf s qid q recVa r parent unwound
    let s := { s with launches := tput s.launches (launchKey qid q.seq) L }.readFault q.ctx q.seq qid (recordSpoilt s q recVa r)
    let s := s.ebbTake q 64
    (q.seq, s.modQueue qid fun q => { q with
      seq := q.seq + 1, lastSrc := place, frames := tput q.frames q.seq { sealed := bitOf L.flags 1 } })

/-- The bytes of the rejection log's record (R341). -/
def rejectBytes (seq reason queue : Nat) : List Byte := leBytes 8 seq ++ leBytes 2 reason ++ leBytes 2 0 ++ leBytes 4 queue

/-- A rejection logged, where the queue keeps a log and its page takes the write (R341). -/
def State.logReject (s : State) (qid seq reason : Nat) : State :=
  match tget? s.queues qid with
  | none => s
  | some q =>
    if q.rejlog = 0 then s else
    s.deviceWrite q.ctx (q.rejlog.toNat + 16 * (seq % 256)) (rejectBytes seq reason qid)

end Sys2Proof.Machine
end

