-- ==== Sys2Proof/Machine/Shuttle.lean ====
section
/-! DEFINITION. The shuttle (R217 to R223): issue, the movement of chunks, pauses and aborts, bitmaps. -/

namespace Sys2Proof.Machine

/-! ### The buffer-record pool (R148) -/

/-- The VA of a pool record (R148). -/
def poolVa (e : Env) (i : BitVec 12) : Nat := e.L.hdrVa.toNat / 2 ^ 21 * 2 ^ 21 + 64 * i.toNat
/-- A pool record's 64 bytes. -/
def readPool (s : State) (e : Env) (i : BitVec 12) : Except (Byte × DWord) (List Byte) :=
  loadVa s e.ctx e.c (poolVa e i) 64

/-! ### Completion words (R219) -/

/-- The barrier of a completion word, in the layout of R200. -/
def compBar (w : DWord) : BarRef :=
  let x := bitsOf w.toNat 63 55
  ⟨bitOf x 8, BitVec.ofNat 4 (x / 16), BitVec.ofNat 4 x⟩
/-- BARV. -/
def compBarv (w : DWord) : Bool := w.getLsbD 54
/-- PV, PER and PIN. -/
def compPv (w : DWord) : Bool := w.getLsbD 31
/-- PER. -/
def compPer (w : DWord) : Bool := w.getLsbD 30
/-- PIN. -/
def compPin (w : DWord) : Nat := w.toNat % 2 ^ 14
/-- Reserved bits of a shuttle completion word (R219). -/
def compReserved (w : DWord) : Bool :=
  bitsOf w.toNat 53 32 ≠ 0 || bitsOf w.toNat 29 14 ≠ 0 || (compBarv w && !(compBar w).peer && (compBar w).owner != 0)

/-! ### Issue (R217, R218) -/

/-- A signed coordinate. -/
def coord (x : Nat) : Int := sext 32 x
/-- The origin of a coordinate group (R217). -/
def originOf (w : Wave) (a : Nat) : List Int :=
  let x (k : Nat) : Nat := (w.sreg (a + k)).toNat
  [coord (x 0), coord (x 0 / 2 ^ 32), coord (x 1), coord (x 1 / 2 ^ 32), coord (x 2)]

/-- Whether a VA is on this device's own memory, so that it is registered (R100). -/
def ownByte (s : State) (e : Env) (va : Nat) : Bool :=
  va < 2 ^ 57 && (match walk s e.c va with | .ok p => !p.host | .error _ => true)

/-- The lowest and highest of the bytes of a local range that lie in this device's own memory (R100). -/
def localSpan (s : State) (e : Env) (va : DWord) (n : Nat) : Option (Nat × Nat) :=
  if n = 0 || !isLocalVa va then none else
  let lo := va.toNat
  let hi := lo + n - 1
  (List.range (hi / 65536 - lo / 65536 + 1)).foldl (fun acc i =>
    let g := lo / 65536 + i
    let a := max lo (65536 * g)
    let b := min hi (65536 * g + 65535)
    if !ownByte s e a then acc else match acc with | none => some (a, b) | some (x, _) => some (x, b)) none

/-- The dense range of an operation, in the space of range locks, where it is registered. -/
def denseSpan (s : State) (e : Env) (o : ShuttleOp) : Option (Nat × Nat) :=
  match o.denseTouched with
  | none => none
  | some (a, b) =>
    if o.glb then localSpan s e (o.dense + BitVec.ofNat 64 a) (b + 1 - a)
    else some (o.denseKey + a, o.denseKey + b)
/-- The tensor range of an operation, where it is registered. -/
def tensorRange (s : State) (e : Env) (o : ShuttleOp) : Option (Nat × Nat) :=
  if isLocalVa o.tensor.base then o.tensorSpan (ownByte s e) else none

/-- The global VAs of an operation's destination, on whatever page, that shared output ranges are compared with: R49 says
"destination overlaps"; from the lowest to the highest byte, as R100 registers it (DESIGN CHOICE: log entry 65). -/
def destVas (o : ShuttleOp) : Option (Nat × Nat) :=
  match o.kind with
  | .read | .gather =>
    if o.glb && isLocalVa o.dense && o.denseBytes ≠ 0 then some (o.dense.toNat, o.dense.toNat + o.denseBytes - 1) else none
  | _ => if isLocalVa o.tensor.base then o.tensorSpan (fun va => va < 2 ^ 57) else none

/-- The destination and source ranges of an operation. -/
def opRanges (s : State) (e : Env) (o : ShuttleOp) : Option (Nat × Nat) × Option (Nat × Nat) :=
  match o.kind with
  | .read | .gather => (denseSpan s e o, tensorRange s e o)
  | .write | .scatter => (tensorRange s e o, denseSpan s e o)
  | _ => (tensorRange s e o, none)

/-- Whether two byte ranges meet. -/
def spansMeet (a b : Option (Nat × Nat)) : Bool :=
  match a, b with
  | some (l, h), some (l', h') => l ≤ h' && l' ≤ h
  | _, _ => false

/-- Whether an operation meets its gang's range locks (order 5 of R218). -/
def lockRefuses (s : State) (e : Env) (dst src : Option (Nat × Nat)) : Bool :=
  (s.cluster e.cluster).locks.any fun k => k.gang = e.wg.gang &&
    (spansMeet dst k.src || spansMeet dst k.dst || spansMeet src k.dst)

/-- Whether a bitmap is bound to an operation that has not completed. -/
def bitmapBound (s : State) (key : Nat) : Bool :=
  s.shuttles.any fun (_, o) => o.kind != .flat && o.bitmap = key && o.aborted.isNone

/-- What an issue asks for: the operation and the registers its checks look at. -/
structure ShuttleIssue where
  op     : ShuttleOp
  record : List Byte
  bitmap : DWord
  dense  : DWord
deriving Repr

/-- The checks of R218 in order: the fault's code and address, or the operation with its keys. -/
def shuttleCheck (s : State) (e : Env) (x : ShuttleIssue) : Except (Byte × DWord) ShuttleOp :=
  let o := x.op
  let t := o.tensor
  let fill := o.kind == .fill
  let bmOff := x.bitmap.toNat
  if tensorReserved x.record || compReserved o.comp then .error (0x02, 0)
  else if t.bad || (o.byRows && t.rank ≠ 2) || (o.tr && t.badTr) || 131072 < o.denseBytes then .error (0x01, 0)
  else if t.base.toNat % 16 ≠ 0 then .error (0x12, t.base)
  else if t.misOrigin (o.origin.getD 0 0) then .error (0x12, t.base)
  else if !fill && x.dense.toNat % (if t.ew = 5 then 8 else 4) ≠ 0 then .error (0x12, x.dense)
  else if bmOff % 32 ≠ 0 then .error (0x12, x.bitmap)
  else if 2 ^ 18 ≤ bmOff || e.H.scratch < bmOff + 32 then .error (0x11, x.bitmap)
  else
    let scr := if o.glb || fill then some (o.wg, 0) else resolveScr s e o.denseBytes x.dense
    match scr with
    | none => .error (0x11, x.dense)
    | some (wg, off) =>
      if compBarv o.comp && (barOwner s e (compBar o.comp)).isNone then .error (0x11, 0)
      else if compPv o.comp && !pinOk s e.det (compPin o.comp) then .error (0x11, 0)
      else
        let o := { o with wg, bitmap := scrKey e.wgId bmOff,
                          dense := if o.glb || fill then x.dense else BitVec.ofNat 64 off }
        let (dst, src) := opRanges s e o
        if bitmapBound s o.bitmap then .error (0x14, x.bitmap)
        else if lockRefuses s e dst src then .error (0x14, BitVec.ofNat 64 ((dst.map (·.1)).getD 0))
        else if e.det && !e.w.hold && (match destVas o with
            | some (l, h) => sharedHit e.H l (h + 1 - l) | none => false) then
          .error (0x15, BitVec.ofNat 64 (((destVas o).map (·.1)).getD 0))
        else .ok o

/-- Bits 0 to n − 1 of a bitmap in scratch cleared (R218). -/
def State.clearBits (s : State) (key n : Nat) : State :=
  let x := s.natAt key 32
  (s.setNat key 32 (x / 2 ^ n * 2 ^ n)).dirtyStash key 32

/-- Whether an operation writes outside its workgroup's own scratch (R368). -/
def writesOut (e : Env) (o : ShuttleOp) : Bool :=
  match o.kind with | .read | .gather => o.glb || o.wg ≠ e.wgId | _ => true

/-- An operation issued: its bitmap cleared and bound, its range-lock entry taken, cp raised (R218). -/
def State.issueShuttle (s : State) (e : Env) (o : ShuttleOp) : State :=
  let (dst, src) := opRanges s e o
  let (id, s) := s.newId
  let s := { s with shuttles := (tfilter s.shuttles fun _ p => !(p.aborted.isSome && p.bitmap = o.bitmap)) }
  let s := { s with shuttles := tput s.shuttles id o }
  let s := s.modCluster e.cluster fun c => { c with locks := c.locks ++ [⟨id, e.wg.gang, src, dst⟩] }
  let s := s.clearBits o.bitmap o.chunks
  let s := s.modWave e.id fun w => { w with cpCnt := w.cpCnt + 1 }
  let s := if writesOut e o then s.sideEffect e.wgId else s
  if !o.glb && o.kind != .fill && o.wg ≠ e.wgId then s.sideEffect o.wg else s

/-- A leader-issued shuttle instruction (R218): the leader alone takes a fault, every other issuing lane advances. -/
def shuttleIssue (x : Shuttle) (s : State) (mk : Env → List Byte → ShuttleIssue) (regsOk : Env → Bool) : Res :=
  issue x.g s fun e =>
    if !regsOk e then illegalIssue e s 0x01
    else if e.active = 0 then done e s
    else if e.w.cpCnt = 63 || !settled s e then block e s
    else
      let leader := lowLane e.active
      let fail (f : Byte) (a : DWord) : Res := finish e s (fun l => if l = leader then .fault f a else .adv) false true
      match readPool s e x.pool with
      | .error (f, a) => if f = 0 then absorbWait e s [a] else fail f a
      | .ok r =>
        match shuttleCheck s e (mk e r) with
        | .error (f, a) => fail f a
        | .ok o =>
          if 64 ≤ (s.cluster e.cluster).locks.length then block e s else
          match s.fillKeys e.ctx e.wg.core [o.bitmap] with
          | .error (f, a) => if f = 0 then absorbWait e s [a] else fail f a
          | .ok s => done e (s.issueShuttle e o)

/-- The parts of an operation that every shuttle instruction fills alike. -/
def shuttleOp (e : Env) (x : Shuttle) (r : List Byte) (kind : ShuttleKind) (origin : List Int) : ShuttleOp :=
  { kind, wave := some e.id, lane := lowLane e.active, pc := e.pc, ctx := e.ctx, queue := e.L.queue, seq := e.L.seq,
    wid := e.wid (lowLane e.active), cluster := e.cluster, det := e.det, tensor := tensorOf r, origin, wg := e.wgId, len := 0, scope := x.scope,
    comp := e.w.sreg x.c.toNat }

/-- `shcopy` (R217 to R220). -/
def execShcopy (o : Shuttle) (wr glb tr : Bool) (s : State) : Res :=
  shuttleIssue o s (fun e r =>
    let dense := e.w.sreg o.b.toNat
    ⟨{ shuttleOp e o r (if wr then .write else .read) (originOf e.w o.a.toNat) with glb, tr, dense }, r, e.w.sreg o.d.toNat, dense⟩)
    fun _ => true

/-- `shfill` (R217, R220). -/
def execShfill (o : Shuttle) (s : State) : Res :=
  shuttleIssue o s (fun e r =>
    ⟨{ shuttleOp e o r .fill (originOf e.w o.a.toNat) with pattern := e.w.sreg o.b.toNat }, r, e.w.sreg o.d.toNat, 0⟩)
    fun _ => true

/-- A gather or scatter of the rows that the lanes name (R221). -/
def rowsIssue (o : Shuttle) (glb : Bool) (kind : ShuttleKind) (s : State) : Res :=
  shuttleIssue o s (fun e r =>
    let dense := e.w.sreg (o.a.toNat + 1)
    let rows := (lanesOf e.active).map fun l => (e.w.vreg o.b.toNat l).toNat
    ⟨{ shuttleOp e o r kind [coord (e.w.sreg o.a.toNat).toNat] with glb, rows, dense }, r, e.w.sreg o.d.toNat, dense⟩)
    fun e => e.vTy false o.b.toNat

/-- `shgath` (R221). -/
def execShgath (o : Shuttle) (glb : Bool) (s : State) : Res := rowsIssue o glb .gather s
/-- `shscat` (R221). -/
def execShscat (o : Shuttle) (glb : Bool) (s : State) : Res := rowsIssue o glb .scatter s

/-! ### Engine accesses -/

/-- Where an engine's byte stands: a key, or an address of another device. -/
inductive EngineByte where
  | key (k : Nat)
  | remote (va : DWord)
deriving DecidableEq, Repr

/-- The launch of an engine operation. -/
def opLaunch (s : State) (queue seq : Nat) : Option Launch := tget? s.launches (launchKey queue seq)

/-- A byte of this device that an engine may touch now: one of a line that is held waits (error 0), and a read of data that cannot
be corrected fails (R15, R286). -/
def engineKey (s : State) (va : DWord) (need : Need) (k : Nat) : Except (Byte × DWord) EngineByte :=
  if tideLocked s k 1 then .error (0, heldAddr)
  else if need != .write && badLine s k then .error (0x40, va)
  else .ok (.key k)

/-- A byte that an engine touches for a context (R218, R352). -/
def engineByte (s : State) (ctx : Nat) (L : Option Launch) (va : DWord) (need : Need) : Except (Byte × DWord) EngineByte :=
  if va.getLsbD 63 then
    let dev := remoteDev va
    if !reachable s dev then .error (0x16, va)
    else if dev ≠ s.fabric.index then .ok (.remote va)
    else match translateExport s dev ctx (remoteOff va) 1 need false with
      | .ok (_, p) => engineKey s va need p.key
      | .error f => .error (f, va)
  else if !isLocalVa va then .error (0x11, va)
  else match tget? s.ctxs ctx with
    | none => .error (0x11, va)
    | some c =>
      match translate s none ctx (c.seen s L) va.toNat need with
      | .ok p => engineKey s va need p.key
      | .error f => .error (f, va)

/-- What an engine gathers as it writes: cells of this device, and bytes for other devices. -/
structure EngineWrites where
  cells  : Table Byte := []
  remote : List (DWord × Byte) := []
deriving Repr

/-- A byte as an engine reads it, behind its own writes; a byte of another device is an open value (log entry 3). -/
def engineRead (s : State) (W : EngineWrites) : EngineByte → Byte × State
  | .key k => ((tget? W.cells k).getD (memGet s.mem k), s)
  | .remote va =>
    match W.remote.find? fun x => x.1 = va with
    | some (_, b) => (b, s)
    | none => let (n, s) := s.fresh; (BitVec.ofNat 8 n, s)

/-- A byte written. -/
def engineWrite (W : EngineWrites) (b : Byte) : EngineByte → EngineWrites
  | .key k => { W with cells := tput W.cells k b }
  | .remote va => { W with remote := (W.remote.filter fun x => x.1 ≠ va) ++ [(va, b)] }

/-- The bytes of a 64-bit word placed, or the fault of the first that cannot be written; data of its line that cannot be corrected is
a fault of its own (R15). -/
def wordWrites (s : State) (ctx : Nat) (L : Option Launch) (va w : DWord) : Except (Byte × DWord) EngineWrites := do
  let W ← ((leBytes 8 w.toNat).zipIdx).foldlM (fun W (b, i) => do
    pure (engineWrite W b (← engineByte s ctx L (va + BitVec.ofNat 64 i) .write))) ({} : EngineWrites)
  if W.cells.any fun x => badLine s x.1 then .error (0x40, va) else pure W

/-- The bytes that hold `w` bits from a bit offset of a base. -/
def spanBytes (bit w : Nat) : Nat := (bit + w + 7) / 8

/-- `w` bits read at a bit offset from a base whose bytes a function places. -/
def readBits (s : State) (W : EngineWrites) (place : Nat → Except (Byte × DWord) EngineByte) (bit w : Nat) :
    Except (Byte × DWord) (Nat × State) := do
  let lo := bit / 8
  let (x, s) ← (List.range (spanBytes (bit % 8) w)).foldlM (fun (acc : Nat × State) i => do
    let p ← place (lo + i)
    let (b, s) := engineRead acc.2 W p
    pure (acc.1 + b.toNat * 2 ^ (8 * i), s)) (0, s)
  pure (x / 2 ^ (bit % 8) % 2 ^ w, s)

/-- `w` bits written at a bit offset from a base. -/
def writeBits (s : State) (W : EngineWrites) (place : Nat → Except (Byte × DWord) EngineByte) (bit w v : Nat) :
    Except (Byte × DWord) (EngineWrites × State) := do
  let lo := bit / 8
  let sh := bit % 8
  (List.range (spanBytes sh w)).foldlM (fun (acc : EngineWrites × State) i => do
    let p ← place (lo + i)
    let (old, s) := engineRead acc.2 acc.1 p
    -- the bits of this byte that the field covers
    let a := if sh ≤ 8 * i then 0 else sh - 8 * i
    let b := min 8 (sh + w - 8 * i)
    let field := v * 2 ^ sh / 2 ^ (8 * i) % 256
    let keep := (old.toNat % 2 ^ a) + old.toNat / 2 ^ b * 2 ^ b
    pure (engineWrite acc.1 (BitVec.ofNat 8 (keep + field / 2 ^ a * 2 ^ a % 2 ^ b)) p, s)) (W, s)

/-- The placing of the dense image's bytes: scratch, or VAs. -/
def densePlace (s : State) (o : ShuttleOp) (need : Need) (i : Nat) : Except (Byte × DWord) EngineByte :=
  if o.glb then engineByte s o.ctx (opLaunch s o.queue o.seq) (o.dense + BitVec.ofNat 64 i) need
  else .ok (.key (scrKey o.wg (o.dense.toNat + i)))
/-- The placing of bytes from a VA. -/
def vaPlace (s : State) (o : ShuttleOp) (va : DWord) (need : Need) (i : Nat) : Except (Byte × DWord) EngineByte :=
  engineByte s o.ctx (opLaunch s o.queue o.seq) (va + BitVec.ofNat 64 i) need

/-- A fault of a transfer, with whether it met the side that is written (R360). -/
abbrev SideFault := (Byte × DWord) × Bool
/-- A transfer's fault marked with its side. -/
def onSide {α : Type} (write : Bool) : Except (Byte × DWord) α → Except SideFault α
  | .ok x => .ok x
  | .error f => .error (f, write)

/-- One element moved (R220). -/
def moveElem (o : ShuttleOp) (acc : EngineWrites × State) (n : Nat) : Except SideFault (EngineWrites × State) := do
  let (W, s) := acc
  let w := ewBits o.tensor.ew
  let (dp, t) := o.element n
  match o.kind with
  | .read | .gather =>
    let (v, s) ← match t with
      | some (va, bit) => onSide false (readBits s W (vaPlace s o va .read) bit w)
      | none => pure (0, s)
    onSide true (writeBits s W (densePlace s o .write) dp w v)
  | .write | .scatter =>
    match t with
    | none => pure (W, s)
    | some (va, bit) =>
      let (v, s) ← onSide false (readBits s W (densePlace s o .read) dp w)
      onSide true (writeBits s W (vaPlace s o va .write) bit w v)
  | .fill =>
    match t with
    | none => pure (W, s)
    | some (va, bit) => onSide true (writeBits s W (vaPlace s o va .write) bit w (o.pattern.toNat % 2 ^ w))
  | .flat => pure (W, s)

/-- One byte of a flat copy moved (R42). -/
def moveFlat (o : ShuttleOp) (acc : EngineWrites × State) (i : Nat) : Except SideFault (EngineWrites × State) := do
  let (W, s) := acc
  let (v, s) ← onSide false (readBits s W (vaPlace s o o.dense .read) (8 * i) 8)
  onSide true (writeBits s W (vaPlace s o o.tensor.base .write) (8 * i) 8 v)

/-- The elements of a chunk moved. -/
def moveChunk (s : State) (o : ShuttleOp) (c : Nat) : Except SideFault (EngineWrites × State) :=
  match o.kind with
  | .flat => (List.range (min 512 (o.len - 512 * c))).foldlM (fun acc i => moveFlat o acc (512 * c + i)) ({}, s)
  | _ => (o.chunkElems c).foldlM (moveElem o) ({}, s)

/-- An engine's writes performed: cells of this device in one write, which the issuing core's copies follow (R86, R102), bytes
of other devices as requests. -/
def State.engineStore (s : State) (core ctx : Nat) (W : EngineWrites) : State :=
  let s := (s.writeCells W.cells).modCore core fun c =>
    { c with copies := W.cells.foldl (fun t (k, b) => if cachedKey k then updateCopies t k [b] else t) c.copies }
  let s := W.cells.foldl (fun s (k, _) => if isScrKey k then s.dirtyStash k 1 else s) s
  W.remote.foldl (fun s (va, b) => s.sendReq core ctx (remoteDev va) true (.store (remoteOff va) [b])) s

/-- Whether one of 32 rows at a stride begins on another device. -/
def rowsAway (s : State) (base stride : DWord) : Bool :=
  (List.range 32).any fun r =>
    let va := base + stride * BitVec.ofNat 64 r
    va.getLsbD 63 && remoteDev va ≠ s.fabric.index

/-- The cells of a chunk's writes at the places of their list that a number's bits name. -/
def EngineWrites.only (W : EngineWrites) (part : Nat) : EngineWrites :=
  { cells := (W.cells.zipIdx.filter fun x => bitOf part x.2).map (·.1) }

/-! ### Bytes that an abort leaves old or new (R222) -/

/-- `w` bits of a destination made open, byte by byte, where its bytes can be written; the other bits of those bytes stay. -/
def openBits (acc : EngineWrites × State) (place : Nat → Except (Byte × DWord) EngineByte) (bit w : Nat) : EngineWrites × State :=
  (List.range (spanBytes (bit % 8) w)).foldl (fun acc i =>
    let lo := max bit (8 * (bit / 8 + i))
    let n := min (bit + w) (8 * (bit / 8 + i) + 8) - lo
    let (v, s) := acc.2.fresh
    match writeBits s acc.1 place lo n (v % 2 ^ n) with
    | .ok r => r
    | .error _ => (acc.1, s)) acc

/-- An element's destination made open. -/
def openElem (o : ShuttleOp) (acc : EngineWrites × State) (n : Nat) : EngineWrites × State :=
  let w := ewBits o.tensor.ew
  match o.kind, o.element n with
  | .read, (dp, _) | .gather, (dp, _) => openBits acc (densePlace acc.2 o .write) dp w
  | _, (_, some (va, bit)) => openBits acc (vaPlace acc.2 o va .write) bit w
  | _, (_, none) => acc

/-- The destination bytes of a chunk made open. -/
def openChunk (o : ShuttleOp) (acc : EngineWrites × State) (c : Nat) : EngineWrites × State :=
  match o.kind with
  | .flat => openBits acc (vaPlace acc.2 o o.tensor.base .write) (4096 * c) (8 * min 512 (o.len - 512 * c))
  | _ => (o.chunkElems c).foldl (openElem o) acc

/-- This device's destination bytes of every chunk that is not complete, old or new (R222; log entry 3). -/
def State.openLeft (s : State) (core : Nat) (o : ShuttleOp) : State :=
  let (W, s) := ((List.range o.chunks).filter fun c => !o.done.contains c).foldl (openChunk { o with sent := [] }) ({}, s)
  s.engineStore core o.ctx { W with remote := [] }

/-- Whether a chunk's writes wait for a tide lock (R286). -/
def writesLocked (s : State) (W : EngineWrites) : Bool := W.cells.any fun (k, _) => tideLocked s k 1

/-! ### Completion, pauses and aborts -/

/-- An engine record (R360): source 1, with a token when the operation is paused, and its progress index. -/
def State.engineFaultP (s : State) (ctx : Nat) (code : Byte) (addr pc : DWord) (seq queue core : Nat) (wid : DWord)
    (write : Bool) (owner : Option TokenOwner) (prog : DWord) : Option Nat × State :=
  let rem := remoteFault false code addr
  let mk (tok : Nat) (t : Bool) : RingRec :=
    { bytes := faultBytes code 1 (recordFlags rem false write t) 0 addr pc seq wid queue core tok prog
        (if rem then remoteDev addr else 0) 0, code, wave := none }
  match owner with
  | some x =>
    let (tok, s) := s.newId
    (some tok, s.modCtx ctx fun c => { c with faults := c.faults ++ [mk tok true], tokens := tput c.tokens tok ⟨x, code, addr, write⟩ })
  | none => (none, s.modCtx ctx fun c => { c with faults := c.faults ++ [mk 0 false] })

/-- An engine record with no progress index. -/
def State.engineFault (s : State) (ctx : Nat) (code : Byte) (addr pc : DWord) (seq queue core : Nat) (wid : DWord)
    (write : Bool) (owner : Option TokenOwner) : Option Nat × State :=
  s.engineFaultP ctx code addr pc seq queue core wid write owner 0

/-- The range-lock entry of an operation freed, and its wave's cp lowered. -/
def State.freeShuttle (s : State) (id : Nat) (o : ShuttleOp) : State :=
  let s := s.modCluster o.cluster fun c => { c with locks := c.locks.filter fun k => k.op ≠ id }
  match o.wave with
  | some w => if (tget? s.waves w).isSome then s.modWave w fun x => { x with cpCnt := x.cpCnt - 1 } else s
  | none => s

/-- The core of the wave that issued an operation. -/
def opCore (s : State) (o : ShuttleOp) : Nat := match o.wave.bind fun w => tget? s.wgs (wgOf w) with | some x => x.core | none => 0

/-- An operation aborted with a code and address (R222): the chunks that are not complete are old or new byte by byte, and a held
report falls to its leader lane; a graph's copy tells the fault ring (R42). -/
def State.abortShuttle (s : State) (id : Nat) (code : Byte) (addr : DWord) (write : Bool) : State :=
  match tget? s.shuttles id with
  | none => s
  | some o =>
    let s := (s.openLeft (opCore s o) o).freeShuttle id o
    match o.wave with
    | none =>
      let s := { s with shuttles := tdel s.shuttles id }
      (s.engineFault o.ctx code addr o.pc o.seq o.queue 0 0 write none).2
    | some w =>
      let s := { s with shuttles := tput s.shuttles id { o with aborted := some (code, addr), paused := none } }
      s.report w o.pc ⟨code, addr, o.lane, 2, none, none, id, 0, write, 2 * id⟩

/-- A fault met while transferring (R222): 0x10 and 0x70 pause the operation, the others abort it. -/
def State.shuttleFault (s : State) (id : Nat) (code : Byte) (addr : DWord) (write : Bool) : State :=
  match tget? s.shuttles id with
  | none => s
  | some o =>
    let s := s.ownNotices o.ctx write [(0, code, addr)]
    if code == 0x10 || code == 0x70 then
      let (tok, s) := s.engineFault o.ctx code addr o.pc o.seq o.queue (opCore s o) o.wid write (some (.shuttle id))
      { s with shuttles := tput s.shuttles id { o with paused := tok, sent := [] } }
    else s.abortShuttle id code addr write

/-- Whether an earlier operation of the same wave is still to complete (R131). -/
def earlierOp (s : State) (id : Nat) (o : ShuttleOp) : Bool :=
  o.wave.isSome && s.shuttles.any fun (k, p) => k < id && p.wave = o.wave && p.aborted.isNone

/-- The completion of an operation after its last bit (R220): pin, barrier, lock, counter. -/
def State.completeShuttle (s : State) (id : Nat) (o : ShuttleOp) : State :=
  let s := if compPv o.comp && !compPer o.comp then s.addPin o.det o.ctx (compPin o.comp) o.inc else s
  let s := if compBarv o.comp then
      match o.wave.bind fun w => (tget? s.wgs (wgOf w)).map fun W => (wgOf w, W) with
      | some (wgId, W) =>
        let b := compBar o.comp
        if b.peer then (match gangPeer s W.gang b.owner.toNat with
          | some (p, _) => ((s.sideEffect wgId).sideEffect p).arriveAt p b.index.toNat | none => s)
        else s.arriveAt wgId b.index.toNat
      | none => s
    else s
  { (s.freeShuttle id o) with shuttles := tdel s.shuttles id }

/-- The 128-byte scratch lines that a chunk's elements touch in the dense image, each by its first byte. -/
def denseLines (o : ShuttleOp) (c : Nat) : List Nat :=
  ((o.chunkElems c).flatMap fun n =>
    if o.kind == .write && (o.element n).2.isNone || o.kind == .scatter && (o.element n).2.isNone then [] else
    let (b, k) := o.denseBytesOf n
    [(o.dense.toNat + b) / 128, (o.dense.toNat + b + k - 1) / 128]).eraseDups.map fun l => scrKey o.wg (128 * l)

/-- Scratch lines of the stash that a chunk's dense bytes and its bit touch, filled (R82). -/
def fillDense (s : State) (o : ShuttleOp) (c : Nat) : Except (Byte × DWord) State :=
  if o.kind == .flat then .ok s else
  s.fillKeys o.ctx 0 ((if o.glb || o.kind == .fill then [] else denseLines o c) ++ [o.bitmap])

/-- The marker answers that a chunk waits for, once it has been moved to another device. -/
def ShuttleOp.awaits (o : ShuttleOp) (chunk : Nat) : Option (List (Nat × Nat × Nat)) :=
  (o.sent.find? fun x => x.1 = chunk).map (·.2)

/-- Whether a chunk of an operation can move, or its bit can be set, now. -/
def chunkReady (s : State) (id chunk : Nat) : Bool :=
  match tget? s.shuttles id with
  | none => false
  | some o => o.aborted.isNone && o.paused.isNone && chunk < o.chunks && !o.done.contains chunk &&
      !(o.done.length + 1 = o.chunks && earlierOp s id o) &&
      (match o.awaits chunk with | some ws => s.hasAnswers ws | none => true)

/-- A moved chunk complete: its bit set, its pin raised, and after the last bit the operation completed (R102, R220). -/
def State.chunkDone (s : State) (op : Nat) (o : ShuttleOp) (chunk : Nat) : State :=
  let o := { o with done := insertNat chunk o.done }
  let s := { s with shuttles := tput s.shuttles op o }
  let s := if o.kind == .flat then s else
    ((s.setNat (o.bitmap + chunk / 8) 1 ((s.natAt (o.bitmap + chunk / 8) 1) ||| 2 ^ (chunk % 8))).dirtyStash
      (o.bitmap + chunk / 8) 1)
  let s := if compPv o.comp && compPer o.comp then s.addPin o.det o.ctx (compPin o.comp) 1 else s
  if o.done.length = o.chunks then s.completeShuttle op o else s

/-- The chunk of an operation that is moved: its bytes for other devices are sent behind markers, which its bit then waits for
(R102). -/
def State.chunkMoved (s : State) (op : Nat) (o : ShuttleOp) (chunk : Nat) (W : EngineWrites) : State :=
  let core := opCore s o
  let s := s.engineStore core o.ctx W
  if W.remote.isEmpty then s.chunkDone op o chunk else
  let s := s.markers core o.ctx
  { s with shuttles := tput s.shuttles op { o with sent := o.sent ++ [(chunk, s.unanswered core)] } }

/-- `shuttle chunk done` (R220): the chunk's elements move, its bit is set, its pin rises; after the last bit the
operation completes. A fault pauses or aborts it instead (R222), and so does the loss of a device that a moved chunk went to. Where
`place` has bits above the chunk's 64, only those of its bytes on this device are written, ahead of the rest: an agent that does not
synchronise with the bit sees each byte old or new (R102). -/
def execShuttleChunkDone (op place : Nat) (s : State) : Res :=
  let chunk := place % 2 ^ 64
  match tget? s.shuttles op with
  | none => .next s
  | some o =>
    if !chunkReady s op chunk then .next s else
    match o.awaits chunk with
    | some ws =>
      if ws.any fun (_, dev, _) => s.fabric.member dev == .fenced then
        .next (s.shuttleFault op 0x41 (if o.glb && o.dense.getLsbD 63 then o.dense else o.tensor.base) true)
      else .next (s.chunkDone op { o with sent := o.sent.filter fun x => x.1 ≠ chunk } chunk)
    | none =>
      match (do moveChunk (← onSide false (fillDense s o chunk)) o chunk) with
      | .error ((f, a), wr) => .next (if f = 0 then s.absorb o.ctx [a.toNat] else s.shuttleFault op f a wr)
      | .ok (W, s') =>
        if writesLocked s W then .next s
        else if place / 2 ^ 64 = 0 then .next (s'.chunkMoved op o chunk W)
        else .next (s'.engineStore (opCore s o) o.ctx (W.only (place / 2 ^ 64)))

/-- Whether an operation has an endpoint on another device or in host memory, whose faults only that end finds. -/
def remoteEnd (o : ShuttleOp) : Bool := o.tensor.base.getLsbD 63 || (o.glb && o.dense.getLsbD 63)

/-- Whether the access that another end or uncorrectable data refused writes: a remote end's fault is that of the side at
its address (R217, R360). -/
def errorWrites (o : ShuttleOp) (code : Byte) (addr : DWord) : Bool :=
  code != 0x40 && (match o.kind with
    | .read | .gather => o.glb && o.dense.getLsbD 63 && !(o.tensor.base.getLsbD 63 && remoteDev addr = remoteDev o.tensor.base)
    | .write | .scatter | .fill => o.tensor.base.getLsbD 63 && !(o.glb && o.dense.getLsbD 63 && remoteDev addr = remoteDev o.dense)
    | .flat => o.tensor.base.toNat ≤ addr.toNat && addr.toNat < o.tensor.base.toNat + o.len)

/-- `shuttle transfer error` (R222): uncorrectable data anywhere, or a fault of a remote endpoint. -/
def execShuttleTransferError (op : Nat) (code : Byte) (addr : DWord) (s : State) : Res :=
  match tget? s.shuttles op with
  | none => .next s
  | some o =>
    let ok := code == 0x40 || (remoteEnd o && (code == 0x10 || code == 0x11 || code == 0x16 || code == 0x41 || code == 0x70))
    if ok && o.aborted.isNone && o.paused.isNone && o.done.length < o.chunks then .next (s.shuttleFault op code addr (errorWrites o code addr)) else .next s

/-! ### Bitmap instructions (R223) -/

/-- A bitmap instruction on its 8-byte scratch word, whose stash line is filled (R82); a peer's RESTARTABLE clears at the access
(R368). -/
def withWord (g : Guard) (a : BitVec 8) (s : State) (k : Env → State → Nat → Res) : Res :=
  waveLevel g false s fun e =>
    let va := e.w.sreg a.toNat
    if va.toNat % 8 ≠ 0 then faultAll e s 0x12 va else
    match resolveScr s e 8 va with
    | none => finish e s (fun _ => .fault 0x11 va) false true
    | some (wg, off) =>
      if !settled s e then block e s else
      match s.fillKeys e.ctx e.wg.core [scrKey wg off] with
      | .error (f, a) => if f = 0 then absorbWait e s [a] else faultAll e s f a
      | .ok s => k e (if wg = e.wgId then s else s.sideEffect wg) (scrKey wg off)

/-- `bmtest` (R223). -/
def execBmtest (g : Guard) (scope : Scope) (d a b : BitVec 8) (s : State) : Res :=
  withWord g a s fun e s key =>
    let m := e.w.sreg b.toNat
    let r := (BitVec.ofNat 64 (s.natAt key 8) &&& m) == m
    let s := if r then s.acquire e.wg.core e.wgId scope else s
    done e (s.modWave e.id fun w => w.setP d.toNat e.enabled (if r then 0xFFFFFFFF#32 else 0))

/-- The operations bound to the word at a key with a clear masked bit that meet a test: the identifiers. -/
def boundTo (s : State) (key : Nat) (mask : DWord) (p : ShuttleOp → Bool) : List Nat :=
  s.shuttles.filterMap fun (id, o) =>
    if o.kind != .flat && o.bitmap ≤ key && key < o.bitmap + 32 && p o &&
      ((List.range 64).any fun i =>
        let bit := (key - o.bitmap) * 8 + i
        mask.getLsbD i && bit < o.chunks && !o.done.contains bit) then some id else none

/-- `bmwait` (R223): it meets the reports of aborted operations whose clear bits it waits on (R222). -/
def execBmwait (g : Guard) (scope : Scope) (a b : BitVec 8) (s : State) : Res :=
  withWord g a s fun e s key =>
    let m := e.w.sreg b.toNat
    if (BitVec.ofNat 64 (s.natAt key 8) &&& m) == m then done e (s.acquire e.wg.core e.wgId scope) else
    let dead := boundTo s key m fun o => o.aborted.isSome
    gateWave e s (fun r => r.kind = 2 && dead.contains r.op) <|
      match dead.head?.bind fun id => (tget? s.shuttles id).bind (·.aborted) with
      | some (f, addr) => faultAll e s f addr
      | none => block e s

/-- `bmclr` (R223). -/
def execBmclr (g : Guard) (a b : BitVec 8) (s : State) : Res :=
  withWord g a s fun e s key =>
    let m := e.w.sreg b.toNat
    if s.shuttles.any (fun (_, o) => o.kind != .flat && o.aborted.isNone && o.bitmap ≤ key && key < o.bitmap + 32 &&
        (List.range 64).any fun i => m.getLsbD i && (key - o.bitmap) * 8 + i < o.chunks) then
      faultAll e s 0x14 (e.w.sreg a.toNat)
    else
      let s := if (scrPlace key).1 = e.wgId then s else s.sideEffect e.wgId
      done e ((s.setNat key 8 (BitVec.ofNat 64 (s.natAt key 8) &&& ~~~m).toNat).dirtyStash key 8)

end Sys2Proof.Machine
end

