-- ==== Sys2Proof/Machine/Hoop.lean ====
section
/-! DEFINITION. The hoop's instructions (R224 to R236): reservations, operand words, buffer moves, convergence registers
and signatures, and the entries that join a hoop queue. What the engine does with them is in `HoopRun`. -/

namespace Sys2Proof.Machine

/-! ### Completion words (R225) -/

/-- The fault of a hoop completion word: reserved bits, or a pin outside the partition under PV (R225). -/
def compFault (s : State) (det : Bool) (w : DWord) : Option Byte :=
  if bitsOf w.toNat 30 14 ≠ 0 then some 0x02
  else if compPv w && !pinOk s det (compPin w) then some 0x11 else none

/-- A completion word applied (R225). -/
def State.applyComp (s : State) (det : Bool) (ctx : Nat) (w : DWord) : State :=
  if compPv w then s.addPin det ctx (compPin w) 1 else s

/-- A wave-level hoop instruction (R224), at which reports of the wave's hoop entries fall (R231, R236). -/
def hoopWave (g : Guard) (s : State) (k : Env → Res) : Res :=
  waveLevel g true s fun e => gateWave e s (fun r => r.kind = 4) (k e)

/-! ### Reservations (R226, R227) -/

/-- The reservation that a record word asks for. -/
def resOf (w : Wave) (owner : Nat) (x y : DWord) : Reservation :=
  let n := x.toNat
  { remote := if bitOf n 63 then some y else none, kind := bitsOf n 62 61, bl32 := bitOf n 60,
    fmt := w.freg (bitsOf n 59 56), elt := bitsOf n 55 53, scoff := bitsOf n 51 32, len := bitsOf n 31 16,
    base := bitsOf n 15 0, owner }

/-- The SK of a reservation's elements: none where they are not narrow. -/
def Reservation.sk (r : Reservation) : Nat := if r.elt = 0 then (NFmt.ofWord r.fmt).sk else 0
/-- The size of a store in units of its kind. -/
def kindSize (kind : Nat) : Nat := match kind with | 0 => 16384 | 1 => 8192 | _ => 256

/-- What a record word breaks (R226): 0x30, or 0x31 for its format. -/
def resFault (r : Reservation) (x : DWord) : Option Byte :=
  if r.kind = 3 || 5 ≤ r.elt || x.getLsbD 52 || r.len = 0 || kindSize r.kind < r.base + r.len ||
      (r.kind = 2 && (r.bl32 || bitsOf x.toNat 59 56 ≠ 0 || r.elt ≠ 0 || r.scoff ≠ 0)) ||
      (match r.remote with | some y => r.kind ≠ 0 || r.base ≠ 0 || !y.getLsbD 63 || y.toNat % 256 ≠ 0 | none => false) then
    some 0x30
  else if r.kind = 2 then none
  else if r.elt = 0 && !NFmt.valid r.fmt then some 0x31
  else if r.sk = 0 then (if r.scoff ≠ 0 then some 0x30 else none)
  else if r.len * 256 ≤ r.scoff * 4 then some 0x30 else none

/-- Whether two reservations hold common units of one store. -/
def Reservation.meets (a b : Reservation) : Bool :=
  a.kind = b.kind && a.remote.isNone && b.remote.isNone && rangesMeet a.base a.len b.base b.len

/-- The gang of an issue. -/
def gangOf (s : State) (e : Env) : Gang := tgetD s.gangs e.wg.gang { cluster := e.cluster, launch := e.wg.launch, wgs := [] }

/-- Tiles set to +0.0 (R50, R227, R236). -/
def State.zeroTiles (s : State) (cluster t n : Nat) : State :=
  { s with mem := memClear s.mem (tileKey cluster t 0 0) (4096 * n) }

/-- `hres` (R226, R227). -/
def execHres (g : Guard) (d a : BitVec 8) (s : State) : Res :=
  hoopWave g s fun e =>
    let x := e.w.sreg a.toNat
    let r := resOf e.w e.wgId x (e.w.sreg (a.toNat + 1))
    match resFault r x with
    | some f => if f = 0x31 then illegalIssue e s f else faultAll e s f
    | none =>
      let G := gangOf s e
      if e.H.hres ≤ G.res.length || G.res.any (fun (_, o) => r.meets o) then faultAll e s 0x30
      else if s.gangs.any fun (id, o) => id ≠ e.wg.gang && o.cluster = e.cluster && o.res.any fun (_, p) => r.meets p then
        block e s
      else
        let h := ((List.range 64).find? fun h => (tget? G.res h).isNone).getD 0
        let s := s.modGang e.wg.gang fun G => { G with res := tput G.res h r }
        let s := if r.kind = 2 then s.zeroTiles e.cluster r.base r.len else s
        done e (s.modWave e.id fun w => w.setS d.toNat (BitVec.ofNat 64 h))

/-- The tiles of a product: the pair of an FP64 one (R233). -/
def mmaTiles (G : Gang) (a : DWord) : Nat :=
  match tget? G.res (bitsOf a.toNat 63 58) with | some r => if r.elt = 1 then 2 else 1 | none => 1

/-- The handles and tiles that a hoop operation refers to: operand words and the first tile with a number of tiles. -/
def HoopOp.refers (G : Gang) : HoopOp → List DWord × Nat × Nat
  | .mma _ d a b _ _ _ => ([a, b], d, mmaTiles G a)
  | .skld dst _ _ => ([dst], 0, 0)
  | .zero d n => ([], d, n)
  | .acld d _ _ _ ty => ([], d, if ty.is64 then 2 else 1)
  | .acst d _ _ _ _ _ _ ty => ([], d, if ty.is64 then 2 else 1)
  | .chainBegin | .chainEnd => ([], 0, 0)

/-- Whether an operation refers to a handle. -/
def HoopOp.uses (G : Gang) (op : HoopOp) (h : Nat) (r : Reservation) : Bool :=
  let (ws, t, n) := op.refers G
  ws.any (fun w => bitsOf w.toNat 63 58 = h) || (r.kind = 2 && n ≠ 0 && rangesMeet t n r.base r.len)

/-- Whether an entry of the gang, queued, running or formed, refers to a handle (R227). -/
def handleBusy (s : State) (gang : Nat) (G : Gang) (h : Nat) (r : Reservation) : Bool :=
  (s.wgs.any fun (_, W) => W.hq.any fun en => en.gang = gang && en.op.uses G h r) ||
  (G.conv.any fun (_, c) => c.formed.any fun en => en.op.uses G h r)

/-- `hrel` (R227). -/
def execHrel (g : Guard) (a : BitVec 8) (s : State) : Res :=
  hoopWave g s fun e =>
    let h := (e.w.sreg a.toNat).toNat
    let G := gangOf s e
    match tget? G.res h with
    | none => faultAll e s 0x30
    | some r =>
      if 64 ≤ h then faultAll e s 0x30
      else if handleBusy s e.wg.gang G h r then block e s
      else done e (s.modGang e.wg.gang fun G => { G with res := tdel G.res h })

/-! ### Operand words (R228) -/

/-- RES. -/
def opRes (w : DWord) : Nat := bitsOf w.toNat 63 58
/-- OFF. -/
def opOff (w : DWord) : Nat := bitsOf w.toNat 57 36
/-- STRIDE. -/
def opStride (w : DWord) : Nat := bitsOf w.toNat 35 22
/-- SO. -/
def opSo (w : DWord) : Nat := bitsOf w.toNat 21 0

namespace Reservation

/-- The width code of the elements, as R216 numbers widths. -/
def ew (r : Reservation) : Nat :=
  match r.elt with
  | 1 => 5 | 2 => 4 | 3 | 4 => 3
  | _ => (NFmt.ofWord r.fmt).ct
/-- The block length of scales. -/
def bl (r : Reservation) : Nat := if r.bl32 then 32 else 16
/-- The bytes of the range. -/
def bytes (r : Reservation) : Nat := r.len * 256

end Reservation

/-- One past the last byte that an operand's elements touch in the layouts of R228 and R231's `.buf` form. -/
def elemEnd (r : Reservation) (w : DWord) (k : Nat) (isA : Bool) : Nat :=
  if isA then opOff w + 4 * opStride w * 31 + (k * ewBits r.ew + 7) / 8 else
  let g := granElems r.ew
  let last := (k - 1) / g
  let rowEnd (row n : Nat) : Nat := opOff w + 4 * opStride w * row + 31 * granBytes r.ew + (n * ewBits r.ew + 7) / 8
  max (if last = 0 then 0 else rowEnd (last - 1) g) (rowEnd last (k - last * g))

/-- One past the last byte of an operand's scales. -/
def scaleEnd (r : Reservation) (w : DWord) (k : Nat) : Nat :=
  match r.sk with
  | 0 => 0
  | 3 => 4 * r.scoff + opSo w + 4
  | _ => 4 * r.scoff + opSo w + 32 * (k / r.bl)

/-- Whether an operand word breaks R228 in its role; `stream` for a skein stream, whose reach is found when it is read. -/
def operandBad (r : Reservation) (w : DWord) (k : Nat) (isA stream : Bool) : Bool :=
  opOff w % (if r.elt = 1 then 8 else 4) ≠ 0 || (r.elt = 1 && opStride w % 2 = 1) ||
  (!stream && r.bytes < elemEnd r w k isA) || (r.sk = 0 && opSo w ≠ 0) ||
  ((r.sk = 1 || r.sk = 2) && k % r.bl ≠ 0) || r.bytes < scaleEnd r w k

/-- The width κ of a k-step for two operands of one class (R70, R233). -/
def kappa (a b : Reservation) : Option Nat :=
  if a.elt = 1 && b.elt = 1 then some 1
  else if a.elt = 2 && b.elt = 2 then some 2
  else if (a.elt = 3 || a.elt = 4) && (b.elt = 3 || b.elt = 4) then some 8
  else if a.elt = 0 && b.elt = 0 then
    (if a.ew = 0 && b.ew = 0 then some 32 else if a.ew ≠ 0 && b.ew ≠ 0 then some 16 else none)
  else none

/-! ### The buffer's own moves (R230) -/

/-- An `hbwr` or `hbrd` at the key of its first byte. -/
def withBuffer (g : Guard) (d a : BitVec 8) (n : BitVec 3) (s : State) (k : Env → Nat → Reservation → Res) : Res :=
  issue g s fun e =>
    let cnt := n.toNat + 1
    if !e.vOk d.toNat cnt then illegalIssue e s 0x01 else
    gateLanes e (fun r => r.kind = 4) fun e =>
      let w := e.w.sreg a.toNat
      match tget? (gangOf s e).res (opRes w) with
      | none => faultAll e s 0x30
      | some r =>
        if r.kind ≠ 0 || r.remote.isSome || opStride w ≠ 0 || opSo w ≠ 0 || opOff w % 4 ≠ 0 ||
            r.bytes < opOff w + 128 * cnt then faultAll e s 0x30
        else k e (hoopKey e.cluster (256 * r.base + opOff w)) r

/-- `hbwr` (R230): helpers write like any lane; into a peer's reservation it clears RESTARTABLE (R368). -/
def execHbwr (g : Guard) (d a : BitVec 8) (n : BitVec 3) (s : State) : Res :=
  withBuffer g d a n s fun e key r =>
    let s := if e.enabled ≠ 0 && r.owner ≠ e.wgId then s.sideEffect e.wgId else s
    done e ((lanesOf e.enabled).foldl (fun s l => (List.range (n.toNat + 1)).foldl (fun s j =>
      { s with mem := memWrite s.mem (key + 128 * j + 4 * l) (leBytes 4 (e.w.vreg (d.toNat + j) l).toNat) }) s) s)

/-- `hbrd` (R230): counted in ld. -/
def execHbrd (g : Guard) (d a : BitVec 8) (n : BitVec 3) (s : State) : Res :=
  withBuffer g d a n s fun e key _ =>
    if e.enabled = 0 then done e s
    else if e.w.ldCnt = 63 then block e s
    else
      let (st, s) := s.newId
      done e (s.modWave e.id fun w => { w with
        loads := w.loads ++ [⟨.hbrd d.toNat (n.toNat + 1) key, st, e.pc, e.enabled, [], .wv, .rlx, .l1, 0, none⟩]
        ldCnt := w.ldCnt + 1 })

/-! ### Queues (R233) -/

/-- The reservation of a gang that holds an accumulator tile. -/
def tileRes (G : Gang) (t : Nat) : Option Reservation :=
  (G.res.find? fun (_, r) => r.kind = 2 && r.base ≤ t && t < r.base + r.len).map (·.2)
/-- Whether tiles lie in the gang's accumulator reservations. -/
def tilesHeld (G : Gang) (t n : Nat) : Bool := (List.range n).all fun i => (tileRes G (t + i)).isSome

/-- Whether tiles lie in a workgroup's own reservations (R368). -/
def tilesOwn (G : Gang) (wg t n : Nat) : Bool :=
  (List.range n).all fun i => match tileRes G (t + i) with | some r => r.owner = wg | none => false

/-- Whether a workgroup is still there. -/
def wgLive (s : State) (id : Nat) : Bool := match tget? s.wgs id with | some W => !W.retired | none => false
/-- The gang's resident workgroup with the lowest F2; where none is resident, the lowest that has not retired. -/
def gangHeir (s : State) (G : Gang) : Option Nat :=
  let live := G.wgs.filter (wgLive s)
  (live.find? fun id => match tget? s.wgs id with | some W => W.resident | none => false) <|> live.head?
/-- The queue that an operation on a tile joins (R233): the owner's, or its heir's. -/
def queueOf (s : State) (G : Gang) (t : Nat) : Option Nat :=
  match tileRes G t with
  | some r => if wgLive s r.owner then some r.owner else gangHeir s G
  | none => gangHeir s G

/-- Whether a workgroup's hoop queue has a free entry. -/
def hoopRoom (s : State) (wg : Nat) : Bool := match tget? s.wgs wg with | some W => W.hq.length < 64 | none => false
/-- An entry joins a queue. -/
def State.joinHoop (s : State) (wg : Nat) (en : HoopEntry) : State := s.modWg wg fun W => { W with hq := W.hq ++ [en] }

/-- An entry of a wave-level instruction. -/
def hoopEntry (e : Env) (op : HoopOp) (comp : DWord) : HoopEntry :=
  { op, wave := e.id, lanes := laneBit (lowLane e.active), wg := e.wgId, gang := e.wg.gang, pc := e.pc, comp }

/-- An entry joins the queue of a workgroup once that has room; RESTARTABLE clears where it writes outside (R368). -/
def joinOrBlock (e : Env) (s : State) (wg : Option Nat) (en : HoopEntry) (out : Bool) : Res :=
  match wg with
  | none => block e s
  | some wg =>
    if !hoopRoom s wg then block e s
    else
      let s := s.joinHoop wg { en with stamp := s.issuePlace }
      done e (if out then s.sideEffect e.wgId else s)

/-- `skld` (R231). DESIGN CHOICE: the spec gives no order for its checks (log entry 65); the completion word's come first, then 0x30,
then 0x12. -/
def execSkld (g : Guard) (a b c : BitVec 8) (len : Word) (s : State) : Res :=
  hoopWave g s fun e =>
    let w := e.w.sreg a.toNat
    let va := e.w.sreg b.toNat
    let comp := e.w.sreg c.toNat
    let n := len.toNat
    match compFault s e.det comp with
    | some f => faultAll e s f
    | none =>
      match tget? (gangOf s e).res (opRes w) with
      | none => faultAll e s 0x30
      | some r =>
        if r.kind ≠ 1 || opStride w ≠ 0 || opSo w ≠ 0 || opOff w % (if r.elt = 1 then 8 else 4) ≠ 0 ||
            n = 0 || n % 4 ≠ 0 || 2 ^ 21 < n || r.bytes < opOff w + n then faultAll e s 0x30
        else if va.toNat % 4 ≠ 0 then faultAll e s 0x12 va
        else joinOrBlock e s (some e.wgId) (hoopEntry e (.skld w va n) comp) (r.owner ≠ e.wgId)

/-- `hcbeg` (R234). -/
def execHcbeg (g : Guard) (s : State) : Res :=
  hoopWave g s fun e =>
    if e.wg.chain then faultAll e s 0x01
    else if !hoopRoom s e.wgId then block e s
    else done e (s.modWg e.wgId fun W => { W with chain := true, hq := W.hq ++ [hoopEntry e .chainBegin 0] })
/-- `hcend` (R234). -/
def execHcend (g : Guard) (s : State) : Res :=
  hoopWave g s fun e =>
    if !e.wg.chain then faultAll e s 0x01
    else if !hoopRoom s e.wgId then block e s
    else done e (s.modWg e.wgId fun W => { W with chain := false, hq := W.hq ++ [hoopEntry e .chainEnd 0] })

/-- `hzero` (R236). DESIGN CHOICE: the completion word's checks come before 0x32 (log entry 65). -/
def execHzero (g : Guard) (d c : BitVec 8) (n : BitVec 9) (s : State) : Res :=
  hoopWave g s fun e =>
    let G := gangOf s e
    let comp := e.w.sreg c.toNat
    match compFault s e.det comp with
    | some f => faultAll e s f
    | none =>
      if !tilesHeld G d.toNat n.toNat then faultAll e s 0x32
      else joinOrBlock e s (queueOf s G d.toNat) (hoopEntry e (.zero d.toNat n.toNat) comp) (!tilesOwn G e.wgId d.toNat n.toNat)

/-- The workgroups whose scratch the rows of a tile move name (R80). -/
def rowOwners (s : State) (e : Env) (base stride : DWord) : List Nat :=
  (List.range 32).filterMap fun i => (resolveScr s e 1 (base + BitVec.ofNat 64 i * stride)).map (·.1)

/-- A tile moved between the accumulator and memory (R236): the checks at issue. DESIGN CHOICE: the spec gives them no order (log entry
65); the completion word's come first, then 0x01, 0x31, 0x32 and 0x12. -/
def tileMove (g : Guard) (d a b c : BitVec 8) (ty : AluTy) (fmtOk : Env → Bool) (op : Env → HoopOp) (scr store : Bool) (s : State) : Res :=
  hoopWave g s fun e =>
    let G := gangOf s e
    let comp := e.w.sreg c.toNat
    let al := if ty.is64 then 8 else 4
    match compFault s e.det comp with
    | some f => faultAll e s f
    | none =>
      if ty.is64 && d.toNat % 2 = 1 then faultAll e s 0x01
      else if !fmtOk e then illegalIssue e s 0x31
      else if !tilesHeld G d.toNat (if ty.is64 then 2 else 1) then faultAll e s 0x32
      else if (e.w.sreg a.toNat).toNat % al ≠ 0 then faultAll e s 0x12 (e.w.sreg a.toNat)
      else if (e.w.sreg b.toNat).toNat % al ≠ 0 then faultAll e s 0x12 (e.w.sreg b.toNat)
      else
        let rows := if scr then rowOwners s e (e.w.sreg a.toNat) (e.w.sreg b.toNat) else []
        let out := if store then !scr || rows.any (· ≠ e.wgId) else !tilesOwn G e.wgId d.toNat (if ty.is64 then 2 else 1)
        andThen (joinOrBlock e s (queueOf s G d.toNat) (hoopEntry e (op e) comp) out) fun s' =>
          if isWaiting s' e.id then s' else rows.foldl (fun s wg => if wg ≠ e.wgId then s.sideEffect wg else s) s'

/-- `hacst` (R236). -/
def execHacst (g : Guard) (d a b c : BitVec 8) (scr q : Bool) (f : BitVec 4) (rnd : Rnd) (ty : AluTy) (s : State) : Res :=
  tileMove g d a b c ty
    (fun e => !q || (ty == .f32 && NFmt.valid (e.w.freg f.toNat) && (NFmt.ofWord (e.w.freg f.toNat)).sk = 0))
    (fun e => .acst d.toNat (e.w.sreg a.toNat) (e.w.sreg b.toNat) scr q (e.w.freg f.toNat) rnd ty) scr true s

/-- `hacld` (R236). -/
def execHacld (g : Guard) (d a b c : BitVec 8) (scr : Bool) (ty : AluTy) (s : State) : Res :=
  tileMove g d a b c ty (fun _ => true)
    (fun e => .acld d.toNat (e.w.sreg a.toNat) (e.w.sreg b.toNat) scr ty) scr false s

/-! ### Signing (R232) -/

/-- A convergence register of the gang. -/
def convOf (G : Gang) (i : Nat) : Conv := tgetD G.conv i {}

/-- `hcvr` (R232). -/
def execHcvr (g : Guard) (d a : BitVec 8) (s : State) : Res :=
  hoopWave g s fun e =>
    let n := (e.w.sreg a.toNat).toNat
    let c := convOf (gangOf s e) d.toNat
    if n = 0 ∨ 16384 < n then faultAll e s 0x01
    else if c.count ≠ 0 then faultAll e s 0x22
    else done e (s.modGang e.wg.gang fun G => { G with conv := tput G.conv d.toNat { c with expected := n } })

/-- The checks of R232 in order for an issue's signing lanes. -/
def mmaFault (G : Gang) (src : HoopSrc) (d : Nat) (a b : DWord) (k : Nat) (c : Conv) (op : HoopOp) : Option Byte :=
  if c.expected = 0 then some 0x22 else
  match tget? G.res (opRes a), tget? G.res (opRes b) with
  | some ra, some rb =>
    let stream := src != .buf
    let n := (kappa ra rb).getD 1
    if ra.kind ≠ 0 || rb.kind ≠ (if stream then 1 else 0) || rb.remote.isSome || k = 0 || 256 < k || k % n ≠ 0 ||
        (src == .sp && k % 32 ≠ 0) || operandBad ra a k true false || operandBad rb b k false stream then some 0x30
    else if (kappa ra rb).isNone || (ra.elt = 0 && !NFmt.valid ra.fmt) || (rb.elt = 0 && !NFmt.valid rb.fmt) ||
        (src == .cb && !(rb.elt = 0 && rb.ew = 2)) then some 0x31
    else if ra.elt = 1 && d % 2 = 1 then some 0x01
    else if !tilesHeld G d (if ra.elt = 1 then 2 else 1) then some 0x32
    else if c.count ≠ 0 && c.op != some op then some 0x22
    else none
  | _, _ => some 0x30

/-- One lane's signature: the round's signers, and the operation formed when the count is reached. -/
def signLane (e : Env) (issueId : Nat) (op : HoopOp) (c : Conv) (l : Nat) : Conv :=
  let c := if c.count = 0 then { c with op := some op, signers := [], pc := e.pc } else c
  let signers := match c.signers.find? fun x => x.2.1 = issueId with
    | some _ => c.signers.map fun x => if x.2.1 = issueId then (x.1, x.2.1, x.2.2 ||| laneBit l) else x
    | none => c.signers ++ [(e.id, issueId, laneBit l)]
  if c.count + 1 < c.expected then { c with count := c.count + 1, signers }
  else
    let op := match op with | .mma src d a b k i _ => HoopOp.mma src d a b k i signers | x => x
    { c with count := 0, op := none, signers := [], formed := c.formed ++ [
        { op, wave := e.id, lanes := e.active, wg := e.wgId, gang := e.wg.gang, pc := c.pc, comp := 0 }] }

/-- `hmma` (R232): the enabled lanes that are not helpers sign and advance; a wave whose signature completes a round
then waits until the operation has a queue entry. -/
def execHmma (g : Guard) (src : HoopSrc) (d a b c : BitVec 8) (k : BitVec 9) (_rnd : BitVec 2) (s : State) : Res :=
  issue g s fun e => gateLanes e (fun r => r.kind = 4) fun e =>
    if e.active = 0 then done e s
    else if e.w.tlCnt = 63 then block e s
    else
      let G := gangOf s e
      let cv := convOf G c.toNat
      let aw := e.w.sreg a.toNat
      let bw := e.w.sreg b.toNat
      let op := HoopOp.mma src d.toNat aw bw k.toNat c.toNat []
      match mmaFault G src d.toNat aw bw k.toNat cv op with
      | some f => finish e s fun l => if e.active.getLsbD l then .fault f 0 else .adv
      | none =>
        let (issueId, s) := s.newId
        let cv' := (lanesOf e.active).foldl (signLane e issueId op) cv
        let formed := cv'.formed.length - cv.formed.length
        let s := s.modGang e.wg.gang fun G => { G with conv := tput G.conv c.toNat cv' }
        let s := if tilesOwn G e.wgId d.toNat (mmaTiles G aw) then s else s.sideEffect e.wgId
        let s := s.modWave e.id fun w => { w with
          tlCnt := w.tlCnt + 1, signs := w.signs ++ [(issueId, formed + (if cv'.count = 0 then 0 else 1))] }
        andThen (done e s) fun s =>
          if formed = 0 then s else s.modWave e.id fun w => { w with status := .waiting .forming }

/-- An operation formed in a gang whose queue has a free entry: the first of its convergence register, the register, the register's
other operations, and the queue. -/
structure Forming where
  reg  : Nat
  conv : Conv
  en   : HoopEntry
  rest : List HoopEntry
  wg   : Nat

/-- The first operation of a convergence register, where its queue has a free entry (R232, R233). -/
def formingAt (s : State) (G : Gang) (reg : Nat) (c : Conv) : Option Forming :=
  match c.formed with
  | [] => none
  | en :: rest =>
    (queueOf s G (match en.op with | .mma _ d .. => d | _ => 0)).bind fun wg =>
      if hoopRoom s wg then some ⟨reg, c, en, rest, wg⟩ else none

/-- `hoop op formation` (R232, R233): of the operations formed in a gang, the first of the lowest convergence register for which the
queue that it joins has a free entry joins it, and the wave that completed its round goes on when none of its operations waits. -/
def execHoopOpFormation (gang : Nat) (s : State) : Res :=
  match tget? s.gangs gang with
  | none => .next s
  | some G =>
    match G.conv.findSome? fun (i, c) => formingAt s G i c with
    | none => .next s
    | some f =>
      let conv := tput G.conv f.reg { f.conv with formed := f.rest }
      let s := (s.modGang gang fun G => { G with conv }).joinHoop f.wg f.en
      if conv.any fun (_, c) => c.formed.any fun x => x.wave = f.en.wave then .next s
      else .next (s.modWave f.en.wave fun w => { w with
        status := match w.status with | .waiting .forming => .ready | st => st })

end Sys2Proof.Machine
end

