-- ==== Sys2Proof/Machine/Splat.lean ====
section
/-! DEFINITION. The splat pipeline (R237 to R251): frame records, key emission, the shingle engine's sort, segments, splat
fetches, blending and its backward replay. -/

namespace Sys2Proof.Machine

/-! ### Records (R238) -/

/-- The VA of a record operand. -/
def recVa (e : Env) : RecRef → DWord
  | .pool i => BitVec.ofNat 64 (poolVa e i)
  | .reg r => e.w.sreg r.toNat

/-- The bytes at a remote VA as another device answers them at the present issue, if it does. -/
def State.remoteBytes (s : State) (va : DWord) (n : Nat) : Option (List Byte) :=
  (List.range n).mapM fun i => (s.answers.find? fun x => x.1 = va.toNat + i).map (·.2)

/-- Bytes that an instruction reads as it issues, as a load of a lane at `.dev`: the checks of R183 in order, then this device's
bytes, or another device's answer, which the wave waits for (error 0). A device that was reachable when the wait began and is lost
in it gives 0x41 (R84, R107). -/
def readAs (s : State) (e : Env) (l : Nat) (va : DWord) (n : Nat) : Except (Byte × DWord) (List Byte) :=
  match resolve s e .load .glb n true l va with
  | .error (.fault c a) => .error (if c == 0x16 && e.w.moored.getLsbD l then 0x41 else c, a)
  | .error .stall => .error (0, heldAddr)
  | .error .absorb => .error (0, va)
  | .ok t =>
    if t.acc.remote then
      match s.refused.find? fun x => x.1 = l && (x.2 == 0x40 || x.2 == 0x41) with
      | some (_, c) => .error (c, va)
      | none => match s.remoteBytes va n with | some bs => .ok bs | none => .error (0, va)
    else if badLine s t.acc.key then .error (0x40, va)
    else .ok (s.bytesAt t.acc.key n)

/-- Whether a VA is another device's. -/
def awayVa (s : State) (va : DWord) : Bool := va.getLsbD 63 && remoteDev va ≠ s.fabric.index

/-- The wait of lanes for what they read as their instruction issues: an absorbed fault, a line that is held, or another device's
answer, which the lanes then have outstanding (R84). -/
def readWait (e : Env) (s : State) (lanes : LaneMask) (va : DWord) : Res :=
  absorbWait e (if awayVa s va && va ≠ heldAddr then s.modWave e.id fun w => { w with moored := w.moored ||| lanes } else s) [va]

/-- A read that an instruction has made as it issued: the load that another device answered is sent, and no copy that the core
keeps of what was read is older than the value read (R86, R91). -/
def State.readDone (s : State) (e : Env) (va : DWord) (n : Nat) : State :=
  if awayVa s va then
    ((s.sendReq e.wg.core e.ctx (remoteDev va) false (.load (remoteOff va) n)).modCore e.wg.core fun k =>
      { k with remote := dropRemote k.remote (e.ctx * 2 ^ 64 + va.toNat) n }).modWave e.id fun w => { w with moored := 0 }
  else match resolve s e .load .glb n true (lowLane e.enabled) va with
    | .ok t => s.takeCopy e.wg.core .hs t.acc.key n
    | .error _ => s

/-- A record's fault at this device's own export window gives a notice beside the wave's record (R358, R360). -/
def noted (e : Env) (write : Bool) (code : Byte) (va : DWord) (r : Res) : Res :=
  match r with
  | .next s => .next (if (s.wave e.id).status == .stopped then s.ownNotices e.ctx write [(lowLane e.enabled, code, va)] else s)
  | r => r

/-- A record read at issue as a load at `.dev` (R238): a register's VA must be aligned to 64. -/
def readRec (s : State) (e : Env) (r : RecRef) : Except (Byte × DWord) (List Byte) :=
  readAs s e (lowLane e.enabled) (recVa e r) 64

/-- An instruction under its record, read behind the wave's own operations; its fault goes where the instruction says. -/
def withRec (e : Env) (s : State) (r : RecRef) (fail : Byte → DWord → Res) (k : State → List Byte → Res) : Res :=
  if !settled s e then block e s else
  match readRec s e r with
  | .error (f, a) => if f = 0 then readWait e s (laneBit (lowLane e.enabled)) a else noted e false f a (fail f a)
  | .ok bs => k (s.readDone e (recVa e r) 64) bs

/-- A fault of every enabled lane that is not a helper; helpers advance. -/
def faultActive (e : Env) (s : State) (write : Bool) (code : Byte) (addr : DWord) : Res :=
  finish e s (fun l => if e.active.getLsbD l then .fault code addr else .adv) write

/-! ### The frame record (R237) -/

/-- The fields of a frame record. -/
structure Frm where
  keys : DWord
  temp : DWord
  out : DWord
  cursor : DWord
  seg : DWord
  status : DWord
  splats : DWord
  capacity : Nat
  tw : Nat
  th : Nat
deriving DecidableEq, Repr

/-- A frame record's fields. -/
def frmOf (r : List Byte) : Frm :=
  let f (o : Nat) : DWord := BitVec.ofNat 64 (leAt r o 8)
  ⟨f 0, f 8, f 0x10, f 0x18, f 0x20, f 0x28, f 0x30, leAt r 0x38 4, leAt r 0x3C 2, leAt r 0x3E 2⟩

/-- The first misaligned field of a list, with its required alignment. -/
def misField (fs : List (DWord × Nat)) : Option DWord := (fs.find? fun (a, n) => a.toNat % n ≠ 0).map (·.1)
/-- The capacity is out of range. -/
def badCapacity (f : Frm) : Bool := f.capacity = 0 || 2 ^ 28 < f.capacity
/-- The tile counts are out of range. -/
def badTiles (f : Frm) : Bool := f.tw = 0 || f.th = 0 || 2 ^ 24 < f.tw * f.th

/-- Whether a VA lies on a page that a field of a record may not name: a host or a replicated one (R237). -/
def barredPage (s : State) (e : Env) (kind : AccKind) (va : DWord) : Bool :=
  match translate s (some e.wg.core) e.ctx e.c va.toNat kind.need with | .ok p => p.host || p.repl | .error _ => false

/-- A lane's access to a field that must be local, of this device and not replicated: its page is refused before locks are
looked at (R183, R237). -/
def resolveLocal (s : State) (e : Env) (kind : AccKind) (size l : Nat) (va : DWord) : Except AccErr Target :=
  if va.getLsbD 63 then .error (.fault 0x11 va) else
  match resolve s e kind .glb size true l va with
  | .ok t => if t.host || t.repl then .error (.fault 0x11 va) else .ok t
  | .error .stall => if barredPage s e kind va then .error (.fault 0x11 va) else .error .stall
  | .error (.fault c a) => .error (.fault (if (c == 0x14 || c == 0x15) && barredPage s e kind va then 0x11 else c) a)
  | .error .absorb => .error .absorb

/-! ### Keys (R240 to R242) -/

/-- The ordered depth (R240). -/
def ordDepth (d : Nat) : Nat :=
  let d := if d = 2 ^ 31 then 0 else d
  if d < 2 ^ 31 then d ^^^ 0x80000000 else d ^^^ 0xFFFFFFFF

/-- A lane's rectangle clipped to the tiles: x0, y0, x1, y1 (R241). -/
def clipRect (w : Wave) (c l tw th : Nat) : Int × Int × Int × Int :=
  let a := (w.vreg c l).toNat
  let b := (w.vreg (c + 1) l).toNat
  (max (sext 16 a) 0, max (sext 16 (a / 65536)) 0, min (sext 16 b) ((tw : Int) - 1), min (sext 16 (b / 65536)) ((th : Int) - 1))

/-- The tiles that a lane emits, in order, by identifier (R241). -/
def laneTiles (w : Wave) (a c l : Nat) (f : Frm) : List Nat :=
  let (x0, y0, x1, y1) := clipRect w c l f.tw f.th
  if fmt32.isNaN (w.vreg a l).toNat ∨ x1 < x0 ∨ y1 < y0 then [] else
  (List.range (y1 - y0 + 1).toNat).flatMap fun y => (List.range (x1 - x0 + 1).toNat).map fun x =>
    (y0.toNat + y) * f.tw + x0.toNat + x

/-- The 16 bytes of a pair (R240). -/
def pairBytes (key : DWord) (val : Word) : List Byte := leBytes 8 key.toNat ++ leBytes 4 val.toNat ++ leBytes 4 0

/-- The pairs of an issue from slot `base`; those beyond the capacity are lost (R241). -/
def issuePairs (e : Env) (f : Frm) (a b c base : Nat) : List PairStore :=
  let all := (lanesOf e.active).flatMap fun l => (laneTiles e.w a c l f).map fun t => (l, t)
  (all.zipIdx).filterMap fun ((l, t), i) =>
    if base + i < f.capacity then
      some ⟨l, f.keys + BitVec.ofNat 64 (16 * (base + i)), BitVec.ofNat 64 (t * 2 ^ 32 + ordDepth (e.w.vreg a l).toNat), e.w.vreg b l⟩ else none

/-- Why emission stops before its end. -/
inductive EmitStop where
  | fault (lane : Nat) (code : Byte) (addr : DWord)
  | stall
  | absorb (addr : DWord)
deriving DecidableEq, Repr

/-- Pairs stored in order into the core's store order: what is left when a store stops the emission; faults 0x11, 0x14
and 0x40 end their lane's emission only (R242). -/
def emitPairs (e : Env) : State → List PairStore → State × List PairStore × Option EmitStop
  | s, [] => (s, [], none)
  | s, p :: ps =>
    if (s.wave e.id).emitBad.any fun x => x.1 = p.lane then emitPairs e s ps else
    let va := p.va
    let bad (c : Byte) (a : DWord) : State := s.modWave e.id fun w => { w with emitBad := w.emitBad ++ [(p.lane, c, a)] }
    match resolveLocal s e .store 16 p.lane va with
    | .error .stall => (s, p :: ps, some .stall)
    | .error .absorb => (s, p :: ps, some (.absorb va))
    | .error (.fault c a) =>
      if c == 0x10 || c == 0x70 then (s, p :: ps, some (.fault p.lane c a)) else emitPairs e (bad c a) ps
    | .ok t =>
      if badLine s t.acc.key then emitPairs e (bad 0x40 va) ps else
      let (st, s) := s.newId
      let s := s.modCore e.wg.core fun c => { c with fifo := c.fifo ++
        [⟨e.id, st, e.pc, e.ctx, .dev, .l1, [⟨t.acc, .plain (pairBytes p.key p.val)⟩], false, false, none⟩] }
      emitPairs e s ps

/-- The emission of the pairs that a wave holds, and the end of the instruction (R241, R242). -/
def emit (e : Env) (s : State) (d : Nat) : Res :=
  let n : Table Nat := (s.wave e.id).counts
  let (s, left, stop) := emitPairs e s (s.wave e.id).pairs
  let s := s.modWave e.id fun w => { w with pairs := left }
  match stop with
  | some (.fault l c a) =>
    .next ((s.modWave e.id fun w => { w with status := .ready }).laneFault e.id 0 (laneBit l) c a e.pc false true true [])
  | some .stall => block e s
  | some (.absorb a) => absorbWait e s [a]
  | none =>
    let bad := (s.wave e.id).emitBad
    let s := s.modWave e.id fun w => (lanesOf e.enabled).foldl (fun w l =>
      if bad.any fun x => x.1 = l then w else w.setV d l (BitVec.ofNat 32 (if e.active.getLsbD l then tgetD n l 0 else 0)))
      { w with emitBad := [], counts := [] }
    finish e s (fun l => match bad.find? fun x => x.1 = l with | some (_, c, a) => .fault c a | none => .adv) true

/-- `spkey` (R241, R242): one atomic reserves, then the pairs are stored; a wave that holds pairs goes on with them. -/
def execSpkey (g : Guard) (d a b c : BitVec 8) (r : RecRef) (s : State) : Res :=
  issue g s fun e =>
    if !(e.vOk d.toNat 1 && e.vOk a.toNat 1 && e.vOk b.toNat 1 && e.vOk c.toNat 2) then illegalIssue e s 0x01 else
    let zero (s : State) : State := s.modWave e.id fun w => (lanesOf (e.enabled &&& e.w.helpers)).foldl (fun w l => w.setV d.toNat l 0) w
    if e.active = 0 then done e (zero s) else
    if !e.w.pairs.isEmpty then emit e s d.toNat else
    withRec e s r (faultActive e (zero s) false) fun s bs =>
      let f := frmOf bs
      match misField [(f.keys, 16), (f.cursor, 8)] with
      | some x => faultActive e (zero s) false 0x12 x
      | none =>
        if badCapacity f || badTiles f then faultActive e (zero s) false 0x01 0 else
        let n (l : Nat) : Nat := (laneTiles e.w a.toNat c.toNat l f).length
        let total := (lanesOf e.active).foldl (fun t l => t + n l) 0
        let counts : Table Nat := (lanesOf e.active).map fun l => (l, n l)
        if total = 0 then emit e (s.modWave e.id fun w => { w with counts }) d.toNat
        else if e.det && !e.w.hold then faultAll e s 0x15 f.cursor true
        else match resolveLocal s e (.atom .add) 8 (lowLane e.active) f.cursor with
          | .error .stall => block e s
          | .error .absorb => absorbWait e s [f.cursor]
          | .error (.fault x a) => faultActive e (zero s) true x a
          | .ok t =>
            if badLine s t.acc.key then faultActive e (zero s) true 0x40 f.cursor else
            let (base, s) := s.rmw e.wg.core false .l1 (t.at .glb .dev true) .add .n64 total 0
            let s := (s.modWave e.id fun w => { w with
              pairs := issuePairs e f a.toNat b.toNat c.toNat base, counts }).sideEffect e.wgId
            emit e s d.toNat

/-! ### The sort (R243 to R246) -/

/-- Whether two buffers of `n` bytes overlap. -/
def overlap (a b : DWord) (n : Nat) : Bool := rangesMeet a.toNat n b.toNat n

/-- What refuses a sort at issue, in order (R243). -/
def sortFault (s : State) (e : Env) (comp : DWord) (f : Frm) : Option (Byte × DWord) :=
  if bitsOf comp.toNat 30 14 ≠ 0 then some (0x02, 0) else
  match misField [(f.keys, 16), (f.temp, 16), (f.out, 16), (f.cursor, 8), (f.seg, 8), (f.status, 8)] with
  | some x => some (0x12, x)
  | none =>
    let n := 16 * f.capacity
    if badCapacity f || badTiles f || overlap f.keys f.temp n || overlap f.keys f.out n || overlap f.temp f.out n then some (0x01, 0)
    else if compPv comp && !pinOk s e.det (compPin comp) then some (0x11, 0) else none

/-- `spsort` (R243). -/
def execSpsort (g : Guard) (a : BitVec 8) (r : RecRef) (s : State) : Res :=
  waveLevel g true s fun e => withRec e s r (fun f x => faultAll e s f x) fun s bs =>
    let comp := e.w.sreg a.toNat
    match sortFault s e comp (frmOf bs) with
    | some (f, x) => faultAll e s f x
    | none =>
      let (id, s) := s.newId
      let op : SortOp := { ctx := e.ctx, det := e.det, pc := e.pc, data := bs, comp, queue := e.L.queue, seq := e.L.seq, core := e.wg.core,
                            wid := e.wid (lowLane e.active) }
      done e ({ s with sorts := tput s.sorts id op }.sideEffect e.wgId)

/-- The place of a byte of an engine's buffer, which must be on this device's own, not replicated memory (R237). -/
def localPlace (s : State) (ctx : Nat) (L : Option Launch) (va : DWord) (need : Need) : Except (Byte × DWord) Nat :=
  if !isLocalVa va then .error (0x11, va) else
  match tget? s.ctxs ctx with
  | none => .error (0x11, va)
  | some c =>
    match translate s none ctx (c.seen s L) va.toNat need with
    | .error f => .error (f, va)
    | .ok p => if p.host || p.repl then .error (0x11, va) else .ok p.key

/-- A byte of such a buffer as an engine touches it now (R15, R286). -/
def localByte (s : State) (ctx : Nat) (L : Option Launch) (va : DWord) (need : Need) : Except (Byte × DWord) Nat := do
  let k ← localPlace s ctx L va need
  if tideLocked s k 1 then .error (0, heldAddr)
  else if need == .read && badLine s k then .error (0x40, va) else pure k

/-- `n` bytes of a buffer read. -/
def localRead (s : State) (ctx : Nat) (L : Option Launch) (va : DWord) (n : Nat) : Except (Byte × DWord) (List Byte) :=
  (List.range n).foldr (fun i acc => do
    let k ← localByte s ctx L (va + BitVec.ofNat 64 i) .read
    pure (memGet s.mem k :: (← acc))) (.ok [])

/-- Whether cells leave bytes of a line with uncorrectable data unwritten, so that writing them meets it (R15, R391). -/
def spoilsLine (s : State) (t : Table Byte) : Bool :=
  s.sys.bad.any fun l => (t.any fun (k, _) => k / 64 = l) && !(List.range 64).all fun i => (tget? t (64 * l + i)).isSome

/-- The cells that writing bytes at a VA takes. -/
def localWrite (s : State) (ctx : Nat) (L : Option Launch) (va : DWord) (bs : List Byte) : Except (Byte × DWord) (Table Byte) := do
  let t ← (bs.zipIdx).foldlM (fun t (b, i) => do
    let k ← localByte s ctx L (va + BitVec.ofNat 64 i) .write
    pure (tput t k b)) []
  if spoilsLine s t then .error (0x40, va) else pure t

/-- A pair as the sort orders it: the composite (R240). -/
def composite (bs : List Byte) (i : Nat) : Nat := leAt bs (16 * i) 7 * 2 ^ 32 + leAt bs (16 * i + 8) 4

/-- An element put after the last one whose key does not exceed its own. -/
def insertAfter (key : Nat → Nat) (x : Nat) : List Nat → List Nat
  | [] => [x]
  | y :: ys => if key x < key y then x :: y :: ys else y :: insertAfter key x ys
/-- A stable sort by a key. -/
def stableSort (key : Nat → Nat) (xs : List Nat) : List Nat := xs.foldl (fun acc x => insertAfter key x acc) []
/-- The pass of the counting sort on digit q, 1 to 8 (R243). -/
def sortPass (q : Nat) (xs : List Nat) : List Nat := stableSort (fun x => bitsOf x (11 * q - 1) (11 * q - 11)) xs

/-- The bytes of pairs by composite, the high key byte and the reserved bytes 0 (R243). -/
def sortedBytes (xs : List Nat) : List Byte := xs.flatMap fun x => pairBytes (BitVec.ofNat 64 (x / 2 ^ 32)) (BitVec.ofNat 32 x)

/-- A sort paused with an engine record (R245). -/
def State.pauseSort (s : State) (id : Nat) (o : SortOp) (code : Byte) (addr : DWord) (write status : Bool) : State :=
  let (tok, s) := s.engineFault o.ctx code addr o.pc o.seq o.queue o.core o.wid write (some (.sort id))
  { s with sorts := tput s.sorts id { o with paused := tok, atStatus := status } }

/-- A fault of a buffer: it waits, pauses, or aborts with N (R245). -/
def State.sortErr (s : State) (id : Nat) (o : SortOp) (n : Nat) (code : Byte) (addr : DWord) (write : Bool) : State :=
  if code = 0 then s.absorb o.ctx [addr.toNat]
  else if code == 0x10 || code == 0x70 then s.pauseSort id o code addr write false
  else { s with sorts := tput s.sorts id { o with ran := some (n, false, code) } }

/-- The cursor of a sort, read once (R243, R246): the sort that holds it, or its fault. -/
def sortCursor (s : State) (o : SortOp) : Except (Byte × DWord) SortOp :=
  if o.cursor.isSome then .ok o else do
    let cb ← localRead s o.ctx (opLaunch s o.queue o.seq) (frmOf o.data).cursor 8
    pure { o with cursor := some (leNat cb) }

/-- N, the pairs that a sort sets out to sort: 0 before the cursor is read (R245). -/
def SortOp.count (o : SortOp) : Nat := match o.cursor with | some c => min c (frmOf o.data).capacity | none => 0

/-- The composites of a sort's pairs, read once (R243). -/
def sortPairs (s : State) (o : SortOp) : Except (Byte × DWord) SortOp :=
  if o.pairs.isSome then .ok o else do
    let bs ← localRead s o.ctx (opLaunch s o.queue o.seq) (frmOf o.data).keys (16 * o.count)
    pure { o with pairs := some ((List.range o.count).map (composite bs)) }

/-- The cells of temp and out after the eight passes (R243). -/
def sortCells (s : State) (o : SortOp) : Except (Byte × DWord) (Table Byte × Table Byte) := do
  let L := opLaunch s o.queue o.seq
  let f := frmOf o.data
  let b6 := [1, 2, 3, 4, 5, 6].foldl (fun xs q => sortPass q xs) (o.pairs.getD [])
  let b7 := sortPass 7 b6
  let b8 := sortPass 8 b7
  pure ((← localWrite s o.ctx L f.temp (sortedBytes b7)), (← localWrite s o.ctx L f.out (sortedBytes b8)))

/-- `sort run` (R243): the cursor is read, then the pairs, and the eight passes write temp and out; what is read before a pause
stays read. -/
def execSortRun (id : Nat) (s : State) : Res :=
  match tget? s.sorts id with
  | none => .next s
  | some o =>
    if o.paused.isSome || o.ran.isSome then .next s else
    match sortCursor s o with
    | .error (x, a) => .next (s.sortErr id o 0 x a false)
    | .ok o =>
      match sortPairs s o with
      | .error (x, a) => .next ({ s with sorts := tput s.sorts id o }.sortErr id o o.count x a false)
      | .ok o =>
        let s := { s with sorts := tput s.sorts id o }
        match sortCells s o with
        | .error (x, a) => .next (s.sortErr id o o.count x a true)
        | .ok (t, u) => .next { ((s.writeCells t).writeCells u) with
            sorts := tput s.sorts id { o with ran := some (o.count, (frmOf o.data).capacity < o.cursor.getD 0, 0) } }

/-- The segment table of sorted pairs (R244). -/
def segTable (f : Frm) (tiles : List Nat) : List Byte :=
  ((List.range (f.tw * f.th)).foldl (fun (acc : List Byte × Nat) t =>
    let n := (tiles.filter (· = t)).length
    (acc.1 ++ leBytes 4 acc.2 ++ leBytes 4 n, acc.2 + n)) ([], 0)).1

/-- The end of a sort: its pin rises and the engine is free (R245). -/
def State.endSort (s : State) (id : Nat) (o : SortOp) : State :=
  ({ s with sorts := tdel s.sorts id }).applyComp o.det o.ctx o.comp

/-- `sort complete` (R244, R245): the segment table, then the status word, then the pin. -/
def execSortComplete (id : Nat) (s : State) : Res :=
  match tget? s.sorts id with
  | none => .next s
  | some o =>
    match o.paused, o.ran with
    | none, some (n, lost, fc) =>
      let f := frmOf o.data
      let L := opLaunch s o.queue o.seq
      let seg : Except (Byte × DWord) (Table Byte) :=
        if fc ≠ 0 || o.segs then .ok [] else do
          let bs ← localRead s o.ctx L f.out (16 * n)
          localWrite s o.ctx L f.seg (segTable f ((List.range n).map fun i => leAt bs (16 * i + 4) 3))
      match seg with
      | .error (x, a) => .next (s.sortErr id o n x a ((localRead s o.ctx L f.out (16 * n)).toBool))
      | .ok t =>
        let code := if fc ≠ 0 then 2 else if lost then 1 else 0
        match localWrite s o.ctx L f.status (leBytes 1 code ++ leBytes 1 fc.toNat ++ leBytes 2 0 ++ leBytes 4 n) with
        | .error (x, a) =>
          if x = 0 then .next (s.absorb o.ctx [a.toNat])
          else if x == 0x10 || x == 0x70 then .next ((s.writeCells t).pauseSort id { o with segs := true } x a true true)
          else .next (((s.writeCells t).engineFault o.ctx x f.status o.pc o.seq o.queue o.core o.wid true none).2.endSort id o)
        | .ok u => .next (((s.writeCells t).writeCells u).endSort id o)
    | _, _ => .next s

/-! ### Segments and splats (R247 to R249) -/

/-- `spseg` (R247). -/
def execSpseg (g : Guard) (d a : BitVec 8) (r : RecRef) (s : State) : Res :=
  waveLevel g false s fun e =>
    let put (x y : DWord) (s : State) : State := s.modWave e.id fun w => (w.setS d.toNat x).setS (d.toNat + 1) y
    let fail (c : Byte) (x : DWord) : Res := if e.active = 0 && spared c then done e (put 0 0 s) else faultAll e s c x
    withRec e s r fail fun s bs =>
      let f := frmOf bs
      let t := (e.w.sreg a.toNat).toNat
      if f.seg.toNat % 8 ≠ 0 then fail 0x12 f.seg
      else if badTiles f then fail 0x01 0
      else if f.tw * f.th ≤ t then fail 0x11 0
      else match resolveLocal s e .load 8 (lowLane e.enabled) (f.seg + BitVec.ofNat 64 (8 * t)) with
        | .error .stall => block e s
        | .error .absorb => absorbWait e s [f.seg + BitVec.ofNat 64 (8 * t)]
        | .error (.fault c x) => fail c x
        | .ok q =>
          if badLine s q.acc.key then fail 0x40 q.acc.va else
          done e (put (BitVec.ofNat 64 (s.natAt q.acc.key 4)) (BitVec.ofNat 64 (s.natAt (q.acc.key + 4) 4))
            (s.takeCopy e.wg.core .hs q.acc.key 8))

/-- The twelve words of a splat as lanes access them. -/
def splatAccesses (s : State) (e : Env) (splats : DWord) (idx l : Nat) : Except AccErr (List Target) :=
  allListed s e .load .glb 4 ((List.range 12).map fun k =>
    resolve s e .load .glb 4 true l (splats + BitVec.ofNat 64 (48 * idx + 4 * k)))

/-- The widest scope, `.dev` at least, that accesses of a `.dev` load execute at. -/
def devScope (acc : List LaneAcc) : Scope := acc.foldl (fun sc x => if atLeast x.scope sc then x.scope else sc) .dev

/-- `spfetch` (R249): counted in ld; the pair is read at issue, and its uncorrectable data is a report of each lane (R183). -/
def execSpfetch (g : Guard) (d a : BitVec 8) (r : RecRef) (s : State) : Res :=
  issue g s fun e =>
    if !e.vOk d.toNat 14 then illegalIssue e s 0x01
    else if e.enabled = 0 then done e s
    else if e.w.ldCnt = 63 then block e s
    else
      let j := (e.w.sreg a.toNat).setWidth 32
      let out (s : State) (op : LoadOp) (acc : List LaneAcc) (zeros : LaneMask) (f : Nat → Fate) : Res :=
        let (st, s') := s.newId
        finish e (s'.modWave e.id fun w => { w with
          loads := w.loads ++ [⟨op, st, e.pc, e.enabled &&& ~~~(maskOf fun l => match f l with | .fault _ _ => true | _ => false),
            acc, devScope acc, .rlx, .l1, zeros, none⟩]
          ldCnt := w.ldCnt + 1 }) f
      let fail (c : Byte) (x : DWord) : Res :=
        if !spared c then faultAll e s c x
        else if e.enabled &&& e.w.helpers = 0 then faultAll e s c x
        else out s (.spfetch d.toNat j 0) [] (e.enabled &&& e.w.helpers) fun l =>
          if e.w.helpers.getLsbD l then .adv else .fault c x
      withRec e s r fail fun s bs =>
        let f := frmOf bs
        match misField [(f.out, 16), (f.splats, 16)] with
        | some x => fail 0x12 x
        | none =>
          if badCapacity f then fail 0x01 0
          else if f.capacity ≤ j.toNat then fail 0x11 0
          else
            let l0 := lowLane e.enabled
            match resolveLocal s e .load 4 l0 (f.out + BitVec.ofNat 64 (16 * j.toNat + 8)) with
            | .error .stall => block e s
            | .error .absorb => absorbWait e s [f.out + BitVec.ofNat 64 (16 * j.toNat + 8)]
            | .error (.fault c x) => fail c x
            | .ok q =>
              if badLine s q.acc.key then
                done e ((lanesOf e.enabled).foldl (fun s l =>
                  s.report e.id e.pc ⟨0x40, q.acc.va, l, 0, some .dev, none, 0, 0, false, s.issuePlace⟩) s)
              else
              let idx := s.natAt q.acc.key 4
              match splatAccesses s e f.splats idx l0 with
              | .error .stall => block e s
              | .error .absorb => absorbWait e s [f.splats + BitVec.ofNat 64 (48 * idx)]
              | .error (.fault c x) => noted e false c x (fail c x)
              | .ok ts =>
                out (s.takeCopy e.wg.core .hs q.acc.key 4) (.spfetch d.toNat j (BitVec.ofNat 32 idx))
                  ((lanesOf e.enabled).flatMap fun l => ts.map fun t => { (t.at .glb .dev false) with lane := l }) 0 fun _ => .adv

/-! ### Blending (R250, R251) -/

/-- FP32 operations rounded to nearest, flags dropped: the pipeline sets none (R239). -/
def fsum (a b : Nat) : Nat := (fmt32.add .rne a b).1
/-- Difference. -/
def fdif (a b : Nat) : Nat := (fmt32.sub .rne a b).1
/-- Product. -/
def fprd (a b : Nat) : Nat := (fmt32.mul .rne a b).1
/-- Quotient. -/
def fquo (a b : Nat) : Nat := (fmt32.div .rne a b).1
/-- The value with its sign changed. -/
def fneg (a : Nat) : Nat := a ^^^ 0x80000000
/-- Numeric order; false with a NaN. -/
def fless (a b : Nat) : Bool := (fmt32.cmp (.rel .lt) a b).1
/-- Numeric at most; false with a NaN. -/
def fleq (a b : Nat) : Bool := (fmt32.cmp (.rel .le) a b).1

/-- The outcome of alpha(): a fault, a skip, or its values. -/
inductive Alpha where
  | bad
  | skip
  | some (a a0 g : Nat) (clamped : Bool) (dx dy t1 t2 t3 : Nat)
deriving DecidableEq, Repr

/-- alpha() of R250 for a splat's twelve words and a pixel. -/
def alphaOf (sp : List Nat) (px py : Nat) : Alpha :=
  let f (i : Nat) : Nat := sp.getD i 0
  if f 10 / 2 ≠ 0 then .bad else
  let dx := fdif px (f 0)
  let dy := fdif py (f 1)
  let t1 := fprd dx dx
  let t2 := fprd dx dy
  let t3 := fprd dy dy
  let finish (a0 g : Nat) : Alpha :=
    if fmt32.isNaN a0 then .skip else
    let clamped := fless 0x3F7E0000 a0
    let a := if clamped then 0x3F7E0000 else a0
    if fless a 0x3B800000 then .skip else .some a a0 g clamped dx dy t1 t2 t3
  if bitOf (f 10) 0 then
    finish (if fleq (fsum t1 t3) (fprd (f 11) (f 11)) then f 5 else 0) 0x3F800000
  else
    let sigma := fsum (fprd (fsum (fprd (f 2) t1) (fprd (f 4) t3)) 0x3F000000) (fprd (f 3) t2)
    if fmt32.isNaN sigma || fless sigma 0 then .skip else
    let g := (fmt32.exp2 .rne (fneg (fprd sigma 0x3FB8AA3B))).1
    finish (fprd (f 5) g) g

/-- The words of a register group of a lane. -/
def group (w : Wave) (n cnt l : Nat) : List Nat := (List.range cnt).map fun k => (w.vreg (n + k) l).toNat
/-- A group written for a lane. -/
def setGroup (w : Wave) (n l : Nat) (xs : List Nat) : Wave :=
  (xs.zipIdx).foldl (fun w (x, k) => w.setV (n + k) l (BitVec.ofNat 32 x)) w

/-- A lane's blend: the new state of five words and the live bit (R250); none where the splat is malformed. -/
def blendLane (st sp : List Nat) (px py : Nat) : Option (List Nat × Bool) :=
  let s (i : Nat) : Nat := st.getD i 0
  if bitOf (s 4) 31 then some (st, false) else
  let pos := sp.getD 12 0
  match alphaOf sp px py with
  | .bad => none
  | .skip => some (st, true)
  | .some a .. =>
    let tn := fprd (s 3) (fdif 0x3F800000 a)
    if fless tn 0x38800000 then some (st.take 4 ++ [pos ||| 0x80000000], false) else
    let wgt := fprd a (s 3)
    some ([0, 1, 2].map (fun c => fsum (s c) (fprd (sp.getD (6 + c) 0) wgt)) ++ [tn, (pos + 1) % 2 ^ 32], true)

/-- `spblend` (R250). -/
def execSpblend (g : Guard) (d a b c : BitVec 8) (s : State) : Res :=
  issue g s fun e =>
    if !(e.vOk d.toNat 5 && e.vOk a.toNat 14 && e.vOk b.toNat 2) then illegalIssue e s 0x01 else
    let res (l : Nat) := blendLane (group e.w d.toNat 5 l) (group e.w a.toNat 14 l) (e.w.vreg b.toNat l).toNat (e.w.vreg (b.toNat + 1) l).toNat
    let w := (lanesOf e.enabled).foldl (fun w l =>
      match res l with
      | some (st, live) => (setGroup w d.toNat l st).setP c.toNat (laneBit l) (if live then 0xFFFFFFFF#32 else 0)
      | none => w) e.w
    finish e (s.modWave e.id fun _ => w) fun l => if (res l).isNone then .fault 0x02 0 else .adv

/-- A lane's backward step (R251): the new state of ten words and the nine gradients; none where the splat is malformed. -/
def gradLane (st sp : List Nat) (px py : Nat) : Option (List Nat × List Nat) :=
  let s (i : Nat) : Nat := st.getD i 0
  let f (i : Nat) : Nat := sp.getD i 0
  let zeros := List.replicate 9 0
  if s 4 % 2 ^ 31 ≤ f 12 then some (st, zeros) else
  match alphaOf sp px py with
  | .bad => none
  | .skip => some (st, zeros)
  | .some a a0 g clamped dx dy t1 t2 t3 =>
    let om := fdif 0x3F800000 a
    let ti := fquo (s 3) om
    let wgt := fprd a ti
    let col (c : Nat) : Nat := f (6 + c)
    let p (c : Nat) : Nat := fprd (s (5 + c)) (fdif (col c) (s c))
    let dot := fsum (fsum (p 0) (p 1)) (p 2)
    let ga := fdif (fprd ti dot) (fprd (s 8) (fquo (s 9) om))
    let head : List Nat :=
      if clamped then List.replicate 6 0
      else if bitOf (f 10) 0 then [0, 0, 0, 0, 0, ga]
      else
        let gs := fneg (fprd ga a0)
        let h := fprd gs 0x3F000000
        [fneg (fprd gs (fsum (fprd (f 2) dx) (fprd (f 3) dy))), fneg (fprd gs (fsum (fprd (f 4) dy) (fprd (f 3) dx))),
          fprd h t1, fprd gs t2, fprd h t3, fprd ga g]
    let grads := head ++ [0, 1, 2].map fun c => fprd (s (5 + c)) wgt
    let b := [0, 1, 2].map fun c => fsum (fprd a (col c)) (fprd om (s c))
    some (b ++ [ti] ++ st.drop 4, grads)

/-- `spgrad` (R251). -/
def execSpgrad (g : Guard) (d a b c : BitVec 8) (s : State) : Res :=
  issue g s fun e =>
    if !(e.vOk d.toNat 10 && e.vOk a.toNat 14 && e.vOk b.toNat 2 && e.vOk c.toNat 9) then illegalIssue e s 0x01 else
    let res (l : Nat) := gradLane (group e.w d.toNat 10 l) (group e.w a.toNat 14 l) (e.w.vreg b.toNat l).toNat (e.w.vreg (b.toNat + 1) l).toNat
    let w := (lanesOf e.enabled).foldl (fun w l =>
      match res l with
      | some (st, gr) => setGroup (setGroup w d.toNat l st) c.toNat l gr
      | none => w) e.w
    finish e (s.modWave e.id fun _ => w) fun l => if (res l).isNone then .fault 0x02 0 else .adv

end Sys2Proof.Machine
end

