-- ==== Sys2Proof/Machine/Couching.lean ====
section
/-! DEFINITION. The couching rasteriser (R252 to R258): segments, flattening, chords, coverage slots and their resolve. -/

namespace Sys2Proof.Machine

/-- A wave-level instruction among 0xB6 to 0xB9 and 0xBE, at which reports of resolves fall (R258). -/
def rasterWave (g : Guard) (s : State) (k : Env → Res) : Res :=
  waveLevel g true s fun e => gateWave e s (fun r => r.kind = 5) (k e)

/-! ### Exact geometry -/

/-- A rational rounded to an integer, ties to even. -/
def rneDiv (num : Int) (den : Nat) : Int :=
  let q := num / (den : Int)
  let r := (num % (den : Int)).toNat
  if 2 * r < den then q else if den < 2 * r then q + 1 else if q % 2 = 0 then q else q + 1

/-- `half` of R256. -/
def halfRne (v : Int) : Int := rneDiv v 2

/-- A point. -/
abbrev Pt := Int × Int

/-- A point of a chord with its parameter n/d. -/
structure ChordPt where
  n : Nat
  d : Nat
  x : Int
  y : Int
deriving DecidableEq, Repr

/-- Points put in order by exact parameter; points of equal parameter are one. -/
def insertPt (p : ChordPt) : List ChordPt → List ChordPt
  | [] => [p]
  | q :: qs =>
    if p.n * q.d < q.n * p.d then p :: q :: qs
    else if p.n * q.d = q.n * p.d then q :: qs
    else q :: insertPt p qs

/-- The grid lines 256k, k in 0 to 32, strictly between two coordinates. -/
def gridBetween (a b : Int) : List Int :=
  ((List.range 33).map fun (k : Nat) => (256 * k : Int)).filter fun v => min a b < v && v < max a b

/-- The points of a chord (R257). -/
def chordPts (p0 p1 : Pt) : List ChordPt :=
  let (x0, y0) := p0
  let (x1, y1) := p1
  let ends : List ChordPt := [⟨0, 1, x0, y0⟩, ⟨1, 1, x1, y1⟩]
  let dy := (y1 - y0).natAbs
  let dx := (x1 - x0).natAbs
  let withY := (gridBetween y0 y1).foldl (fun ps v =>
    let n := (v - y0).natAbs
    insertPt ⟨n, dy, rneDiv (x0 * dy + n * (x1 - x0)) dy, v⟩ ps) ends
  (gridBetween x0 x1).foldl (fun ps v =>
    let n := (v - x0).natAbs
    insertPt ⟨n, dx, v, rneDiv (y0 * dx + n * (y1 - y0)) dx⟩ ps) withY

/-- A number added to an accumulator modulo 2^32 (R253). -/
def addAcc (t : Table Word) (row col : Nat) (x : Int) : Table Word :=
  tsetD t (32 * row + col) 0 (tgetD t (32 * row + col) 0 + BitVec.ofInt 32 x)

/-- One piece accumulated (R257). -/
def addPiece (sl : Slot) (xa ya xb yb : Int) : Slot :=
  let dy := yb - ya
  let row := min ya yb / 256
  let col := min xa xb / 256
  if dy = 0 ∨ row < 0 ∨ 31 < row then sl
  else if col < 0 then { sl with cover := addAcc sl.cover row.toNat 0 (512 * dy) }
  else if 31 < col then sl
  else
    let ua := xa - 256 * col
    let ub := xb - 256 * col
    { area := addAcc sl.area row.toNat col.toNat (-(dy * (ua + ub))), cover := addAcc sl.cover row.toNat col.toNat (512 * dy) }

/-- The pieces of a list of points accumulated. -/
def addPieces (sl : Slot) : List ChordPt → Slot
  | a :: b :: ps => addPieces (addPiece sl a.x a.y b.x b.y) (b :: ps)
  | _ => sl

/-- A chord accumulated (R257). -/
def addChord (sl : Slot) (p0 p1 : Pt) : Slot := addPieces sl (chordPts p0 p1)

/-- The midpoint of R255. -/
def midPt (a b : Pt) : Pt := ((a.1 + b.1) / 2, (a.2 + b.2) / 2)
/-- A point on the 1/256 grid (R256). -/
def halfPt (p : Pt) : Pt := (halfRne p.1, halfRne p.2)

/-- How far a quadratic stands from its chord (R255). -/
def quadDev (a b c : Pt) : Nat := max (2 * b.1 - a.1 - c.1).natAbs (2 * b.2 - a.2 - c.2).natAbs
/-- A quadratic flattened and accumulated; the number is the depths left (R255). -/
def addQuad (sl : Slot) (a b c : Pt) : Nat → Slot
  | 0 => addChord sl (halfPt a) (halfPt c)
  | n + 1 =>
    if quadDev a b c ≤ 64 then addChord sl (halfPt a) (halfPt c) else
    let q0 := midPt a b
    let q1 := midPt b c
    let m := midPt q0 q1
    addQuad (addQuad sl a q0 m n) m q1 c n

/-- How far a cubic stands from its chord (R255). -/
def cubicDev (a b c d : Pt) : Nat :=
  let f (a b c d : Int) : Nat := max (3 * b - 2 * a - d).natAbs (3 * c - a - 2 * d).natAbs
  max (f a.1 b.1 c.1 d.1) (f a.2 b.2 c.2 d.2)
/-- A cubic flattened and accumulated (R255). -/
def addCubic (sl : Slot) (a b c d : Pt) : Nat → Slot
  | 0 => addChord sl (halfPt a) (halfPt d)
  | n + 1 =>
    if cubicDev a b c d ≤ 96 then addChord sl (halfPt a) (halfPt d) else
    let q0 := midPt a b
    let q1 := midPt b c
    let q2 := midPt c d
    let s0 := midPt q0 q1
    let s1 := midPt q1 q2
    let m := midPt s0 s1
    addCubic (addCubic sl a q0 s0 m n) m s1 q2 d n

/-- A segment accumulated by its kind (R254, R255). -/
def addSegment (sl : Slot) (kind : CurveKind) (cs : List Int) : Slot :=
  let p (k : Nat) : Pt := (cs.getD (2 * k) 0, cs.getD (2 * k + 1) 0)
  let dbl (k : Nat) : Pt := (2 * (p k).1, 2 * (p k).2)
  match kind with
  | .line => addChord sl (p 0) (p 1)
  | .quad => addQuad sl (dbl 0) (dbl 1) (dbl 2) 8
  | .cubic => addCubic sl (dbl 0) (dbl 1) (dbl 2) (dbl 3) 10

/-! ### Emission (R253, R254) -/

/-- The registers of a segment group. -/
def segWords : CurveKind → Nat
  | .line => 4 | .quad => 6 | .cubic => 8

/-- `crvemit` (R254): the wave waits until its segments are accepted. -/
def execCrvemit (g : Guard) (kind : CurveKind) (a b : BitVec 8) (s : State) : Res :=
  issue g s fun e =>
    if !e.vOk b.toNat (segWords kind) then illegalIssue e s 0x01 else
    rasterWave g s fun e =>
      let segs := (lanesOf e.active).map fun l => (List.range (segWords kind)).map fun k => sext 32 (e.w.vreg (b.toNat + k) l).toNat
      .next ((s.modWave e.id fun w => { w with
        segs, segTag := (e.w.sreg a.toNat).setWidth 32, segKind := kind, status := .waiting .submitted }).sideEffect e.wgId)

/-- The context of a wave. -/
def waveCtx (s : State) (id : Nat) : Option (Nat × Context) := do
  let W ← tget? s.wgs (wgOf id)
  let L ← tget? s.launches W.launch
  let c ← tget? s.ctxs L.ctx
  some (L.ctx, c)

/-- A submitting wave's end: faulting lanes are taken, lanes that stood there with a report take it, every other issuing lane
advances, and the wave is ready. -/
def State.endSubmitted (s : State) (id : Nat) : State :=
  let w := s.wave id
  let bad := w.emitBad
  let pc := w.issuePc
  let rs := w.reports.filter fun r => r.kind = 5 && w.triHeld.getLsbD r.lane
  let s := s.modWave id fun w => (lanesOf w.issuingMask).foldl (fun x l =>
    if (bad.any fun y => y.1 = l) || w.triHeld.getLsbD l then x else x.setPc l (nextPc pc))
    { w with emitBad := [], triHeld := 0, status := .ready }
  (s.takeFaults id pc true bad).takeReports id pc rs

/-- `slot open` (R253): a slot for the tag of a waiting wave, within the context's quota and the device's 32 slots. -/
def execSlotOpen (wave : Nat) (s : State) : Res :=
  let w := s.wave wave
  match w.status, w.segs, waveCtx s wave with
  | .waiting .submitted, _ :: _, some (ctx, c) =>
    let tag := w.segTag.toNat
    let total := s.ctxs.foldl (fun n (_, c) => n + c.slots.length) 0
    if (tget? c.slots tag).isSome || c.slotq ≤ c.slots.length || 32 ≤ total then .next s
    else .next (s.modCtx ctx fun c => { c with slots := tput c.slots tag {} })
  | _, _, _ => .next s

/-- `segment accept` (R254): one segment enters its slot whole; after the last the wave goes on. -/
def execSegmentAccept (wave : Nat) (s : State) : Res :=
  let w := s.wave wave
  match w.status, w.segs, waveCtx s wave with
  | .waiting .submitted, seg :: rest, some (ctx, c) =>
    let tag := w.segTag.toNat
    match tget? c.slots tag with
    | none => .next s
    | some sl =>
      let s := s.modCtx ctx fun c => { c with slots := tput c.slots tag (addSegment sl w.segKind seg) }
      let s := s.modWave wave fun w => { w with segs := rest }
      .next (if rest.isEmpty then s.endSubmitted wave else s)
  | _, _, _ => .next s

/-! ### Resolve (R258) -/

/-- Bytes of one row of a resolve. -/
def ruleBytes (r : CurveRule) : Nat := match r with | .raw => 128 | _ => 64

/-- `crvres` (R258). -/
def execCrvres (g : Guard) (rule : CurveRule) (keep : Bool) (d a b c : BitVec 8) (s : State) : Res :=
  rasterWave g s fun e =>
    let out := e.w.sreg d.toNat
    let stride := e.w.sreg b.toNat
    let comp := e.w.sreg c.toNat
    match compFault s e.det comp with
    | some f => faultAll e s f
    | none =>
      if stride.toNat < ruleBytes rule then faultAll e s 0x01
      else if out.toNat % 64 ≠ 0 then faultAll e s 0x12 out
      else if stride.toNat % 64 ≠ 0 then faultAll e s 0x12 stride
      else
        let tag := (e.w.sreg a.toNat).toNat % 2 ^ 32
        let slot := tgetD e.c.slots tag {}
        let s := if keep then s else s.modCtx e.ctx fun c => { c with slots := tdel c.slots tag }
        let (id, s) := s.newId
        let op : ResolveOp :=
          { ctx := e.ctx, det := e.det, pc := e.pc, wave := e.id, lane := lowLane e.active, queue := e.L.queue,
            seq := e.L.seq, slot, rule, out, stride, comp, wid := e.wid (lowLane e.active) }
        done e ({ s with resolves := tput s.resolves id op }.sideEffect e.wgId)

/-- A resolved pixel from its running cover sum (R258). -/
def pixelOut (rule : CurveRule) (a : Word) : Nat :=
  let m := a.toInt.natAbs
  let scale (n : Nat) : Nat := (rneDiv (n * 65535 : Nat) (2 ^ 17)).toNat
  match rule with
  | .nz => scale (min m (2 ^ 17))
  | .eo => let u := m % 2 ^ 18; scale (if u ≤ 2 ^ 17 then u else 2 ^ 18 - u)
  | .raw => a.toNat

/-- The bytes of a resolved row. -/
def resolveRow (sl : Slot) (rule : CurveRule) (row : Nat) : List Byte :=
  ((List.range 32).foldl (fun (acc : List Byte × Word) col =>
    let sum := acc.2 + tgetD sl.cover (32 * row + col) 0
    let a := sum + tgetD sl.area (32 * row + col) 0
    (acc.1 ++ leBytes (match rule with | .raw => 4 | _ => 2) (pixelOut rule a), sum)) ([], 0)).1

/-- A resolve paused, or aborted with a held report of its lane (R222, R258). -/
def resolveFault (s : State) (id : Nat) (o : ResolveOp) (code : Byte) (addr : DWord) (vis : Bool) : State :=
  let core := match tget? s.wgs (wgOf o.wave) with | some W => W.core | none => 0
  if code = 0 then s.absorb o.ctx [addr.toNat] else
  let s := s.ownNotices o.ctx true [(0, code, addr)]
  let o := { o with sent := none }
  if code == 0x10 || code == 0x70 then
    let (tok, s) := s.engineFault o.ctx code addr o.pc o.seq o.queue core o.wid true (some (if vis then .vresolve id else .resolve id))
    if vis then { s with vresolves := tput s.vresolves id { o with paused := tok } }
    else { s with resolves := tput s.resolves id { o with paused := tok } }
  else
    let s := if vis then { s with vresolves := tdel s.vresolves id } else { s with resolves := tdel s.resolves id }
    s.report o.wave o.pc ⟨code, addr, o.lane, 5, none, none, id, 0, true, 2 * id⟩

/-- The bytes of a resolve's image where they are to be written (R258). -/
def resolveCells (s : State) (o : ResolveOp) : Except (Byte × DWord) EngineWrites :=
  let cells := (List.range 32).flatMap fun r => (resolveRow o.slot o.rule r).zipIdx.map fun (b, i) =>
    (o.out + BitVec.ofNat 64 r * o.stride + BitVec.ofNat 64 i, b)
  cells.foldlM (fun (W : EngineWrites) (va, b) => do
    pure (engineWrite W b (← engineByte s o.ctx (opLaunch s o.queue o.seq) va .write))) {}

/-- Whether a resolve's image has bytes on another device. -/
def ResolveOp.away (s : State) (o : ResolveOp) : Bool := rowsAway s o.out o.stride

/-- The completion of a resolve whose image is written: its pin rises (R225, R258). -/
def State.endResolve (s : State) (id : Nat) (o : ResolveOp) : State :=
  { s with resolves := tdel s.resolves id }.applyComp o.det o.ctx o.comp

/-- `crvres complete` (R258): the image is written and the pin rises, an image on another device once its markers are answered
(R95, R225); the error is what that device refuses, or its loss (R222). -/
def execCrvresComplete (r : ResolveReply) (s : State) : Res :=
  let id := r.id
  match tget? s.resolves id with
  | none => .next s
  | some o =>
    if o.paused.isSome then .next s
    else if o.away s && [0x10#8, 0x11#8, 0x16#8, 0x41#8, 0x70#8].contains r.err then .next (resolveFault s id o r.err o.out false)
    else match o.sent with
    | some ws =>
      if ws.any fun (_, dev, _) => s.fabric.member dev == .fenced then .next (resolveFault s id o 0x41 o.out false)
      else if s.hasAnswers ws then .next (s.endResolve id o) else .next s
    | none =>
      match resolveCells s o with
      | .error (f, a) => .next (resolveFault s id o f a false)
      | .ok W =>
        if writesLocked s W then .next s else
        let core := match tget? s.wgs (wgOf o.wave) with | some x => x.core | none => 0
        let s := s.engineStore core o.ctx W
        if W.remote.isEmpty then .next (s.endResolve id o) else
        let s := s.markers core o.ctx
        .next { s with resolves := tput s.resolves id { o with sent := some (s.unanswered core) } }

end Sys2Proof.Machine
end

