-- ==== Sys2Proof/Machine/Sampler.lean ====
section
/-! DEFINITION. The sampler (R265 to R269), quad mode and derivatives (R270, R271). -/

namespace Sys2Proof.Machine

/-! ### Image records (R265) -/

/-- The fields of an image record. -/
structure Img where
  base   : DWord
  resmap : DWord
  width  : Nat
  height : Nat
  levels : Nat
  ground : Nat
  fmt    : Nat
  mode   : Nat
  bias   : Nat
  minlod : Nat
  maxlod : Nat
deriving DecidableEq, Repr

/-- An image record's fields. -/
def imgOf (r : List Byte) : Img :=
  ⟨BitVec.ofNat 64 (leAt r 0 8), BitVec.ofNat 64 (leAt r 8 8), leAt r 0x10 4, leAt r 0x14 4, leAt r 0x18 1, leAt r 0x19 1,
    leAt r 0x1A 1, leAt r 0x1B 1, leAt r 0x1C 4, leAt r 0x20 4, leAt r 0x24 4⟩

/-- What an image record breaks, in the order of its fields. -/
def imgFault (r : List Byte) : Option (Byte × DWord) :=
  let i := imgOf r
  if i.base.toNat % 256 ≠ 0 then some (0x12, i.base)
  else if i.width = 0 || 65536 < i.width || i.height = 0 || 65536 < i.height then some (0x01, 0)
  else if i.levels = 0 || 1 + Nat.log2 (max i.width i.height) < i.levels || i.levels ≤ i.ground then some (0x01, 0)
  else if 16 ≤ i.fmt then some (0x02, 0)
  else if 9 ≤ i.fmt then some (0x01, 0)
  else if 8 ≤ i.mode then some (0x02, 0)
  else if 6 ≤ i.mode then some (0x01, 0)
  else if fmt32.isNaN i.minlod || fmt32.isNaN i.maxlod || fless i.maxlod i.minlod then some (0x01, 0)
  else if (r.drop 0x28).any (· ≠ 0) then some (0x02, 0) else none

namespace Img

/-- Width of a level (R266). -/
def w (i : Img) (L : Nat) : Nat := max 1 (i.width / 2 ^ L)
/-- Height of a level. -/
def h (i : Img) (L : Nat) : Nat := max 1 (i.height / 2 ^ L)
/-- Channels of a texel. -/
def chans (i : Img) : Nat := match i.fmt % 3 with | 0 => 1 | 1 => 2 | _ => 4
/-- Bytes of a channel. -/
def cbytes (i : Img) : Nat := match i.fmt / 3 with | 0 => 1 | 1 => 2 | _ => 4
/-- Bytes of a texel. -/
def bpt (i : Img) : Nat := i.chans * i.cbytes
/-- A level's row pitch. -/
def pitch (i : Img) (L : Nat) : Nat := (i.w L * i.bpt + 63) / 64 * 64
/-- Where a level begins, from the image's base. -/
def levelOff (i : Img) : Nat → Nat
  | 0 => 0
  | L + 1 => (i.levelOff L + i.pitch L * i.h L + 255) / 256 * 256
/-- Blocks in a row of a level. -/
def blocksX (i : Img) (L : Nat) : Nat := (i.w L + 63) / 64
/-- The first residency bit of a level. -/
def bitOff (i : Img) : Nat → Nat
  | 0 => 0
  | L + 1 => i.bitOff L + i.blocksX L * ((i.h L + 63) / 64)
/-- The VA of a texel. -/
def texelVa (i : Img) (x y L : Nat) : DWord := i.base + BitVec.ofNat 64 (i.levelOff L + y * i.pitch L + x * i.bpt)
/-- The residency bit of a texel's block, where it has one. -/
def bit (i : Img) (x y L : Nat) : Option Nat :=
  if i.resmap = 0 || i.ground ≤ L then none else some (i.bitOff L + y / 64 * i.blocksX L + x / 64)

/-- A channel's value as FP32. -/
def chan (i : Img) (x : Nat) : Nat :=
  match i.fmt / 3 with
  | 0 => (fmt32.round .rne false x 255 0).1
  | 1 => if fmt16.isNaN x then fmt16.moveNaN fmt32 x else (fmt16.convert fmt32 .rne x).1
  | _ => x
/-- A texel's four channels from its bytes as a number: a missing G or B is 0.0, a missing A 1.0 (R266). -/
def decode (i : Img) (t : Nat) : List Nat :=
  (List.range 4).map fun k =>
    if k < i.chans then i.chan (bitsOf t (8 * i.cbytes * (k + 1) - 1) (8 * i.cbytes * k))
    else if k = 3 then 0x3F800000 else 0

end Img

/-! ### Lookups (R267, R268) -/

/-- The floor of an FP32 number; of an infinite one an open integer (log entry 3). -/
def floorF (x : Nat) : Int :=
  match fmt32.value x with
  | .fin neg m e =>
    let v : Int := (m * 2 ^ e.toNat : Nat)
    (if neg then -v else v) / (2 ^ (-e).toNat : Nat)
  | .inf _ => Config.infiniteFloor x
  | .nan _ => 0

/-- rne(x − i) for an integer i. -/
def fracOf (x : Nat) (i : Int) : Nat := (fmt32.sum .rne [x] [fmt32.value x, .fin (decide (0 ≤ i)) i.natAbs 0]).1
/-- An integer as FP32. -/
def ofIntF (i : Int) : Nat := (fmt32.roundInt .rne i 0 false).1

/-- wrap() of R267: 0 clamp, 1 repeat, 2 mirror. -/
def wrapCoord (mode : Nat) (a : Int) (n : Nat) : Nat :=
  match mode with
  | 0 => (min (max a 0) ((n : Int) - 1)).toNat
  | 1 => (a % (n : Int)).toNat
  | _ => let m := (a % (2 * (n : Int))).toNat; if m < n then m else 2 * n - 1 - m

/-- lerp() of R267 per channel. -/
def lerp4 (p q : List Nat) (f : Nat) : List Nat := (p.zip q).map fun (a, b) => fsum a (fprd f (fdif b a))

/-- A lookup: the texels it reads, and its four channels from theirs. -/
structure TexPlan where
  texels : List (Nat × Nat × Nat)
  result : List (List Nat) → List Nat

/-- bil() of R267 from coordinates already in texels, less a half. -/
def bilinearAt (i : Img) (x y L : Nat) : TexPlan :=
  let a := floorF x
  let b := floorF y
  let fx := fracOf x a
  let fy := fracOf y b
  let t (da db : Int) : Nat × Nat × Nat := (wrapCoord (i.mode / 2) (a + da) (i.w L), wrapCoord (i.mode / 2) (b + db) (i.h L), L)
  { texels := [t 0 0, t 1 0, t 0 1, t 1 1]
    result := fun ts => lerp4 (lerp4 (ts.getD 0 []) (ts.getD 1 []) fx) (lerp4 (ts.getD 2 []) (ts.getD 3 []) fx) fy }

/-- bil() of R267. -/
def bilinear (i : Img) (u v L : Nat) : TexPlan :=
  bilinearAt i (fdif (fprd u (ofIntF (i.w L))) 0x3F000000) (fdif (fprd v (ofIntF (i.h L))) 0x3F000000) L

/-- A finite coordinate, else +0. -/
def finiteOr0 (x : Nat) : Nat := match fmt32.value x with | .fin .. => x | _ => 0

/-- The level of detail (R267): λ. -/
def lodOf (i : Img) (grad : Bool) (ws : List Nat) : Nat :=
  let c (k : Nat) : Nat := ws.getD k 0
  let wF := ofIntF i.width
  let hF := ofIntF i.height
  let lam :=
    if !grad then c 2 else
    let len (x y : Nat) : Nat := let a := fprd x wF; let b := fprd y hF; fsum (fprd a a) (fprd b b)
    fprd ((fmt32.log2 .rne (fmt32.fmax (len (c 2) (c 3)) (len (c 4) (c 5))).1).1) 0x3F000000
  let lam := fsum lam (if fmt32.isNaN i.bias then 0 else i.bias)
  let lam := if fmt32.isNaN lam then 0 else lam
  let lam := (fmt32.fmin (fmt32.fmax lam i.minlod).1 i.maxlod).1
  (fmt32.fmin (fmt32.fmax lam 0).1 (ofIntF ((i.levels : Int) - 1))).1

/-- The lookup of `texs` (R267), or its ground fallback. -/
def sample (i : Img) (grad approx : Bool) (ws : List Nat) : TexPlan :=
  let u := finiteOr0 (ws.getD 0 0)
  let v := finiteOr0 (ws.getD 1 0)
  if approx then bilinear i u v i.ground else
  let lam := lodOf i grad ws
  let tri := i.mode % 2 = 1
  let L := (floorF (if tri then lam else (fmt32.fround .rne lam).1)).toNat
  let f := if tri && L + 1 ≠ i.levels then fracOf lam L else 0
  let p := bilinear i u v L
  if f % 2 ^ 31 = 0 then p else
  let q := bilinear i u v (L + 1)
  { texels := p.texels ++ q.texels, result := fun ts => lerp4 (p.result (ts.take 4)) (q.result (ts.drop 4)) f }

/-- The lookup of `texf` (R268), or its ground fallback. -/
def fetchTexel (i : Img) (approx : Bool) (ws : List Nat) : TexPlan :=
  let x := sext 32 (ws.getD 0 0)
  let y := sext 32 (ws.getD 1 0)
  let L := ws.getD 2 0
  if i.levels ≤ L ∨ x < 0 ∨ y < 0 ∨ (i.w L : Int) ≤ x ∨ (i.h L : Int) ≤ y then ⟨[], fun _ => [0, 0, 0, 0]⟩
  else
    let g := i.ground
    let at' : Nat × Nat × Nat :=
      if approx then (min (x.toNat / 2 ^ (g - L)) (i.w g - 1), min (y.toNat / 2 ^ (g - L)) (i.h g - 1), g) else (x.toNat, y.toNat, L)
    ⟨[at'], fun ts => ts.getD 0 []⟩

/-- The lookup of a lane from its words. -/
def texPlan (i : Img) (grad fetch approx : Bool) (ws : List Nat) : TexPlan :=
  if fetch then fetchTexel i approx ws else sample i grad approx ws

/-! ### Issue (R269) -/

/-- The address of a residency bit's byte. -/
def bitVa (i : Img) (b : Nat) : DWord := i.resmap + BitVec.ofNat 64 (b / 8)

/-- A residency bit as a lane reads it (R269); its uncorrectable data, or a link lost while it waits, is a held report, since the
instruction is counted (R183). -/
def readBit (s : State) (e : Env) (i : Img) (l b : Nat) : Except AccErr Bool :=
  match readAs s e l (bitVa i b) 1 with
  | .error (0, va) => .error (if va = heldAddr then .stall else .absorb)
  | .error (f, va) => .error (.fault f va)
  | .ok bs => .ok (bitOf (leNat bs) (b % 8))

/-- The residency bits that a lane's lookup reads. -/
def lookupBits (i : Img) (grad fetch : Bool) (ws : List Nat) : List Nat :=
  ((texPlan i grad fetch false ws).texels.filterMap fun t => i.bit t.1 t.2.1 t.2.2).eraseDups

/-- Whether a lane's read at a VA is executed at `.sys` (R90). -/
def sysRead (s : State) (e : Env) (l : Nat) (va : DWord) : Bool :=
  match resolve s e .load .glb 1 true l va with | .ok t => t.sys | .error _ => false

/-- The accesses that read a texel. -/
def texelAccess (s : State) (e : Env) (i : Img) (l : Nat) (t : Nat × Nat × Nat) : List (Except AccErr Target) :=
  let va := i.texelVa t.1 t.2.1 t.2.2
  let n := min i.bpt 8
  (List.range (i.bpt / n)).map fun k => resolve s e .load .glb n true l (va + BitVec.ofNat 64 (8 * k))

/-- A lane's lookup: whether it falls back to the ground, and its accesses in order. Its residency bits are read first; of the faults
of its bits, and then of its texels, it takes the one that R183 lists first (R9). -/
def laneLookup (s : State) (e : Env) (i : Img) (grad fetch : Bool) (ws : List Nat) (l : Nat) :
    Except AccErr (Bool × List LaneAcc) := do
  let res ← allListed s e .load .glb 1 ((lookupBits i grad fetch ws).map fun b => readBit s e i l b)
  let approx := res.any (!·)
  let ts ← allListed s e .load .glb (min i.bpt 8) ((texPlan i grad fetch approx ws).texels.flatMap fun t => texelAccess s e i l t)
  pure (approx, ts.map fun t => t.at .glb .dev false)

/-- `texs` and `texf` at issue: the lookups of the lanes, counted in ld. -/
def texIssue (g : Guard) (d a c : BitVec 8) (r : RecRef) (grad fetch : Bool) (s : State) : Res :=
  issue g s fun e =>
    let n := if grad then 6 else 3
    if !(e.vOk d.toNat 4 && e.vOk a.toNat n) then illegalIssue e s 0x01
    else if e.enabled = 0 then done e s
    else if e.w.ldCnt = 63 then block e s
    else
      let out (acc : List LaneAcc) (co : List (Nat × List Word)) (bs : List Byte) (zeros : LaneMask) (fs : List (Nat × Byte × DWord))
          (s : State) : Res :=
        let lanes := maskOf fun l => co.any fun x => x.1 = l
        if lanes ||| zeros = 0 then finish e s (laneFates fs) else
        let (st, s) := s.newId
        finish e (s.modWave e.id fun w => { w with
          loads := w.loads ++ [⟨.tex grad fetch d.toNat c.toNat bs co, st, e.pc, lanes, acc, devScope acc, .rlx, .l1, zeros, none⟩]
          ldCnt := w.ldCnt + 1 }) (laneFates fs)
      let fail (x : Byte) (va : DWord) : Res :=
        let zeros := if spared x then e.enabled &&& e.w.helpers else 0
        out [] [] [] zeros ((lanesOf (e.enabled &&& ~~~zeros)).map fun l => (l, x, va)) s
      withRec e s r fail fun s bs =>
        match imgFault bs with
        | some (f, x) => fail f x
        | none =>
          let i := imgOf bs
          let ws (l : Nat) : List Word := (List.range n).map fun k => e.w.vreg (a.toNat + k) l
          let rs := (lanesOf e.enabled).map fun l => (l, laneLookup s e i grad fetch ((ws l).map (·.toNat)) l)
          if rs.any fun (_, x) => match x with | .error .absorb => true | _ => false then
            readWait e (s.absorb e.ctx ((lanesOf e.enabled).flatMap fun l =>
              (texPlan i grad fetch false ((ws l).map (·.toNat))).texels.map fun t => (i.texelVa t.1 t.2.1 t.2.2).toNat))
              (maskOf fun l => rs.any fun (k, x) => k = l && match x with | .error .absorb => true | _ => false) i.resmap
          else if rs.any fun (_, x) => match x with | .error .stall => true | _ => false then block e s
          else
            let all := rs.filterMap fun (l, x) => match x with | .error (.fault f va) => some (l, f, va) | _ => none
            let held := all.filter fun (_, f, _) => f == 0x40 || f == 0x41
            let faults := all.filter fun (_, f, _) => !(f == 0x40 || f == 0x41)
            let fs := faults.filter fun (l, f, _) => !helperSpared e l f
            let zeros := maskOf fun l => faults.any fun (k, f, _) => k = l && helperSpared e l f
            let oks := rs.filterMap fun (l, x) => match x with | .ok (ap, acc) => some (l, ap, acc) | _ => none
            let co := oks.map fun (l, ap, _) => (l, ws l ++ [if ap then (1 : Word) else 0])
            let reads := ((lanesOf e.enabled).flatMap fun l =>
              (lookupBits i grad fetch ((ws l).map (·.toNat))).map fun b => (l, bitVa i b))
            let sc : Scope := if reads.any fun (l, va) => sysRead s e l va then .sys else .dev
            let s := if reads.isEmpty then s else
              ((reads.map (·.2)).eraseDups.foldl (fun s va => s.readDone e va 1) s).acquire e.wg.core e.wgId sc
            let s := held.foldl (fun s (l, f, va) => s.report e.id e.pc
              ⟨f, va, l, 0, some (if f == 0x41 || sysRead s e l va then .sys else .dev), none, 0, 0, false, s.issuePlace⟩) s
            out (oks.flatMap fun (_, _, acc) => acc) co bs zeros fs (s.ownNotices e.ctx false fs)

/-- `texs` (R267, R269). -/
def execTexs (g : Guard) (grad : Bool) (d a c : BitVec 8) (r : RecRef) (s : State) : Res := texIssue g d a c r grad false s
/-- `texf` (R268, R269). -/
def execTexf (g : Guard) (d a c : BitVec 8) (r : RecRef) (s : State) : Res := texIssue g d a c r false true s

/-- A lane's four channels and approximation bit from the values of its accesses in order. -/
def texValue (bs : List Byte) (grad fetch : Bool) (ws : List Word) (vals : List Nat) : List Nat × Bool :=
  let i := imgOf bs
  let approx := (ws.getLast?.getD 0) ≠ 0
  let texels := if i.bpt ≤ 8 then vals else
    (List.range (vals.length / 2)).map fun k => vals.getD (2 * k) 0 + 2 ^ 64 * vals.getD (2 * k + 1) 0
  ((texPlan i grad fetch approx ((ws.dropLast).map (·.toNat))).result (texels.map i.decode), approx)

/-! ### Quads and derivatives (R270, R271) -/

/-- `quad` (R270). -/
def execQuad (g : Guard) (a : BitVec 8) (s : State) : Res :=
  waveLevel g false s fun e =>
    if !e.H.quad then faultAll e s 0x01 else
    let p := e.w.preg a.toNat
    done e (s.modWave e.id fun w => { w with helpers := e.w.liveMask &&& ~~~p })

/-- The lanes whose difference a lane receives: minuend and subtrahend (R271). -/
def derivLanes (y fine : Bool) (l : Nat) : Nat × Nat :=
  let q := l / 4 * 4
  let k := l % 4
  match y, fine with
  | false, false => (q + 1, q)
  | true, false => (q + 2, q)
  | false, true => if k < 2 then (q + 1, q) else (q + 3, q + 2)
  | true, true => if k % 2 = 0 then (q + 2, q) else (q + 3, q + 1)

/-- `deriv` (R271). -/
def execDeriv (g : Guard) (y fine : Bool) (d a : BitVec 8) (s : State) : Res :=
  issue g s fun e =>
    if !(e.vOk d.toNat 1 && e.vOk a.toNat 1) then illegalIssue e s 0x01 else
    let w := (lanesOf e.enabled).foldl (fun w l =>
      let (p, q) := derivLanes y fine l
      w.setV d.toNat l (BitVec.ofNat 32 (fdif (e.w.vreg a.toNat p).toNat (e.w.vreg a.toNat q).toNat))) e.w
    done e (s.modWave e.id fun _ => w)

end Sys2Proof.Machine
end

