-- ==== Sys2Proof/Machine/Display.lean ====
section
/-! DEFINITION. The display heads (R381 to R387): the house-sync counter, flips, flip status, the breakwater and what a
pixel shows. -/

namespace Sys2Proof.Machine

/-! ### The head record (R381) -/

namespace Head

/-- Pixel clock in kHz. -/
def clk (h : Head) : Nat := leAt h.data 0 4
/-- Horizontal active size. -/
def hActive (h : Head) : Nat := leAt h.data 4 2
/-- Vertical active size. -/
def vActive (h : Head) : Nat := leAt h.data 8 2
/-- vblank start after the house-sync pulse, in ns. -/
def vbo (h : Head) : Nat := leAt h.data 0x0C 4
/-- The context that renders the head. -/
def ctx (h : Head) : Nat := leAt h.data 0x10 2
/-- Output depth. -/
def depth (h : Head) : Nat := leAt h.data 0x12 1
/-- Display group. -/
def group (h : Head) : Nat := leAt h.data 0x13 1
/-- The flip slot's VA. -/
def slotVa (h : Head) : Nat := leAt h.data 0x18 8
/-- The pose record's VA. -/
def poseVa (h : Head) : Nat := leAt h.data 0x20 8
/-- The flip status word's VA. -/
def statusVa (h : Head) : Nat := leAt h.data 0x28 8

/-- Whether a head record breaks R381; the context counts from stage 3. -/
def bad (h : Head) (s : State) : Bool :=
  let d := h.data
  h.clk = 0 || h.rate < h.clk || h.hActive = 0 || 7680 < h.hActive || leAt d 6 2 ≤ h.hActive ||
  h.vActive = 0 || 4320 < h.vActive || leAt d 10 2 ≤ h.vActive || s.sys.period ≤ h.vbo ||
  (s.sys.stage = 3 && (tget? s.ctxs h.ctx).isNone) || !(h.depth = 8 || h.depth = 10) || leAt d 0x14 4 ≠ 0 ||
  h.slotVa % 64 ≠ 0 || h.poseVa % 64 ≠ 0 || h.statusVa % 16 ≠ 0 || (d.drop 0x30).any (· ≠ 0)

/-- The target frame of a flip stamped (HSF, o): the lowest frame whose vblank begins at least 40 µs after (R384); the period and o
in ns. -/
def target (h : Head) (period : Nat) (hsf : Word) (o : Nat) : Word :=
  hsf + BitVec.ofNat 32 ((o + 40000 - h.vbo + (period - 1)) / period)

end Head

/-- A head; one that was never configured shows the safe frame (R388). -/
def State.head (s : State) (k : Nat) : Head := tgetD s.heads k {}
/-- A state with a head changed. -/
def State.modHead (s : State) (k : Nat) (f : Head → Head) : State := { s with heads := tput s.heads k (f (s.head k)) }

/-! ### Flip status (R385) -/

/-- The 16 bytes of a head's flip status. -/
def flipStatus (h : Head) : List Byte :=
  let bit (b : Bool) (n : Nat) : Nat := if b then n else 0
  leBytes 8 (bit h.shown.isNone 1 + bit h.bw 2 + bit h.late 4 + bit h.refused 8 + h.bwr * 16) ++ leBytes 4 h.shownAt.toNat ++
  leBytes 4 (match h.shown with | some r => leAt r 0x18 4 | none => 0)

/-- The flip status written where its page takes it, later where its range is away (R352, R385). -/
def State.putFlipStatus (s : State) (k : Nat) : State :=
  let h := s.head k
  if !h.cfg then s else s.deviceWrite h.ctx h.statusVa (flipStatus h)

/-! ### Flips (R383, R384) -/

/-- Whether a flip record is refused (R383). -/
def flipRefused (h : Head) (r : List Byte) : Bool :=
  leAt r 0 8 % 256 ≠ 0 || leAt r 8 4 % 64 ≠ 0 || leAt r 12 2 ≠ h.hActive || leAt r 14 2 ≠ h.vActive ||
  1 < leAt r 16 1 || leAt r 17 3 ≠ 0 || (r.drop 0x1C).any (· ≠ 0)

/-- Whether a frame's vblank has begun on a head. -/
def vblankBegun (s : State) (h : Head) (frame : Word) : Bool :=
  (frame - s.sys.hsf).toInt < 0 || (frame = s.sys.hsf && h.inVblank)

/-- What the apply of a tide's bytes means to one head: an apply to its slot is an accepted or a refused flip; the heads of a device
that has not been admitted yet go on showing the safe frame (R380). -/
def State.flipHead (s : State) (cells : Table Byte) (hsf : Word) (o : Nat) (k : Nat) (h : Head) : State :=
  if !h.cfg || s.fabric.member s.fabric.index == .joining then s else
  match (tget? s.ctxs h.ctx).map fun c => translate s none h.ctx c h.slotVa .read with
  | some (.ok p) =>
    let line := p.key / 64
    if !(cells.any fun x => x.1 / 64 = line) then s else
    let bs := s.bytesAt (64 * line) 64
    if !((List.range 64).all fun i => (tget? cells (64 * line + i)).isSome) || flipRefused h bs then
      s.modHead k fun h => { h with refused := true }
    else
      let t := h.target s.sys.period hsf o
      let late := vblankBegun s h t
      s.modHead k fun h => { h with
        refused := false
        next := some ⟨bs, if late then (if h.inVblank then s.sys.hsf + 1 else s.sys.hsf) else t, late, true⟩ }
  | _ => s

/-- Every head told of a tide's apply, after its bytes are written. -/
def State.flipHeads (s : State) (cells : Table Byte) (hsf : Word) (o : Nat) : State :=
  s.heads.foldl (fun s (k, h) => s.flipHead cells hsf o k h) s

/-! ### The breakwater (R386, R387) -/

/-- A fault record written to a context's ring starts the breakwater of its heads, which a flip applied before it does not
end (R386). -/
def State.headFault (s : State) (ctx : Nat) (code : Byte) : State :=
  if code == 0x51 then s else
  s.heads.foldl (fun s (k, h) =>
    if !h.cfg || h.ctx ≠ ctx then s else
    let s := s.modHead k fun h => { h with
      next := h.next.map fun f => { f with clears := false }, bw := true, bwr := if h.bw then h.bwr else 2 }
    if h.bw then s else s.putFlipStatus k) s

/-- The identity pose. -/
def identityPose : List Word :=
  [0x3F800000#32, 0#32, 0#32, 0#32, 0x3F800000#32, 0#32, 0#32, 0#32, 0x3F800000#32]

/-- The pose as a head reads it: its nine words, or none where it is not valid or cannot be read (R387). -/
def readPose (s : State) (h : Head) : Option (List Word) :=
  match s.readCtx h.ctx h.poseVa 64 with
  | .error _ => none
  | .ok bs => if leAt bs 4 4 = 1 then some ((List.range 9).map fun k => BitVec.ofNat 32 (leAt bs (8 + 4 * k) 4)) else none

/-- The flip that is due at a vblank. -/
def dueFlip (s : State) (h : Head) : Option Flip :=
  h.next.bind fun f => if 0 < (f.target - s.sys.hsf).toInt then none else some f

/-- The flip and deadline of a vblank, with the status where one is due. Where the flip leaves the breakwater on, a context
fault keeps it so. -/
def State.flipOrDeadline (s : State) (k : Nat) : State :=
  let h := s.head k
  match dueFlip s h with
  | some f =>
    (s.modHead k fun h => { h with
      shown := some f.data, shownAt := s.sys.hsf, late := f.late, next := none, bw := h.bw && !f.clears
      bwr := if h.bw && !f.clears then 2 else 0 }).putFlipStatus k
  | none =>
    match h.shown with
    | some r =>
      if !h.bw && h.next.isNone && s.sys.hsf = BitVec.ofNat 32 (leAt r 0x14 4) + 1 then
        (s.modHead k fun h => { h with bw := true, bwr := 1 }).putFlipStatus k
      else s
    | none => s

/-- What a head scans out from a vblank on: the warp of a pose while the breakwater is active. -/
def State.scanOut (s : State) (k : Nat) : State :=
  let h := s.head k
  if h.shown.isNone then s.modHead k fun h => { h with scan := .safe }
  else if !h.bw then s.modHead k fun h => { h with scan := .frame }
  else match readPose s h with
    | some m => s.modHead k fun h => { h with scan := .warp m }
    | none =>
      let s := s.modHead k fun h => { h with scan := .warp identityPose, bwr := 3 }
      if h.bwr = 3 then s else s.putFlipStatus k

/-- `vblank` of a head's current frame (R382, R384, R386): once per frame, while house sync is present. -/
def execVblank (head : Nat) (s : State) : Res :=
  let h := s.head head
  if !h.cfg || h.inVblank || !s.sys.hsPresent || s.sys.off then .next s
  else .next (((s.modHead head fun h => { h with inVblank := true }).flipOrDeadline head).scanOut head)

/-! ### House sync (R382) -/

/-- A house-sync frame pulse: the counter rises, and a lost input has been regained. The time since the pulse before, where there is
one to count from, is the frame period from now on: an open number (R381; log entry 3). -/
def execHouseSyncPulse (s : State) : Res :=
  let (n, s) := s.fresh
  .next { s with
    sys := { s.sys with
      hsf := s.sys.hsf + 1, hsPresent := true, period := if s.sys.hsPresent then n + 1 else s.sys.period }
    heads := tmap s.heads fun _ h => { h with inVblank := false } }

/-- The alignment of the counter to a sample (R382). -/
def execHsfAlignSample (hsf : Word) (sampleNs ownNs : Nat) (s : State) : Res :=
  .next { s with sys := { s.sys with hsf := if ownNs < sampleNs then hsf + 1 else hsf } }

/-- The house-sync input lost: no pulse is counted until it comes back (R382, R388). -/
def execHouseSyncInputLost (s : State) : Res := .next { s with sys := { s.sys with hsPresent := false } }

/-- A head's link trained at a pixel rate (R381). -/
def execDisplayportLinkTraining (head rateKHz : Nat) (s : State) : Res :=
  if 4 ≤ head then .next s else .next (s.modHead head fun h => { h with rate := rateKHz })

/-! ### Pixels (R386) -/

/-- A component as the output takes it: clamped to 0 to 1, scaled and rounded. -/
def outComp (depth c : Nat) : Nat :=
  match fmt32.value c with
  | .fin false m e =>
    if fleq 0x3F800000 c then 2 ^ depth - 1
    else (rneDiv (m * (2 ^ depth - 1) * 2 ^ e.toNat : Nat) (2 ^ (-e).toNat)).toNat
  | .inf false => 2 ^ depth - 1
  | _ => 0

/-- The shown frame as an image with clamp to edge. -/
def frameImage (h : Head) (r : List Byte) : Img :=
  ⟨BitVec.ofNat 64 (leAt r 0 8), 0, h.hActive, h.vActive, 1, 0, if leAt r 16 1 = 0 then 2 else 5, 0, 0, 0, 0⟩

/-- A texel of the shown frame: its channels, none where its bytes cannot be read or corrected. -/
def frameTexel (s : State) (h : Head) (r : List Byte) (x y : Nat) : Option (List Nat) :=
  let i := frameImage h r
  let va := leAt r 0 8 + y * leAt r 8 4 + x * i.bpt
  match (tget? s.ctxs h.ctx).map fun c => translate s none h.ctx c va .read with
  | some (.ok p) => if s.sys.bad.contains (p.key / 64) then none else some (i.decode (s.natAt p.key i.bpt))
  | _ => none

/-- The source position of an output pixel under a warp: none is black. -/
def warpPoint (h : Head) (m : List Word) (x y : Nat) : Option (Nat × Nat) :=
  let px := (fmt32.roundInt .rne (2 * x + 1) (-1) false).1
  let py := (fmt32.roundInt .rne (2 * y + 1) (-1) false).1
  let row (k : Nat) : Nat := fsum (fsum (fprd (m.getD k 0).toNat px) (fprd (m.getD (k + 1) 0).toNat py)) (m.getD (k + 2) 0).toNat
  let w := row 6
  if !fless 0 w then none else
  let sx := fquo (row 0) w
  let sy := fquo (row 3) w
  if fleq 0 sx && fleq sx (ofIntF h.hActive) && fleq 0 sy && fleq sy (ofIntF h.vActive) then some (sx, sy) else none

/-- The red, green and blue that a head puts out at a pixel (R386, R388): black in the safe frame and where data cannot
be read (R391). -/
def headPixel (s : State) (k x y : Nat) : List Nat :=
  let h := s.head k
  let out (c : Option (List Nat)) : List Nat :=
    match c with | some cs => (cs.take 3).map (outComp h.depth) | none => [0, 0, 0]
  match h.scan, h.shown with
  | .frame, some r => out (frameTexel s h r x y)
  | .warp m, some r =>
    match warpPoint h m x y with
    | none => out none
    | some (sx, sy) =>
      let plan := bilinearAt (frameImage h r) (fdif sx 0x3F000000) (fdif sy 0x3F000000) 0
      match plan.texels.mapM fun t => frameTexel s h r t.1 t.2.1 with
      | some ts => out (some (plan.result ts))
      | none => out none
  | _, _ => out none

end Sys2Proof.Machine
end

