-- ==== Sys2Proof/Machine/Tide.lean ====
section
/-! DEFINITION. Tide groups (R274 to R287): the device's records, staging, the messages between devices, the coordinator
and the tide instructions. A message to the device itself arrives by the same event as one from another device. -/

namespace Sys2Proof.Machine

/-! ### Identifiers, outcomes and status words -/

/-- The fault of an identifier (R274). -/
def gidFault (s : State) (gid : Word) : Option Byte :=
  if gid.toNat % 64 ≠ 0 then some 0x02 else if !namesDevice s (tideCoord gid) then some 0x16 else none

/-- A tide status word (R281). -/
def tideWord (gid : Word) (state code dev : Nat) (fc : Byte) : DWord :=
  BitVec.ofNat 64 (gid.toNat * 2 ^ 32 + dev % 1024 * 2 ^ 22 + state * 2 ^ 19 + fc.toNat * 256 + code)
/-- The STATE of a status word. -/
def tideStateOf (w : DWord) : Nat := bitsOf w.toNat 21 19

/-- Whether a record is open (R274). -/
def TideRec.isOpen (r : TideRec) : Bool := r.state != .locked
/-- Whether a record takes part in counting and locking: it is closed, or failed after its CLOSED was sent (R282). -/
def TideRec.voted (r : TideRec) : Bool := !r.lockWait && (r.state == .closed || (r.state == .failed && r.sentClosed))

/-- The status word of a record. -/
def TideRec.word (r : TideRec) (gid : Word) : DWord :=
  tideWord gid (match r.state with | .opened | .failed => 1 | .closed => 2 | .locked => 3) r.code r.dev r.fc

/-- This device's record of a group. -/
def State.tide? (s : State) (gid : Word) : Option TideRec := tget? s.tides gid.toNat
/-- What the device coordinates of a group. -/
def State.coord? (s : State) (gid : Word) : Option Coord := tget? s.coords gid.toNat
/-- A record put. -/
def State.putTide (s : State) (gid : Word) (r : TideRec) : State := { s with tides := tput s.tides gid.toNat r }
/-- A coordinator's part put. -/
def State.putCoord (s : State) (gid : Word) (c : Coord) : State := { s with coords := tput s.coords gid.toNat c }
/-- Whether this device coordinates a group. -/
def ownGroup (s : State) (gid : Word) : Bool := tideCoord gid = s.fabric.index

/-- An outcome of a context's history (R287): status word and whether a `tcommit` named it. -/
def pastOutcome (c : Context) (gid : Word) : Option (DWord × Bool) := (c.history.find? fun x => x.1 = gid).map (·.2)
/-- An outcome of the early-outcome list. -/
def earlyOutcome (s : State) (gid : Word) : Option DWord := (s.earlyOut.find? fun x => x.1 = gid).map (·.2)

/-- An outcome kept in a context's history of 256. -/
def State.keepOutcome (s : State) (ctx : Nat) (gid : Word) (w : DWord) (named : Bool) : State :=
  s.modCtx ctx fun c => { c with history := ((gid, w, named) :: c.history).take 256 }

/-- A message of a group to a device. -/
def State.tideMsg (s : State) (dev : Nat) (gid : Word) (kind : Nat) (data : List Nat) : State :=
  s.sendTo dev (.tide dev gid kind data)

/-! ### The coordinator (R283) -/

/-- Devices that an abort names: every participant and every unlisted closer, without the lost ones. -/
def Coord.told (c : Coord) : List Nat :=
  (c.parts ++ (c.closed.map (·.1)).filter fun d => !c.parts.contains d).filter fun d => !c.lost.contains d

/-- Whether everyone the coordinator waits for at the end has answered. -/
def Coord.finished (c : Coord) : Bool :=
  match c.phase with
  | .apply => c.parts.all fun d => c.applied.contains d || c.lost.contains d
  | .abort .. => c.told.all c.acks.contains
  | _ => false

/-- The status word that the coordinator writes. -/
def Coord.word (c : Coord) (gid : Word) : DWord :=
  match c.phase with
  | .abort code dev fc => tideWord gid 5 code dev fc
  | _ => tideWord gid 4 0 0 0

/-- The bytes of a group's status word placed, or the fault of the first that cannot be written. -/
def statusWrites (s : State) (gid : Word) (c : Coord) (t : TideCommit) : Except (Byte × DWord) EngineWrites :=
  wordWrites s c.ctx (opLaunch s t.queue t.seq) t.va (c.word gid)

/-- The end of a group at its coordinator: the status word and the pin, where a `tcommit` named them; a fault 0x10 or 0x70
pauses the write, any other leaves it unwritten with a record (R283). -/
def State.coordEnd (s : State) (gid : Word) : State :=
  match s.coord? gid with
  | none => s
  | some c =>
    if !c.finished || c.paused.isSome then s else
    let gone (s : State) : State := { s with coords := tdel s.coords gid.toNat }
    match c.commit with
    | none => gone s
    | some t =>
      match statusWrites s gid c t with
      | .ok W => (gone (s.engineStore t.core c.ctx W)).applyComp t.det c.ctx t.comp
      | .error (f, a) =>
        let s := s.ownNotices c.ctx true [(0, f, t.va)]
        if f = 0 then s.absorb c.ctx [a.toNat]
        else if f == 0x10 || f == 0x70 then
          let (tok, s) := s.engineFault c.ctx f t.va t.pc t.seq t.queue t.core t.wid true (some (.tideStatus gid))
          s.putCoord gid { c with paused := tok }
        else
          (gone (s.engineFault c.ctx f t.va t.pc t.seq t.queue t.core t.wid true none).2).applyComp t.det c.ctx t.comp

/-- abort() of R283, before the serialisation point. -/
def State.coordAbort (s : State) (gid : Word) (code dev : Nat) (fc : Byte) : State :=
  match s.coord? gid with
  | none => s
  | some c =>
    match c.phase with
    | .gather | .count | .lock =>
      let c := { c with phase := .abort code dev fc }
      (c.told.foldl (fun s d => s.tideMsg d gid 9 [code, fc.toNat, dev]) (s.putCoord gid c)).coordEnd gid
    | _ => s

/-- A device that a CLOSED came from, or a sent count names, without being listed; the first one (R283). -/
def Coord.unlisted (c : Coord) : Option Nat :=
  c.closed.findSome? fun (q, sent) =>
    if !c.parts.contains q then some q else (sent.find? fun (d, n) => n ≠ 0 && !c.parts.contains d).map (·.1)

/-- Writes sent to a participant, over every device's counts. -/
def Coord.sentTo (c : Coord) (p : Nat) : Nat :=
  c.closed.foldl (fun n (_, sent) => sent.foldl (fun n (d, k) => if d = p then n + k else n) n) 0

/-- The next message of the sequence of R283, where all the answers before it are in. -/
def State.coordAdvance (s : State) (gid : Word) : State :=
  match s.coord? gid with
  | none => s
  | some c =>
    match c.phase with
    | .gather =>
      if c.commit.isNone || !(c.parts.all fun p => (c.closed.any fun x => x.1 = p) || c.nos.any fun x => x.1 = p) then s else
      match c.nos, c.unlisted with
      | (_, code, fc, named) :: _, _ => s.coordAbort gid code named fc
      | [], some d => s.coordAbort gid 3 d 0
      | [], none => c.parts.foldl (fun s p => s.tideMsg p gid 3 []) (s.putCoord gid { c with phase := .count })
    | .count =>
      if !(c.parts.all fun p => c.inbound.any fun x => x.1 = p) then s else
      match c.parts.find? fun p => c.inbound.any fun x => x.1 = p && x.2 ≠ c.sentTo p with
      | some p => s.coordAbort gid 3 p 0
      | none => c.parts.foldl (fun s p => s.tideMsg p gid 5 c.parts) (s.putCoord gid { c with phase := .lock })
    | .lock =>
      if !(c.parts.all c.lockedBy.contains) then s else
      let (n, s) := s.fresh
      let o := n % s.sys.period
      c.parts.foldl (fun s p => s.tideMsg p gid 7 [s.sys.hsf.toNat, o])
        (s.putCoord gid { c with phase := .apply, stamp := s.sys.hsf, since := o })
    | _ => s.coordEnd gid

/-- A NO at the coordinator: before `tcommit`, or once it counts, it aborts the group at once; while the coordinator gathers, the
first one aborts it when every participant has sent CLOSED or NO (R283, R284). -/
def State.coordNo (s : State) (gid : Word) (dev code : Nat) (fc : Byte) (named : Nat) : State :=
  match s.coord? gid with
  | none => s
  | some c =>
    let s := s.putCoord gid { c with nos := c.nos ++ [(dev, code, fc, named)] }
    match c.phase with
    | .gather => if c.commit.isNone then s.coordAbort gid code named fc else s.coordAdvance gid
    | .count => s.coordAbort gid code named fc
    | _ => s

/-- A CLOSED at the coordinator; a device that was not told of an abort before is told now (R283). -/
def State.coordClosed (s : State) (gid : Word) (dev : Nat) (sent : List (Nat × Nat)) : State :=
  match s.coord? gid with
  | none => s
  | some c =>
    let s := s.putCoord gid { c with closed := c.closed ++ [(dev, sent)] }
    match c.phase with
    | .abort code d fc => if c.told.contains dev then s else s.tideMsg dev gid 9 [code, fc.toNat, d]
    | _ => s.coordAdvance gid

/-! ### This device's record -/

/-- The target lines that a record has staged bytes for. -/
def TideRec.lines (r : TideRec) : List Nat := (r.staged.map fun x => x.1 / 64).eraseDups

/-- Every staged line locked in one step and LOCKED sent, unless another group holds one (R282). -/
def State.tryLock (s : State) (gid : Word) : State :=
  match s.tide? gid with
  | none => s
  | some r =>
    if !r.lockWait || (r.lines.any fun l => (tget? s.locked l).isSome) then s else
    let s := { s with locked := r.lines.foldl (fun t l => tput t l gid) s.locked }
    (s.putTide gid { r with state := .locked, lockWait := false }).tideMsg (tideCoord gid) gid 6 []

/-- A record finished (R282): lines unlocked, staging and slot freed, the outcome kept; the device's own writes that waited for a line
are made, and groups that waited lock. -/
def State.finishTide (s : State) (gid : Word) (r : TideRec) (state code dev : Nat) (fc : Byte) : State :=
  let named := match s.coord? gid with | some c => c.commit.isSome | none => false
  let s := { s with tides := tdel s.tides gid.toNat, locked := tfilter s.locked fun _ g => g != gid }
  let s := (s.keepOutcome r.ctx gid (tideWord gid state code dev fc) named).unstallAll
  s.tides.foldl (fun s (g, _) => s.tryLock (BitVec.ofNat 32 g)) s

/-- Bytes of staging that a context's records hold (R278). -/
def stagingUsed (s : State) (ctx : Nat) : Nat :=
  s.tides.foldl (fun n (_, r) => if r.ctx = ctx then n + 64 * r.lines.length else n) 0

/-- A tide write at its destination (R278): staged, refused or discarded. -/
def State.stageTide (s : State) (gid : Word) (key : Nat) (bytes : List Byte) (writer : Nat) : State :=
  match s.tide? gid with
  | none => s
  | some r =>
    if !(r.state == .opened || r.state == .closed) then s else
    let cells := bytes.zipIdx.map fun (b, i) => (key + i, b)
    if r.det && cells.any (fun (k, _) => match tget? r.staged k with | some (_, w) => w ≠ writer | none => false) then
      s.markFailed gid false 6 s.fabric.index 0
    else
      let room := match tget? s.ctxs r.ctx with | some c => c.staging | none => 0
      let new := !(r.lines.contains (key / 64))
      if new && room < stagingUsed s r.ctx + 64 then s.markFailed gid false 2 s.fabric.index 0
      else s.putTide gid { r with
        staged := cells.foldl (fun t (k, b) => tput t k (b, writer)) r.staged, inbound := r.inbound + 1 }

/-- Whether a tide write of a group stands in a store order, or is on its way to its destination (R279). -/
def tideQueued (s : State) (gid : Word) : Bool :=
  let mine (x : LaneStore) : Bool := match x.op with | .tide g _ => g = gid | _ => false
  s.cores.any fun (_, c) => (c.fifo.any fun p => p.lanes.any mine) || c.flying.any fun x => !x.acked && mine x.st

/-! ### Requests in their source's order (R103, R105) -/

/-- The key of a source. -/
def sourceKey (x : ReqSource) : Nat := x.dev * 2 ^ 32 + x.core
/-- The recorded reply of a request. -/
def replayOf (s : State) (x : ReqSource) (seqno : Nat) : Option Replay :=
  (tgetD s.fabric.replay (sourceKey x) []).find? fun r => r.seqno = seqno
/-- The reply of a non-idempotent request recorded among the source's last 4096. -/
def State.recordReplay (s : State) (x : ReqSource) (r : Replay) : State :=
  let old := tgetD s.fabric.replay (sourceKey x) []
  { s with fabric := { s.fabric with replay := tput s.fabric.replay (sourceKey x) ((r :: old).take 4096) } }
/-- A reply sent to a request's source. -/
def State.reply (s : State) (x : ReqSource) (seqno : Nat) (v : DWord) (code : Byte) : State :=
  s.sendTo x.dev (.reply x seqno v code)

/-- The key of a source's line of a window. -/
def lineSeqKey (src : ReqSource) (off : Nat) : Nat := sourceKey src * 2 ^ 128 + src.ctx * 2 ^ 64 + off / 64

/-- One above the highest sequence number that a source's request on a line of its window has come to an end with (R103). -/
def lineHigh (s : State) (src : ReqSource) (off : Nat) : Nat := tgetD s.fabric.high (lineSeqKey src off) 0

/-- A request kept until it can be taken: one before it on its line has not come, or its line is held (R103, R286). -/
def State.holdReq (s : State) (src : ReqSource) (seqno prev : Nat) (req : RemoteReq) : State :=
  if s.fabric.held.any fun x => x.1 = src && x.2.1 = seqno then s
  else { s with fabric := { s.fabric with held := s.fabric.held ++ [(src, seqno, prev, req)] } }

/-- A request that has come to an end here: its line's order goes on behind it. -/
def State.endReq (s : State) (src : ReqSource) (seqno off : Nat) : State :=
  { s with fabric := { s.fabric with
      high := tput s.fabric.high (lineSeqKey src off) (max (lineHigh s src off) (seqno + 1))
      held := s.fabric.held.filter fun x => !(x.1 = src && x.2.1 = seqno) } }

/-- A request whose export window another context of this device gives: a range of it that firmware has reclaimed begins its
return (R352). -/
def State.absorbExport (s : State) (src : ReqSource) (off : Nat) : State :=
  match findExport s src.dev src.ctx with
  | some (k, _, x) => s.absorb k [x.base + off]
  | none => s

/-! ### The events -/

/-- `tide write stage`: a write of another device's `sttide` arrives, in its source's order on its line; its translation's fault is
reported whether or not the group has a record here, and the missing record itself is no fault (R103, R277, R278; DEDUCED: log
22). -/
def execTideWriteStage (gid : Word) (src : ReqSource) (n : ReqNo) (wave off : Nat) (bytes : List Byte) (s : State) : Res :=
  match replayOf s src n.no with
  | some r => .next (s.reply src n.no r.reply r.code)
  | none =>
    if n.no < lineHigh s src off then .next s
    else if lineHigh s src off < n.prev then .next (s.holdReq src n.no n.prev (.tide gid wave off bytes)) else
    let finish (s : State) (code : Byte) : Res :=
      .next (((s.endReq src n.no off).recordReplay src ⟨n.no, 0, code⟩).reply src n.no 0 code)
    match translateExport s src.dev src.ctx off bytes.length .write false with
    | .error f =>
      if f = 0 then .next ((s.absorbExport src off).holdReq src n.no n.prev (.tide gid wave off bytes))
      else finish (s.notice src.dev src.ctx off f true) f
    | .ok (_, p) =>
      if p.host then finish (s.notice src.dev src.ctx off 0x11 true) 0x11
      else finish (s.stageTide gid p.key bytes (src.dev * 2 ^ 64 + wave)) 0

/-- `tide contribution close`: once the device's writes are staged or refused, CLOSED goes out with the counts (R279). -/
def execTideContributionClose (gid : Word) (s : State) : Res :=
  match s.tide? gid with
  | none => .next s
  | some r =>
    if r.state != .closed || r.sentClosed || tideQueued s gid then .next s else
    .next ((s.putTide gid { r with sentClosed := true }).tideMsg (tideCoord gid) gid 1 (r.sent.flatMap fun (d, n) => [d, n]))

/-- Whether a device's own message is on its way: one from another device is the outside's to bring. -/
def fromSelf (s : State) (dev : Nat) (sentIt : Bool) : Bool := dev ≠ s.fabric.index || sentIt

/-- A message held for a group without a record, in a slot of its own (R276). -/
def State.holdEarly (s : State) (gid : Word) (m : EarlyTide) : State :=
  match tget? s.early gid.toNat with
  | some ms => { s with early := tput s.early gid.toNat (ms ++ [m]) }
  | none => if 64 ≤ s.tides.length + s.early.length then s else { s with early := tput s.early gid.toNat [m] }

/-- `tide closed`: CLOSED arrives at the coordinator (R276, R283). -/
def execTideClosed (gid : Word) (dev : Nat) (sent : List (Nat × Nat)) (s : State) : Res :=
  let own := match s.tide? gid with | some r => r.sentClosed && r.sent == sent | none => false
  if !ownGroup s gid || !fromSelf s dev own then .next s else
  match s.coord? gid with
  | some c => .next (if c.closed.any fun x => x.1 = dev then s else s.coordClosed gid dev sent)
  | none => .next (s.holdEarly gid (.closed dev sent))

/-- `tide no`: NO arrives at the coordinator (R276, R283). -/
def execTideNo (gid : Word) (dev : Nat) (code fc : Byte) (named : Nat) (s : State) : Res :=
  let own := match s.tide? gid with
    | some r => r.state == .failed && r.code = code.toNat && r.fc == fc && r.dev = named
    | none => false
  if !ownGroup s gid || !fromSelf s dev own then .next s else
  match s.coord? gid with
  | some c => .next (if c.nos.any fun x => x.1 = dev then s else s.coordNo gid dev code.toNat fc named)
  | none => .next (s.holdEarly gid (.no dev code fc named))

/-- Whether the coordinator, where it is this device, stands at a phase. -/
def ownPhase (s : State) (gid : Word) (p : Coord → Bool) : Bool :=
  !ownGroup s gid || (match s.coord? gid with | some c => p c | none => false)

/-- `tide count`: a participant answers COUNT with its inbound count (R282). -/
def execTideCount (gid : Word) (s : State) : Res :=
  match s.tide? gid with
  | none => .next s
  | some r =>
    if !r.voted || !ownPhase s gid (fun c => c.phase == .count) then .next s
    else .next (s.tideMsg (tideCoord gid) gid 4 [r.inbound])

/-- `tide inbound count` at the coordinator (R283). -/
def execTideInboundCount (gid : Word) (dev count : Nat) (s : State) : Res :=
  match s.coord? gid with
  | none => .next s
  | some c =>
    let own := match s.tide? gid with | some r => r.inbound = count | none => false
    if c.phase != .count || !c.parts.contains dev || c.inbound.any (fun x => x.1 = dev) || !fromSelf s dev own then .next s
    else .next ((s.putCoord gid { c with inbound := c.inbound ++ [(dev, count)] }).coordAdvance gid)

/-- `tide lock`: a participant locks its staged lines, at once or when other groups have unlocked them (R282). -/
def execTideLock (gid : Word) (list : List Nat) (s : State) : Res :=
  match s.tide? gid with
  | none => .next s
  | some r =>
    if !r.voted || !ownPhase s gid (fun c => c.phase == .lock && c.parts == list) then .next s
    else .next ((s.putTide gid { r with list, lockWait := true }).tryLock gid)

/-- A locked record applied: its staged bytes are written, and the lines are unlocked (R282, R286); the bytes of a head's slot are a
flip under the stamp (R383, R384). -/
def State.applyTide (s : State) (gid : Word) (r : TideRec) (hsf : Word) (sincePulse : Nat) : State :=
  let cells : Table Byte := r.staged.map fun (k, b, _) => (k, b)
  (((s.writeCells cells).refreshCopies cells).flipHeads cells hsf sincePulse).finishTide gid r 4 0 0 0

/-- A survivor is no longer waited for; with none left, and no APPLY heard of, the group aborts here (R285). -/
def State.surveyed (s : State) (gid : Word) (r : TideRec) (dev : Nat) : State :=
  match r.asked with
  | none => s
  | some ds =>
    let ds := ds.filter (· ≠ dev)
    if ds.isEmpty then s.finishTide gid r 5 4 (tideCoord gid) 0 else s.putTide gid { r with asked := some ds }

/-- The answer to a survivor: 1 where this device has applied the group (R285). -/
def surveyAnswer (s : State) (gid : Word) : Nat :=
  if s.ctxs.any fun (_, c) => match pastOutcome c gid with | some (w, _) => tideStateOf w = 4 | none => false then 1 else 0

/-- `tide locked`: at the coordinator, with the last one the group is committed (R283); among the survivors of a lost
coordinator, a question, answered once this device knows of the loss, or an answer (R285). -/
def execTideLocked (gid : Word) (m : LockMsg) (s : State) : Res :=
  let dev := m.dev
  match m.vote with
  | .locked =>
    match s.coord? gid with
    | none => .next s
    | some c =>
      let own := match s.tide? gid with | some r => r.state == .locked | none => false
      if c.phase != .lock || !c.parts.contains dev || c.lockedBy.contains dev || !fromSelf s dev own then .next s
      else .next ((s.putCoord gid { c with lockedBy := c.lockedBy ++ [dev] }).coordAdvance gid)
  | .asks =>
    if dev = s.fabric.index || s.fabric.member (tideCoord gid) != .fenced then .next s
    else .next (s.tideMsg dev gid 13 [surveyAnswer s gid])
  | .answers apply =>
    match s.tide? gid with
    | none => .next s
    | some r =>
      if !(r.asked.getD []).contains dev then .next s else
      match apply with
      | some (hsf, sincePulse) => .next (s.applyTide gid r hsf sincePulse)
      | none => .next (s.surveyed gid r dev)

/-- `tide apply`: a locked participant applies and sends APPLIED (R282, R286); nothing of a lost coordinator arrives (R379). -/
def execTideApply (gid : Word) (hsf : Word) (sincePulse : Nat) (s : State) : Res :=
  match s.tide? gid with
  | none => .next s
  | some r =>
    if r.state != .locked || r.asked.isSome || !ownPhase s gid (fun c => c.phase == .apply) then .next s else
    let (hsf, o) := match s.coord? gid with | some c => (c.stamp, c.since) | none => (hsf, sincePulse)
    .next ((s.applyTide gid r hsf o).tideMsg (tideCoord gid) gid 8 [])

/-- `tide applied` at the coordinator: after the last, the status word and the pin (R283). -/
def execTideApplied (gid : Word) (dev : Nat) (s : State) : Res :=
  match s.coord? gid with
  | none => .next s
  | some c =>
    if c.phase == .apply && c.finished then .next (s.coordEnd gid)
    else if c.phase != .apply || !c.parts.contains dev || c.applied.contains dev || !fromSelf s dev (s.tide? gid).isNone then .next s
    else .next ((s.putCoord gid { c with applied := c.applied ++ [dev] }).coordAdvance gid)

/-- `tide abort` at a device: its record is finished, or the outcome joins the early-outcome list (R276, R282). -/
def execTideAbort (gid : Word) (code fc : Byte) (named : Nat) (s : State) : Res :=
  if !ownPhase s gid (fun c => c.phase == .abort code.toNat named fc) then .next s else
  match s.tide? gid with
  | some r => .next ((s.finishTide gid r 5 code.toNat named fc).tideMsg (tideCoord gid) gid 10 [])
  | none =>
    if ownGroup s gid then .next s else
    .next ({ s with earlyOut := ((gid, tideWord gid 5 code.toNat named fc) :: s.earlyOut).take 256 }.tideMsg (tideCoord gid) gid 10 [])

/-- `tide abort acknowledgement` at the coordinator: after the last, the status word and the pin (R283). -/
def execTideAbortAck (gid : Word) (dev : Nat) (s : State) : Res :=
  match s.coord? gid with
  | none => .next s
  | some c =>
    let aborting := match c.phase with | .abort .. => true | _ => false
    if aborting && c.finished then .next (s.coordEnd gid)
    else if !aborting || !c.told.contains dev || c.acks.contains dev || !fromSelf s dev (s.tide? gid).isNone then .next s
    else .next ((s.putCoord gid { c with acks := c.acks ++ [dev] }).coordAdvance gid)

/-- The loss of a device at a group's coordinator (R285): that of a participant aborts the group before the serialisation point; an
unlisted closer is only waited for no longer (R283). -/
def State.coordLoss (s : State) (gid : Word) (dev : Nat) : State :=
  match s.coord? gid with
  | none => s
  | some c =>
    if !c.told.contains dev then s else
    let s := s.putCoord gid { c with lost := c.lost ++ [dev] }
    (if c.parts.contains dev then s.coordAbort gid 4 dev 0 else s).coordEnd gid

/-- The loss of a device for this device's record of a group: the coordinator's ends the group here, or, where the record is locked,
asks the other survivors (R285). -/
def State.recordLoss (s : State) (gid : Word) (dev : Nat) : State :=
  match s.tide? gid with
  | none => s
  | some r =>
    if tideCoord gid ≠ dev || ownGroup s gid then s.surveyed gid r dev
    else
      let others := r.list.filter fun d => d ≠ s.fabric.index && d ≠ dev && s.fabric.member d == .member
      if r.state == .locked && !others.isEmpty then
        others.foldl (fun s d => s.tideMsg d gid 12 []) (s.putTide gid { r with asked := some others })
      else s.finishTide gid r 5 4 dev 0

/-- The loss of a device for the groups it has part in (R285). -/
def State.tideLoss (s : State) (dev : Nat) : State :=
  let s := s.coords.foldl (fun s (g, _) => s.coordLoss (BitVec.ofNat 32 g) dev) s
  s.tides.foldl (fun s (g, _) => s.recordLoss (BitVec.ofNat 32 g) dev) s

/-- A record just created meets the losses that this device knows of: of its coordinator, its participants, and those whose messages
were held for it (R285). -/
def State.knownLosses (s : State) (gid : Word) : State :=
  let ds := match s.coord? gid with | some c => c.told | none => [tideCoord gid]
  (ds.filter fun d => s.fabric.member d == .fenced).foldl (fun s d => (s.coordLoss gid d).recordLoss gid d) s

/-! ### The instructions (R273) -/

/-- The group identifier of a register. -/
def gidOf (w : Wave) (a : BitVec 8) : Word := (w.sreg a.toNat).setWidth 32

/-- A wave-level tide instruction on its group: the identifier's faults, and a record of another context (R274). -/
def tideWave (g : Guard) (a : BitVec 8) (s : State) (k : Env → Word → Option TideRec → Res) : Res :=
  waveLevel g true s fun e =>
    let gid := gidOf e.w a
    match gidFault s gid with
    | some f => faultAll e s f
    | none =>
      match s.tide? gid with
      | some r => if r.ctx = e.ctx then k e gid (some r) else faultAll e s 0x11
      | none => k e gid none

/-- A status written to `sD`. -/
def answerS (e : Env) (s : State) (d : BitVec 8) (x : DWord) : Res :=
  done e ((s.modWave e.id fun w => w.setS d.toNat x).sideEffect e.wgId)

/-- A group named by a wave (R280). -/
def nameGroup (w : Wave) (gid : Word) : Wave := { w with tides := if w.tides.contains gid then w.tides else w.tides ++ [gid] }

/-- The participant list read at issue (R275): what stops it, or its entries. -/
def readParts (s : State) (e : Env) (va : DWord) : Nat → Except (Byte × DWord) (List Nat)
  | 0 => .ok []
  | n + 1 => do
    let x := leNat (← readAs s e (lowLane e.enabled) va 2)
    if !namesDevice s x then .error (0x16, 0) else
    let xs ← readParts s e (va + 2) n
    .ok (x :: xs)

/-- The list order of R275: each device at its first place, the coordinator last where it is not listed. -/
def listOrder (self : Nat) (xs : List Nat) : List Nat :=
  let xs := xs.foldl (fun a x => if a.contains x then a else a ++ [x]) []
  if xs.contains self then xs else xs ++ [self]

/-- A record created (R275), on the coordinator with its participants and the messages held for it (R276); a loss that is known
already takes its effect at once (R285). -/
def State.createTide (s : State) (e : Env) (gid : Word) (expect : Nat) (parts : Option (List Nat)) : State :=
  let s := s.putTide gid { ctx := e.ctx, det := e.det, expect }
  match parts with
  | none => s.knownLosses gid
  | some ps =>
    let held := tgetD s.early gid.toNat []
    let s := { (s.putCoord gid { ctx := e.ctx, parts := ps }) with early := tdel s.early gid.toNat }
    (held.foldl (fun s m => match m with
      | .closed dev sent => s.coordClosed gid dev sent
      | .no dev code fc named => s.coordNo gid dev code.toNat fc named) s).knownLosses gid

/-- `topen` (R275, R276). -/
def execTopen (g : Guard) (d a b c : BitVec 8) (s : State) : Res :=
  tideWave g a s fun e gid r? =>
    let ow := (e.w.sreg c.toNat).toNat
    let np := ow % 2048
    let va := e.w.sreg b.toNat
    if bitsOf ow 63 48 ≠ 0 ∨ bitsOf ow 31 11 ≠ 0 then faultAll e s 0x02
    else if bitsOf ow 47 32 = 0 then faultAll e s 0x01
    else
      let answer (s : State) (x : DWord) : Res := answerS e (s.modWave e.id fun w => nameGroup w gid) d x
      if r?.isSome then answer s 1
      else if (pastOutcome e.c gid).isSome then answer s 0x8000000000000002#64
      else match earlyOutcome s gid with
        | some w =>
          answer ({ s with earlyOut := s.earlyOut.filter fun x => x.1 != gid }.keepOutcome e.ctx gid w false) 0x8000000000000002#64
        | none =>
          if (tget? s.early gid.toNat).isNone && 64 ≤ s.tides.length + s.early.length then answer s 0x8000000000000001#64
          else if !ownGroup s gid then answer (s.createTide e gid (bitsOf ow 47 32) none) 0
          else if np = 0 ∨ 1024 < np then faultAll e s 0x01
          else if va.toNat % 2 ≠ 0 then faultAll e s 0x12 va
          else if !settled s e then block e s
          else match readParts s e va np with
            | .error (f, x) =>
              if f = 0 then readWait e s (laneBit (lowLane e.enabled)) x else noted e false f x (faultAll e s f x)
            | .ok xs =>
              let s := (List.range np).foldl (fun s k => s.readDone e (va + BitVec.ofNat 64 (2 * k)) 2) s
              answer (s.createTide e gid (bitsOf ow 47 32) (some (listOrder s.fabric.index xs))) 0

/-- A lane's tide write resolved (R277): its place, and the destination's fault where it has one. -/
def tideTarget (s : State) (e : Env) (size l : Nat) (va : DWord) : Except AccErr (LaneAcc × Option Byte) :=
  let fault (c : Byte) : Except AccErr (LaneAcc × Option Byte) := .error (.fault c va)
  let a := va.toNat
  if a % size ≠ 0 then fault 0x12
  else if va.getLsbD 63 then
    if !reachable s (remoteDev va) then fault 0x16
    else if remoteDev va ≠ s.fabric.index then
      if s.refused.any fun x => x.1 = l && x.2 == 0x16 then fault 0x16 else .ok ({ lane := l, va, key := e.ctx * 2 ^ 64 + a, remote := true, scope := .sys }, none)
    else match translateExport s s.fabric.index e.ctx (remoteOff va) size .write false with
      | .error 0 => .error .absorb
      | .error 0x16 => fault 0x16
      | .error c => .ok ({ lane := l, va, key := 0, remote := false, scope := .sys }, some c)
      | .ok (_, p) => .ok ({ lane := l, va, key := p.key, remote := false, repl := p.repl, scope := .sys }, if p.host then some 0x11 else none)
  else if !isLocalVa va || a / 2 ^ 21 = e.L.hdrVa.toNat / 2 ^ 21 then fault 0x11
  else match translate s (some e.wg.core) e.ctx e.c a .write with
    | .error 0 => .error .absorb
    | .error 0x11 => .ok ({ lane := l, va, key := 0, remote := false, scope := .sys }, some 0x11)
    | .error c => fault c
    | .ok p => if p.host then fault 0x11 else .ok ({ lane := l, va, key := p.key, remote := false, repl := p.repl, scope := .sys }, none)

/-- The device that a tide write goes to. -/
def tideDest (s : State) (va : DWord) : Nat := if va.getLsbD 63 then remoteDev va else s.fabric.index

/-- The counts of lane writes sent, with one more to a device. -/
def countSent (t : Table Nat) (d : Nat) : Table Nat := tput t d (tgetD t d 0 + 1)

/-- A destination's fault: a held report, and the contribution fails (R277, R280). -/
def State.tideFault (s : State) (e : Env) (gid : Word) (l : Nat) (va : DWord) (code : Byte) : State :=
  ((s.ownNotices e.ctx true [(l, code, va)]).report e.id e.pc
    ⟨code, va, l, 1, some .sys, none, 0, 0, true, s.issuePlace⟩).markFailed gid true 1 s.fabric.index code

/-- `sttide` (R277). -/
def execSttide (g : Guard) (d : BitVec 8) (base : Option (BitVec 8)) (index : Option (BitVec 8 × BitVec 2)) (off : Word)
    (ty : MemTy) (c : BitVec 8) (s : State) : Res :=
  issue g s fun e =>
    if !(e.vTy ty.is64 d.toNat && (match index with | some (b, _) => e.vTy false b.toNat | none => true)) then
      illegalIssue e s 0x01
    else if e.active = 0 then done e s
    else
      let gid := gidOf e.w c
      match gidFault s gid with
      | some f => faultAll e s f
      | none =>
        match s.tide? gid with
        | none => faultAll e s 0x11
        | some r =>
          if r.ctx ≠ e.ctx || !r.isOpen || r.expect ≤ r.closes then faultAll e s 0x11
          else if e.w.stCnt = 63 then block e s
          else
            let size := ty.bytes
            let rs := (lanesOf e.active).map fun l => (l, tideTarget s e size l (effAddr e.w base index off l))
            if rs.any fun (_, x) => match x with | .error .absorb => true | _ => false then
              absorbWait e s (rs.map fun (l, _) => effAddr e.w base index off l)
            else
              let faults := rs.filterMap fun (l, x) => match x with | .error (.fault f a) => some (l, f, a) | _ => none
              let oks := rs.filterMap fun (_, x) => match x with | .ok t => some t | _ => none
              let s := s.modWave e.id fun w => nameGroup w gid
              let s := s.putTide gid { r with sent := oks.foldl (fun t (x, _) => countSent t (tideDest s x.va)) r.sent }
              let s := oks.foldl (fun s (x, f) => match f with
                | some code => s.tideFault e gid x.lane x.va code | none => s) s
              let ls : List LaneStore := oks.filterMap fun (x, f) => if f.isSome then none else
                some ⟨x, .tide gid (leBytes size (storeValue e.w ty d.toNat x.lane))⟩
              let s := if oks.isEmpty then s else s.sideEffect e.wgId
              memFinish e (if ls.isEmpty then s else s.pushStore e ls .sys .l1 false) .glb true faults

/-- `tclose` (R279): a release at `.sys`, then one more close. -/
def execTclose (g : Guard) (d a : BitVec 8) (s : State) : Res :=
  tideWave g a s fun e gid r? =>
    match r? with
    | none => faultAll e s 0x11
    | some r =>
      if !r.isOpen || r.expect ≤ r.closes then faultAll e s 0x11 else
      waveRelease e s .sys fun s =>
        match s.tide? gid with
        | none => faultAll e s 0x11
        | some r =>
          let last := r.closes + 1 = r.expect
          let failed := r.state == .failed
          let s := s.putTide gid { r with
            closes := r.closes + 1, state := if last && r.state == .opened then .closed else r.state }
          answerS e (s.modWave e.id fun w => { w with tides := w.tides.filter (· != gid) }) d
            (BitVec.ofNat 64 ((if last then 1 else 0) + (if failed then 2 else 0)))

/-- The checks of `tcommit` (R283): the fault's code and address. -/
def commitFault (s : State) (ctx : Nat) (det : Bool) (gid : Word) (va comp : DWord) : Option (Byte × DWord) :=
  let past := (tget? s.ctxs ctx).bind fun c => pastOutcome c gid
  let live := match s.tide? gid with | some r => r.ctx = ctx && r.isOpen | none => false
  let named := (match s.coord? gid with | some c => c.commit.isSome | none => false) ||
    (match past with | some (_, n) => n | none => false)
  let aborted := match past with | some (w, _) => tideStateOf w = 5 | none => false
  if bitsOf comp.toNat 30 14 ≠ 0 then some (0x02, 0)
  else if !ownGroup s gid || named || !(live || aborted) then some (0x11, 0)
  else if va.toNat % 8 ≠ 0 then some (0x12, va)
  else (compFault s det comp).map fun f => (f, 0)

/-- The coordinator set to its sequence (R283), or at once to the end of a group that has aborted. -/
def State.commitTide (s : State) (ctx : Nat) (gid : Word) (t : TideCommit) : State :=
  let s := s.modCtx ctx fun c => { c with history := c.history.map fun x => if x.1 = gid then (x.1, x.2.1, true) else x }
  match s.coord? gid with
  | some c => (s.putCoord gid { c with commit := some t }).coordAdvance gid
  | none =>
    match (tget? s.ctxs ctx).bind fun c => pastOutcome c gid with
    | none => s
    | some (w, _) =>
      let n := w.toNat
      (s.putCoord gid { ctx, phase := .abort (n % 256) (bitsOf n 31 22) (BitVec.ofNat 8 (n / 256)), parts := [],
                        commit := some t }).coordEnd gid

/-- `tcommit` (R283). -/
def execTcommit (g : Guard) (a b c : BitVec 8) (s : State) : Res :=
  tideWave g a s fun e gid _ =>
    let va := e.w.sreg b.toNat
    let comp := e.w.sreg c.toNat
    match commitFault s e.ctx e.det gid va comp with
    | some (f, x) => faultAll e s f x
    | none =>
      done e ((s.commitTide e.ctx gid ⟨va, comp, e.det, e.pc, e.L.queue, e.L.seq, e.wg.core, e.wid (lowLane e.enabled)⟩).sideEffect e.wgId)

/-- `tabort` (R284). -/
def execTabort (g : Guard) (d a : BitVec 8) (s : State) : Res :=
  tideWave g a s fun e gid r? =>
    match r? with
    | none => answerS e s d (if (pastOutcome e.c gid).isSome then 1 else 2)
    | some r =>
      if !r.isOpen then answerS e s d 1 else
      let s := s.markFailed gid false 5 s.fabric.index 0
      let s := match s.coord? gid, s.tide? gid with
        | some c, some r =>
          if c.commit.isNone && !(c.nos.any fun x => x.1 = s.fabric.index) then s.coordNo gid s.fabric.index r.code r.fc r.dev else s
        | _, _ => s
      answerS e s d 0

/-- The status word of a group as `tstat` finds it (R287). -/
def tideStatus (s : State) (c : Context) (gid : Word) : DWord :=
  match s.tide? gid with
  | some r => r.word gid
  | none => match pastOutcome c gid with
    | some (w, _) => w
    | none => (earlyOutcome s gid).getD (tideWord gid 0 0 0 0)

/-- `tstat` (R287). -/
def execTstat (g : Guard) (wait : Bool) (d a : BitVec 8) (s : State) : Res :=
  tideWave g a s fun e gid _ =>
    let w := tideStatus s e.c gid
    let st := tideStateOf w
    if wait && !(st = 0 || st = 4 || st = 5) then block e s else
    let s := if wait && st = 4 then s.acquire e.wg.core e.wgId .sys else s
    done e (s.modWave e.id fun x => x.setS d.toNat w)

end Sys2Proof.Machine
end

