-- ==== Sys2Proof/Machine/Collective.lean ====
section
/-! DEFINITION. Collectives (R288 to R292): issue, the hop of one block at this member, aborts and completion. -/

namespace Sys2Proof.Machine

/-! ### Issue (R288, R289) -/

/-- Bytes of a collective's buffers. -/
def collBytes (cover : Bool) (count : Nat) : Nat := if cover then 16 * count else 4 * count

/-- What a collective record breaks, in the order of its fields (R288). -/
def collFault (cover : Bool) (r : List Byte) : Option (Byte × DWord) :=
  let src := leAt r 0 8
  let dst := leAt r 8 8
  let count := leAt r 0x18 4
  let align := if cover then 16 else 4
  let n := collBytes cover count
  if src % align ≠ 0 then some (0x12, BitVec.ofNat 64 src)
  else if dst % align ≠ 0 then some (0x12, BitVec.ofNat 64 dst)
  else if src ≠ dst && rangesMeet src n dst n then some (0x01, 0)
  else if leAt r 0x10 8 % 2 ≠ 0 then some (0x12, BitVec.ofNat 64 (leAt r 0x10 8))
  else if (if cover then count = 0 || 2 ^ 26 < count else count = 0 || count % 32 ≠ 0 || 2 ^ 28 < count) then some (0x01, 0)
  else if leAt r 0x1C 2 = 0 || 1024 < leAt r 0x1C 2 then some (0x01, 0)
  else if leAt r 0x1E 2 / 2 ≠ 0 || (r.drop 0x24).any (· ≠ 0) then some (0x02, 0) else none

/-- The member list read at issue (R288, R289): on local device pages of one copy. -/
def readMembers (s : State) (e : Env) (va : DWord) : Nat → Except AccErr (List Nat)
  | 0 => .ok []
  | n + 1 => do
    let t ← resolveLocal s e .load 2 (lowLane e.enabled) va
    if badLine s t.acc.key then .error (.fault 0x40 va)
    else
      let x := s.natAt t.acc.key 2
      if !namesDevice s x then .error (.fault 0x16 0) else
      let xs ← readMembers s e (va + 2) n
      .ok (x :: xs)

/-- Whether a list names an entry twice. -/
def hasRepeat : List Nat → Bool
  | [] => false
  | x :: xs => xs.contains x || hasRepeat xs

/-- The other members told of something. -/
def State.tellMembers (s : State) (o : CollOp) (msg : Nat → Out) : State :=
  o.members.foldl (fun s d => if d = s.fabric.index then s else s.sendTo d (msg d)) s

/-- Whether this member has compared its record with member 0's and found it equal (R289). -/
def CollOp.matched (o : CollOp) : Bool := o.agreed.contains (o.members.getD o.self 0)
/-- Whether every member has. -/
def CollOp.allAgree (o : CollOp) : Bool := o.members.all o.agreed.contains

/-- Member 0 tells the others what they are to compare with (R289). -/
def State.collHead (s : State) (o : CollOp) : State :=
  if o.self = 0 then s.tellMembers o fun d => .collRecord d o.cid.toNat o.cover o.count o.root o.members else s

/-- The issue of a collective (R288, R289). -/
def collIssue (cover : Bool) (g : Guard) (a b : BitVec 8) (r : RecRef) (s : State) : Res :=
  waveLevel g true s fun e =>
    withRec e s r (fun f x => faultAll e s f x) fun s bs =>
      match collFault cover bs with
      | some (f, x) => faultAll e s f x
      | none =>
        let comp := e.w.sreg b.toNat
        let status := e.w.sreg a.toNat
        let list := BitVec.ofNat 64 (leAt bs 0x10 8)
        let nmem := leAt bs 0x1C 2
        let cid := BitVec.ofNat 32 (leAt bs 0x20 4)
        let src := BitVec.ofNat 64 (leAt bs 0 8)
        let dst := BitVec.ofNat 64 (leAt bs 8 8)
        let n := collBytes cover (leAt bs 0x18 4)
        match compFault s e.det comp with
        | some f => faultAll e s f
        | none =>
          if status.toNat % 8 ≠ 0 then faultAll e s 0x12 status else
          match readMembers s e list nmem with
          | .error (.fault f x) => faultAll e s f x
          | .error .stall => block e s
          | .error .absorb => absorbWait e s ((List.range nmem).map fun k => list + BitVec.ofNat 64 (2 * k))
          | .ok ms =>
            if hasRepeat ms then faultAll e s 0x01
            else match ms.findIdx? (· = s.fabric.index) with
              | none => faultAll e s 0x11
              | some self =>
                let span (va : DWord) : Option (Nat × Nat) := localSpan s e va n
                if (tget? s.colls cid.toNat).isSome then faultAll e s 0x11
                else if e.det && !e.w.hold && sharedHit e.H dst.toNat n then faultAll e s 0x15 dst
                else if 64 ≤ (s.cluster e.cluster).locks.length then block e s
                else
                  let (lock, s) := s.newId
                  let op : CollOp :=
                    { cover, ctx := e.ctx, det := e.det, pc := e.pc, queue := e.L.queue, seq := e.L.seq, gang := e.wg.gang,
                      core := e.wg.core, wid := e.wid (lowLane e.active), src, dst, count := leAt bs 0x18 4, root := bitOf (leAt bs 0x1E 2) 0, cid, lock,
                      members := ms, self, status, comp, agreed := ms.take 1 }
                  let s := { s with colls := tput s.colls cid.toNat op }
                  let s := s.modCluster e.cluster fun c => { c with locks := c.locks ++ [⟨lock, e.wg.gang, span src, span dst⟩] }
                  done e ((s.collHead op).sideEffect e.wgId)

/-- `credmx` (R288 to R291). -/
def execCredmx (g : Guard) (a b : BitVec 8) (r : RecRef) (s : State) : Res := collIssue false g a b r s
/-- `cover` (R288, R289, R292). -/
def execCover (g : Guard) (a b : BitVec 8) (r : RecRef) (s : State) : Res := collIssue true g a b r s

/-! ### The arithmetic of a block (R290 to R292) -/

/-- FP32 words of a member's block. -/
def CollOp.words (o : CollOp) : Nat := if o.cover then 4 else 32
/-- Blocks of a collective: 32 elements, or one pixel. -/
def CollOp.blocks (o : CollOp) : Nat := if o.cover then o.count else o.count / 32
/-- The last member's position. -/
def CollOp.last (o : CollOp) : Nat := o.members.length - 1
/-- Whether a member's output is due (R288). -/
def CollOp.due (o : CollOp) : Bool := !o.root || o.self = 0

/-- The decoded words of what a member sends on: exact FP32 (R65, R290). -/
def blockWords : CollBlock → List Nat
  | .quant sc els => els.map fun x => ((scaled (Sys2Proof.Machine.mxfp8.decode x.toNat) (scaleVal Sys2Proof.Machine.mxfp8.sk sc.toNat)).round32 .rne).1
  | .esc ws => ws.map (·.toNat)
  | .pixel ws => ws.map (·.toNat)

/-- Words as bit vectors. -/
def toWords (xs : List Nat) : List Word := xs.map (BitVec.ofNat 32)

/-- q(p): a quantised block, or an escape block where p holds an infinity or a NaN (R290, R291). -/
def quantBlock (p : List Nat) : CollBlock :=
  if p.any fun x => 0x7F800000 ≤ x % 2 ^ 31 then .esc (toWords p) else
  let sc := e8m0Scale Sys2Proof.Machine.mxfp8 (p.foldl (fun m x => max m (x % 2 ^ 31)) 0)
  .quant (BitVec.ofNat 8 sc) (p.map fun x =>
    BitVec.ofNat 8 (encodeScaled Sys2Proof.Machine.mxfp8 .rne 0 x (scaleVal Sys2Proof.Machine.mxfp8.sk sc)).1)

/-- One pixel composed under another (R292). -/
def coverPixel (acc src : List Nat) : List Nat :=
  let t := fdif 0x3F800000 (acc.getD 3 0)
  List.zipWith (fun a x => fsum a (fprd t x)) acc src

/-- What a member makes of its input and what came from its predecessor. -/
def combine (o : CollOp) (src : List Nat) : Option CollBlock → CollBlock
  | none => if o.cover then .pixel (toWords src) else quantBlock src
  | some (.esc ws) => .esc (toWords (List.zipWith fsum (ws.map (·.toNat)) src))
  | some b =>
    if o.cover then .pixel (toWords (coverPixel (blockWords b) src))
    else quantBlock (List.zipWith fsum (blockWords b) src)

/-! ### The engine (R289) -/

/-- A byte of a collective's buffers: on a local device page of one copy. -/
def collByte (s : State) (o : CollOp) (va : DWord) (need : Need) : Except (Byte × DWord) Nat :=
  if !isLocalVa va then .error (0x11, va) else
  match tget? s.ctxs o.ctx with
  | none => .error (0x11, va)
  | some c =>
    match translate s none o.ctx (c.seen s (opLaunch s o.queue o.seq)) va.toNat need with
    | .error f => .error (f, va)
    | .ok p =>
      if p.host || p.repl then .error (0x11, va)
      else if tideLocked s p.key 1 then .error (0, heldAddr)
      else if need == .read && badLine s p.key then .error (0x40, va) else .ok p.key

/-- A member's source words of a block. -/
def collRead (s : State) (o : CollOp) (block : Nat) : Except (Byte × DWord) (List Nat) :=
  (List.range o.words).mapM fun k => do
    let va := o.src + BitVec.ofNat 64 (4 * (o.words * block + k))
    let bs ← (List.range 4).mapM fun i => do pure (memGet s.mem (← collByte s o (va + BitVec.ofNat 64 i) .read))
    pure (leNat bs)

/-- The cells that a block's output writes. -/
def collCells (s : State) (o : CollOp) (block : Nat) (ws : List Nat) : Except (Byte × DWord) (Table Byte) := do
  let t ← ws.zipIdx.foldlM (fun t (w, k) =>
    (leBytes 4 w).zipIdx.foldlM (fun t (b, i) => do
      let key ← collByte s o (o.dst + BitVec.ofNat 64 (4 * (o.words * block + k) + i)) .write
      pure (tput t key b)) t) []
  if spoilsLine s t then .error (0x40, o.dst + BitVec.ofNat 64 (4 * o.words * block)) else pure t

/-- A collective aborted here with a code, told to every other member when this one causes it (R289). -/
def State.abortColl (s : State) (o : CollOp) (code named : Nat) (fc : Byte) (tell : Bool) : State :=
  if o.abort.isSome then s else
  let s := { s with colls := tput s.colls o.cid.toNat { o with abort := some (code, named, fc), paused := none } }
  if tell then s.tellMembers o fun d => .collAbort d o.cid.toNat code named fc else s

/-- An engine fault: 0x10 and 0x70 pause the work, the others abort every member (R289). -/
def State.collStop (s : State) (o : CollOp) (code : Byte) (addr : DWord) (write : Bool) : State :=
  if code = 0 then s.absorb o.ctx [addr.toNat]
  else if code == 0x10 || code == 0x70 then
    let (tok, s) := s.engineFault o.ctx code addr o.pc o.seq o.queue o.core o.wid write (some (.collective o.cid.toNat))
    { s with colls := tput s.colls o.cid.toNat { o with paused := tok } }
  else s.abortColl o 3 s.fabric.index code true

/-- Cells of this device's memory written for a collective. -/
def State.collWrite (s : State) (o : CollOp) (cells : Table Byte) : State := s.engineStore o.core o.ctx { cells }

/-- A block's final words written where they are due. -/
def State.collOutput (s : State) (o : CollOp) (block : Nat) (b : CollBlock) : Except (Byte × DWord) State := do
  if !o.due then return s
  let cells ← collCells s o block (blockWords b)
  return (s.collWrite o cells)

/-- One block combined at this member and sent on (R290, R292). -/
def collCombine (s : State) (o : CollOp) (block : Nat) (b : Option CollBlock) : State :=
  match collRead s o block with
  | .error (f, a) => s.collStop o f a false
  | .ok src =>
    let q := combine o src b
    let put (s : State) (o : CollOp) : State := { s with colls := tput s.colls o.cid.toNat o }
    let o' := { o with sent := insertNat block o.sent }
    if o.self < o.last then
      let next := o.members.getD (o.self + 1) 0
      (put s o').sendTo next (.block next o.cid.toNat block q)
    else match s.collOutput o block q with
      | .error (f, a) => s.collStop o f a true
      | .ok s' =>
        let s := put s' { o' with written := insertNat block o'.written }
        if o.root then
          let d := o.members.getD 0 0
          if o.self = 0 then s else s.sendTo d (.final d o.cid.toNat block q)
        else s.tellMembers o fun d => .final d o.cid.toNat block q

/-- `collective hop` (R289 to R292): a block made at member 0, one from the predecessor, the last member's result, member 0's
record, of which any difference aborts every member, a member's word that it found none, or an abort. A member combines nothing before
it has compared. -/
def execCollectiveHop (id block : Nat) (hop : CollHop) (s : State) : Res :=
  match tget? s.colls id with
  | none => .next s
  | some o =>
    if o.abort.isSome then .next s else
    match hop with
    | .abort code dev fc =>
      .next (if code = 1 || ((code = 2 || code = 3) && o.members.contains dev) then s.abortColl o code dev fc false else s)
    | .record cover count root members =>
      .next (if !(o.cover == cover && o.count = count && o.root == root && o.members = members) then
          (s.abortColl o 1 s.fabric.index 0 false).tellMembers { o with members := (o.members ++ members).eraseDups }
            fun d => .collAbort d id 1 s.fabric.index 0
        else if o.matched then s
        else { s with colls := tput s.colls id { o with agreed := o.agreed ++ [s.fabric.index] } }.tellMembers o
          fun d => .collAgreed d id)
    | .agreed dev =>
      .next (if o.members.contains dev && dev ≠ s.fabric.index && !o.agreed.contains dev then
          { s with colls := tput s.colls id { o with agreed := o.agreed ++ [dev] } }
        else s)
    | .start =>
      .next (if o.paused.isNone && block < o.blocks && o.self = 0 && !o.sent.contains block then collCombine s o block none else s)
    | .chain b =>
      .next (if o.paused.isNone && block < o.blocks && o.self ≠ 0 && o.matched && !o.sent.contains block then collCombine s o block (some b) else s)
    | .final b =>
      if o.paused.isSome || o.blocks ≤ block || o.self = o.last || !o.sent.contains block || o.written.contains block || !o.due then
        .next s
      else match collCells s o block (blockWords b) with
        | .error (f, a) => .next (s.collStop o f a true)
        | .ok cells =>
          .next { (s.collWrite o cells) with colls := tput s.colls id { o with written := insertNat block o.written } }

/-- A collective's status word (R289). -/
def CollOp.word (o : CollOp) : DWord :=
  let (code, dev, fc) := o.abort.getD (0, 0, 0)
  BitVec.ofNat 64 (o.cid.toNat * 2 ^ 32 + dev % 1024 * 2 ^ 22 + (if code = 3 then fc.toNat else 0) * 256 + code)

/-- Whether a member's part is over: aborted, or no member's record differs, every block combined and every due output written. -/
def CollOp.over (o : CollOp) : Bool :=
  o.abort.isSome || (o.allAgree && o.sent.length = o.blocks && (!o.due || o.written.length = o.blocks))

/-- `collective complete` (R289): the status word, the pin and the range lock. -/
def execCollectiveComplete (id : Nat) (s : State) : Res :=
  match tget? s.colls id with
  | none => .next s
  | some o =>
    if o.paused.isSome || !o.over then .next s else
    let gone (s : State) : State :=
      ({ s with colls := tdel s.colls id }.modCluster (o.core / 16) fun c => { c with locks := c.locks.filter fun k => k.op ≠ o.lock })
    match wordWrites s o.ctx (opLaunch s o.queue o.seq) o.status o.word with
    | .ok W =>
      .next ((gone (s.engineStore o.core o.ctx W)).applyComp o.det o.ctx o.comp)
    | .error (f, a) =>
      let s := s.ownNotices o.ctx true [(0, f, o.status)]
      if f = 0 then .next (s.absorb o.ctx [a.toNat])
      else if f == 0x10 || f == 0x70 then .next (s.collStop o f o.status true)
      else .next ((gone (s.engineFault o.ctx f o.status o.pc o.seq o.queue o.core o.wid true none).2).applyComp o.det o.ctx o.comp)

/-- The loss of a member aborts a collective with CODE 2 (R289, R379). -/
def State.collLoss (s : State) (dev : Nat) : State :=
  s.colls.foldl (fun s (_, o) => if o.members.contains dev then s.abortColl o 2 dev 0 false else s) s

end Sys2Proof.Machine
end

