-- ==== Sys2Proof/Machine/Fetch.lean ====
section
/-! DEFINITION. The fetch line (R110 to R112), where a line comes from (R109, R113), the checks of a line and a slot
before an instruction runs (R116), and the check of a transfer's target (R114). -/

namespace Sys2Proof.Machine

/-- The XOR of the 60 bits of a number. -/
def xor60 (x : Nat) : Nat :=
  let y := x % 2 ^ 60
  let y := Nat.xor y (y / 2 ^ 32)
  let y := Nat.xor y (y / 2 ^ 16)
  let y := Nat.xor y (y / 2 ^ 8)
  let y := Nat.xor y (y / 2 ^ 4)
  let y := Nat.xor y (y / 2 ^ 2)
  Nat.xor y (y / 2) % 2

/-- The 60 payload bits from bit 60i of a line (R112). -/
def parGroup (line : List Byte) (i : Nat) : Nat := leAt line (60 * i / 8) 8 / 2 ^ (60 * i % 8)

/-- The eight parity bits of a line's payload (R112). -/
def linePar (line : List Byte) : Nat := (List.range 8).foldr (fun i acc => xor60 (parGroup line i) + 2 * acc) 0

/-- Whether a line's parity bits fit its payload (R112). -/
def parityOk (line : List Byte) : Bool := linePar line == leAt line 63 1

/-- The line word of a line (R111). -/
def lineWord (line : List Byte) : Nat := leAt line 60 4
/-- The slot k of a line (R110). -/
def slotBits (line : List Byte) (k : Nat) : BitVec 96 := BitVec.ofNat 96 (leAt line (12 * k) 12)
/-- Whether the line word's reserved bits are nonzero (R111). -/
def lineReserved (line : List Byte) : Bool := bitsOf (lineWord line) 23 12 ≠ 0 || bitsOf (lineWord line) 7 5 ≠ 0
/-- The branch-target bit of a slot (R111). -/
def lineMarked (line : List Byte) (k : Nat) : Bool := bitOf (lineWord line) k

/-- The line address of a PC (R113). -/
def lineOf (pc : DWord) : DWord := pc &&& ~~~63#64

/-- The key of a fetched copy: the context and the line's number. -/
def lineKey (ctx : Nat) (line : DWord) : Nat := ctx * 2 ^ 64 + line.toNat / 64

/-- A line read from memory, with fault 0x40 for data that cannot be corrected (R15) and 0x04 for a parity mismatch or a set
update mark (R109, R112). -/
def readLine (s : State) (p : Page) : List Byte × Byte :=
  let bs := s.bytesAt p.key 64
  let marked := p.w && isDevKey p.key && (tget? s.marks (p.key / 64)).getD false
  (bs, if badLine s p.key then 0x40 else if marked || !parityOk bs then 0x04 else 0)

/-- A line as the core fetches it: its fetched copy if it holds one, memory otherwise; the address checks and the
translation come first (R113, R109). -/
def fetchLine (s : State) (core ctx : Nat) (c : Context) (line : DWord) : Except Byte (List Byte × Byte) :=
  if 2 ^ 57 ≤ line.toNat then .error 0x11 else
  match translate s (some core) ctx c line.toNat .fetch with
  | .error f => .error f
  | .ok p =>
    .ok ((tget? (s.core core).lines (lineKey ctx line)).getD (readLine s p))

/-- What fetching at a PC gives: an instruction, a fetch fault of the line (R113), or a fault of R116. -/
inductive Fetched where
  | instr (i : Instr)
  | lineFault (code : Byte)
  | slotFault (code : Byte)
deriving DecidableEq, Repr

/-- The checks of R116 on a line's slot, in their order. -/
def checkSlot (line : List Byte) (mk : Byte) (pc : DWord) : Fetched :=
  if mk ≠ 0 then .slotFault mk
  else if lineReserved line then .slotFault 0x02
  else match decodeSlot (slotBits line (pc &&& 7#64).toNat) with
  | .ok i => .instr i
  | .error .reserved => .slotFault 0x02
  | .error .illegal => .slotFault 0x01

/-- The fetch at a PC. -/
def fetch (s : State) (core ctx : Nat) (c : Context) (pc : DWord) : Fetched :=
  match fetchLine s core ctx c (lineOf pc) with
  | .error f => .lineFault f
  | .ok (line, mk) => checkSlot line mk pc

/-- A fault of the line itself: every live lane whose PC lies in it, the record carrying the line address and FETCH
(R113, R360). -/
def takeLineFault (e : Env) (s : State) (code : Byte) : State :=
  let lanes := maskOf fun l => e.w.pc l != exitedPc && lineOf (e.w.pc l) == lineOf e.pc
  let s := s.modWave e.id fun w => { w with status := match w.status with | .waiting _ => .ready | st => st }
  s.laneFault e.id 0 lanes code (lineOf e.pc) e.pc true false false []

/-- The check of a transfer's target (R114): the fault's code and address. -/
def checkTarget (s : State) (e : Env) (target : DWord) : Except (Byte × DWord) Unit :=
  match fetchLine s e.wg.core e.ctx e.c (lineOf target) with
  | .error f => .error (f, lineOf target)
  | .ok (line, mk) =>
    let slot := (target &&& 7#64).toNat
    if mk ≠ 0 then .error (mk, lineOf target)
    else if (target &&& 0x38#64) ≠ 0 ∨ 4 < slot then .error (0x03, target)
    else if !lineMarked line slot then .error (0x03, target) else .ok ()

end Sys2Proof.Machine
end

