-- ==== Sys2Proof/Machine/Control.lean ====
section
/-! DEFINITION. The control instructions (R175 to R181) and the two slots that are no instruction (R129). -/

namespace Sys2Proof.Machine

/-- The zero slot: fault 0x01 in every lane that reaches it (R129). -/
def execZeroSlot (s : State) : Res := issue noGuard s fun e => illegalIssue e s 0x01
/-- The fill slot: fault 0x01 in every lane that reaches it (R129). -/
def execFillSlot (s : State) : Res := issue noGuard s fun e => illegalIssue e s 0x01

/-- `nop` (R179). -/
def execNop (g : Guard) (s : State) : Res := issue g s fun e => done e s

/-- The target of a direct transfer (R127). -/
def directTarget (pc : DWord) (imm : Word) : DWord :=
  (lineOf pc + ((imm.extractLsb' 3 29).signExtend 64 <<< 6)) ||| (imm &&& 7#32).setWidth 64

/-- The target that a lane takes from a register (R176). -/
def registerTarget (w : Wave) (sc : Bool) (a l : Nat) : DWord := if sc then w.sreg a else w.vreg64 a l

/-- The fate of a lane that transfers (R114, R176). -/
def transferFate (s : State) (e : Env) (t : DWord) : Fate :=
  match checkTarget s e t with
  | .ok () => .goto t
  | .error (code, addr) => .fault code addr

/-- The fetches of the lanes' targets: a target in a reclaimed range makes the wave wait until the range is back (R352). -/
def withTargets (e : Env) (s : State) (t : Nat → Option DWord) (k : Res) : Res :=
  let away := (lanesOf e.enabled).filterMap fun l => (t l).bind fun t =>
    match checkTarget s e t with | .error (0, addr) => some addr | _ => none
  if away.isEmpty then k else absorbWait e s away

/-- `bra` (R176). -/
def execBra (g : Guard) (target : Word) (s : State) : Res :=
  issue g s fun e =>
    let t := directTarget e.pc target
    withTargets e s (fun _ => some t) (finish e s (fun _ => transferFate s e t) false true)

/-- `brx` (R176). -/
def execBrx (g : Guard) (sc : Bool) (a : BitVec 8) (s : State) : Res :=
  issue g s fun e =>
    if !(sc || e.vTy true a.toNat) then illegalIssue e s 0x01 else
    let t := registerTarget e.w sc a.toNat
    withTargets e s (fun l => some (t l)) (finish e s (fun l => transferFate s e (t l)) false true)

/-- The fate of a calling lane (R177). -/
def callFate (s : State) (e : Env) (t : Nat → DWord) (l : Nat) : Fate :=
  if tgetD e.w.depth l 0 = 16 then .fault 0x01 0 else transferFate s e (t l)

/-- The wave with the return stacks of the lanes that call pushed (R177). -/
def pushReturns (s : State) (e : Env) (t : Nat → DWord) : State :=
  s.modWave e.id fun w => (lanesOf e.enabled).foldl (fun w l =>
    match callFate s e t l with
    | .goto _ =>
      let d := tgetD w.depth l 0
      { w with ret := tsetD w.ret (l * 16 + d) 0 (nextPc e.pc), depth := tsetD w.depth l 0 (d + 1) }
    | _ => w) w

/-- A call to the lanes' targets. -/
def callTo (e : Env) (s : State) (t : Nat → DWord) : Res :=
  withTargets e s (fun l => if tgetD e.w.depth l 0 = 16 then none else some (t l)) (finish e (pushReturns s e t) (callFate s e t) false true)

/-- `call` to a label (R177). -/
def execCall (g : Guard) (target : Word) (s : State) : Res :=
  issue g s fun e => callTo e s fun _ => directTarget e.pc target

/-- `call` through a register (R177). -/
def execCallIndirect (g : Guard) (sc : Bool) (a : BitVec 8) (s : State) : Res :=
  issue g s fun e =>
    if !(sc || e.vTy true a.toNat) then illegalIssue e s 0x01
    else callTo e s (registerTarget e.w sc a.toNat)

/-- Where a lane's `ret` goes, if its return stack holds an entry (R177). -/
def retTarget (w : Wave) (l : Nat) : Option DWord :=
  let d := tgetD w.depth l 0
  if d = 0 then none else some (tgetD w.ret (l * 16 + (d - 1)) 0)

/-- The fate of a returning lane (R177). -/
def retFate (s : State) (e : Env) (l : Nat) : Fate :=
  match retTarget e.w l with
  | none => .fault 0x01 0
  | some t => transferFate s e t

/-- `ret` (R177). -/
def execRet (g : Guard) (s : State) : Res :=
  issue g s fun e =>
    let s' := s.modWave e.id fun w => (lanesOf e.enabled).foldl (fun w l =>
      match retFate s e l with
      | .goto _ => { w with depth := tsetD w.depth l 0 (tgetD w.depth l 0 - 1) }
      | _ => w) w
    withTargets e s (retTarget e.w) (finish e s' (retFate s e) false true)

/-- Whether every other wave of the workgroup has retired. -/
def lastWave (s : State) (e : Env) : Bool :=
  (List.range e.wg.waves).all fun f => e.wgId * 32 + f = e.id || (s.wave (e.wgId * 32 + f)).status == .retired

/-- A wave whose lanes have all exited: it retires, and is passed for the bobbin (R25, R48, R178). -/
def retireIfDone (id : Nat) (s : State) : State :=
  if (s.wave id).liveMask = 0 then
    (s.modWave id fun w => { w with status := .retired }).passBobbin id
  else s

/-- The helper set without lanes that have exited (R270). -/
def dropExited (id : Nat) (s : State) : State := s.modWave id fun w => { w with helpers := w.helpers &&& w.liveMask }

/-- `exit` (R178): every report falls here; the exit of a wave's last lane passes the bobbin, with a release at `.dev`
(R48); that of a workgroup's last lane writes its stash back, and a fault of that falls on the highest lane that exits
(R198). -/
def execExit (g : Guard) (s : State) : Res :=
  issue g s fun e => gateLanes e (fun _ => true) fun e =>
    if e.enabled = 0 then done e s else
    let last := (e.w.liveMask &&& ~~~e.enabled) = 0
    let leave (s : State) : Res := andThen (finish e s fun _ => .goto exitedPc) fun s => retireIfDone e.id (dropExited e.id s)
    let passes := e.det && !e.w.passed
    if !last then leave s
    else if passes && !releaseReady s e .dev then block e s
    else if (lastWave s e || (passes && e.w.hold)) && !e.wg.stash.isEmpty then
      if !(e.w.loads.isEmpty && (s.core e.wg.core).fifo.all fun p => wgOf p.wave ≠ e.wgId) then block e s else
      match s.stashBack e.wgId (fun _ _ => true) with
      | (s, none) => leave s
      | (s, some (f, va)) =>
        if f = 0 then absorbWait e s [va] else
        let top := (lanesOf e.enabled).foldl max 0
        andThen (finish e s (fun l => if l = top then .fault f va else .goto exitedPc) true) (dropExited e.id)
    else if passes then bestBack e s leave else leave s

/-- `yield` (R175, R179). -/
def execYield (g : Guard) (s : State) : Res :=
  issue g s fun e => done e (if e.enabled = 0 then s else s.modWave e.id fun w => { w with yielded := true })

/-- A core's fetched copy of a line taken, if the line is fetchable and whole (R109, R179). -/
def State.takeLine (s : State) (core ctx : Nat) (line : DWord) : State :=
  match tget? s.ctxs ctx with
  | none => s
  | some c =>
    if 2 ^ 57 ≤ line.toNat then s else
    match translate s (some core) ctx c line.toNat .fetch with
    | .error _ => s
    | .ok p =>
      match readLine s p with
      | (bs, 0) => s.modCore core fun k => { k with lines := tput k.lines (lineKey ctx line) (bs, 0) }
      | _ => s

/-- `ipref`: the lines it names are fetched where they can be; nothing else changes (R179). -/
def execIpref (g : Guard) (target : Word) (k : BitVec 3) (s : State) : Res :=
  issue g s fun e =>
    if e.enabled = 0 then done e s else
    let l0 := lineOf (directTarget e.pc target)
    done e ((List.range (k.toNat + 1)).foldl (fun s i => s.takeLine e.wg.core e.ctx (l0 + BitVec.ofNat 64 (64 * i))) s)

/-- Fetched copies without those of lines that overlap a byte range; 1 MiB or more drops every copy, and none stays past 2^64
(R180, log entry 57). -/
def dropLines (t : Table (List Byte × Byte)) (ctx lo n : Nat) : Table (List Byte × Byte) :=
  if n = 0 then t else if 2 ^ 20 ≤ n then [] else
  tfilter t fun key _ =>
    let line := key % 2 ^ 64 * 64
    !(decide (key / 2 ^ 64 = ctx) && decide (line < lo + n) && decide (lo < line + 64))

/-- `ifence` (R180). -/
def execIfence (g : Guard) (a b : BitVec 8) (s : State) : Res :=
  issue g s fun e =>
    if e.enabled = 0 then done e s else
    let lo := (e.w.sreg a.toNat).toNat
    let n := (e.w.sreg b.toNat).toNat
    done e (s.modCore e.wg.core fun k => { k with lines := dropLines k.lines e.ctx lo n })

/-- `wsync` (R181). -/
def execWsync (g : Guard) (m : MaskSrc) (s : State) : Res :=
  issue g s fun e =>
    let m : LaneMask := match m with | .s n => (e.w.sreg n.toNat).setWidth 32 | .imm w => w
    if e.enabled = (m &&& e.w.liveMask) then done e s else finish e s fun _ => .fault 0x23 0

end Sys2Proof.Machine
end

