-- ==== Sys2Proof/Machine/NarrowOps.lean ====
section
/-! DEFINITION. The narrow-format instructions (R170 to R174): the format register's check (R61), register groups,
blocks of lanes, and conversions under a scale (R63 to R66). -/

namespace Sys2Proof.Machine

/-- The `v` register that B names exists, where B names one. -/
def Env.bOk (e : Env) (b : SrcB) : Bool := match b with | .v n => e.vTy false n.toNat | _ => true

/-- An instruction under the format register `fC`: fault 0x31 in every issuing lane for an invalid format (R61),
and 0x01 where a register of the operand group or the single register does not exist (R170). The size of the group is the
format's, so an invalid format faults before it (log entry 57). -/
def withFormat (g : Guard) (fc single group : Nat) (b : SrcB) (s : State) (k : Env → NFmt → Res) : Res :=
  issue g s fun e =>
    if !(e.vTy false single && e.vTy false group && e.bOk b) then illegalIssue e s 0x01
    else if !NFmt.valid (e.w.freg fc) then illegalIssue e s 0x31
    else
      let f := NFmt.ofWord (e.w.freg fc)
      if !e.vOk group f.count then illegalIssue e s 0x01 else k e f

/-- The SK field of a format register (R60). -/
def scaleKind (f : NFmt) : Nat := f.sk

/-- The lanes of the block that a lane belongs to (R170). -/
def blockLanes (f : NFmt) (l : Nat) : List Nat :=
  let w := f.block / f.count
  (List.range w).map fun k => l / w * w + k

/-- The greatest finite magnitude of a block's elements in contributing lanes (R171); FP32 patterns of magnitudes
order as numbers. -/
def blockMax (e : Env) (f : NFmt) (base l : Nat) : Nat :=
  ((blockLanes f l).filter fun k => e.active.getLsbD k).foldl (fun m k =>
    (List.range f.count).foldl (fun m j =>
      let x := (e.w.vreg (base + j) k).toNat % 2 ^ 31
      if x < fmt32.infBits then max m x else m) m) 0

/-- `qamax` (R171); a signalling NaN that it ignores raises no flag (log entry 57). -/
def execQamax (o : Alu) (s : State) : Res :=
  withFormat o.g o.c.toNat o.d.toNat o.a.toNat (.imm 0) s fun e f =>
    done e (s.modWave e.id fun w => (lanesOf e.enabled).foldl (fun w l =>
      w.setV o.d.toNat l (BitVec.ofNat 32 (blockMax e f o.a.toNat l))) w)

/-- The scale of a magnitude by SK (R172). -/
def scaleOf (f : NFmt) (x : Nat) : Nat :=
  match scaleKind f with
  | 0 => 0x3F800000
  | 1 => e8m0Scale f (x % 2 ^ 31)
  | 2 => e4m3Scale f (x % 2 ^ 31)
  | _ => fp32Scale f (x % 2 ^ 31)

/-- `qscale` (R172); it raises no flag (log entry 57). -/
def execQscale (o : Alu) (s : State) : Res :=
  issue o.g s fun e =>
    if !e.vTy false o.d.toNat || !e.vTy false o.a.toNat then illegalIssue e s 0x01
    else if !NFmt.valid (e.w.freg o.c.toNat) then illegalIssue e s 0x31
    else
      let f := NFmt.ofWord (e.w.freg o.c.toNat)
      done e (s.modWave e.id fun w => (lanesOf e.enabled).foldl (fun w l =>
        w.setV o.d.toNat l (BitVec.ofNat 32 (scaleOf f (e.w.vreg o.a.toNat l).toNat))) w)

/-- `qpack` of one lane's group (R173): the packed register and the flags. -/
def packLane (f : NFmt) (rm : Rnd) (seed key : Nat) (scale : Nat) (xs : List Nat) : Nat × Word :=
  let sc := scaleVal (scaleKind f) scale
  let (qs, fl) := gatherFlags (xs.zipIdx.map fun (x, j) => encodeScaled f rm (srhash seed key j) x sc)
  (f.pack qs, fl)

/-- `qpack` (R173): with an immediate scale the seed is 0. -/
def execQpack (o : Alu) (seed : Word) (s : State) : Res :=
  withFormat o.g o.c.toNat o.d.toNat o.a.toNat o.b s fun e f =>
    let seed := match o.b with | .imm _ => 0 | _ => seed.toNat
    let w := (lanesOf e.enabled).foldl (fun w l =>
      let xs := (List.range f.count).map fun j => (e.w.vreg (o.a.toNat + j) l).toNat
      let (q, fl) := packLane f o.rnd seed (e.wid l).toNat (readB e.w o.ty false o.b l) xs
      (w.setV o.d.toNat l (BitVec.ofNat 32 q)).raise (laneFlags e.active l fl)) e.w
    done e (s.modWave e.id fun _ => w)

/-- Element j of a packed register under a scale, as FP32 (R174). -/
def unpackElem (f : NFmt) (rm : Rnd) (q scale j : Nat) : Nat × Word :=
  let sc := scaleVal (scaleKind f) scale
  let el := f.decode (f.elem q j)
  let (y, fl) := (scaled el sc).round32 rm
  (y, fl ||| (match sc, el with
    | .nan z, _ => signalling z
    | _, .nan _ => 0
    | sc, el => flagIf (el.mul sc).isNone fNV))

/-- `qunpack` (R174). -/
def execQunpack (o : Alu) (s : State) : Res :=
  withFormat o.g o.c.toNat o.a.toNat o.d.toNat o.b s fun e f =>
    let w := (lanesOf e.enabled).foldl (fun w l =>
      (List.range f.count).foldl (fun w j =>
        let (x, fl) := unpackElem f o.rnd (e.w.vreg o.a.toNat l).toNat (readB e.w o.ty false o.b l) j
        (w.setV (o.d.toNat + j) l (BitVec.ofNat 32 x)).raise (laneFlags e.active l fl)) w) e.w
    done e (s.modWave e.id fun _ => w)

end Sys2Proof.Machine
end

