-- ==== Sys2Proof/Machine/Complete.lean ====
section
/-! DEFINITION. Counted operations performed: loads (R130, R185 to R189, R230, R249, R269), stores (R130, R104, R190, R277),
a further read of `moor` (R196), a line fetched (R109, R112) and a page walk (R355). -/

namespace Sys2Proof.Machine

/-! ### Loads -/

/-- The bytes of each access of a load. -/
def LoadOp.size (op : LoadOp) (acc : List LaneAcc) : Nat :=
  match op with
  | .ld _ ty | .lds _ ty _ | .atom _ _ ty _ => ty.bytes
  | .ldq _ fmt _ => if (NFmt.ofWord fmt).ct = 1 then 1 else 4
  | .hbrd .. => 4
  | .spfetch .. => 4
  | .tex _ _ _ _ img _ => if acc.isEmpty then 4 else min (imgOf img).bpt 8

/-- The accesses with their place among their lane's. -/
def numbered (acc : List LaneAcc) : List (LaneAcc × Nat) :=
  (acc.foldl (fun (r : List (LaneAcc × Nat) × Table Nat) x =>
    let k := tgetD r.2 x.lane 0
    (r.1 ++ [(x, k)], tput r.2 x.lane (k + 1))) ([], [])).1

/-- Whether two remote accesses touch one 64-byte line of a window. -/
def sameRemoteLine (x y : LaneAcc) : Bool := x.remote && y.remote && x.va.toNat / 64 = y.va.toNat / 64

/-- Whether a wave's older store that is still pending holds a load back: one to a line of another device that the load reads
there (R91), and, for an acquire at `.dev` or wider, which reads at the home slice, one to its own bytes (R96). -/
def heldByStore (p : PendingLoad) (n : Nat) (q : PendingStore) : Bool :=
  p.acc.any fun x => q.lanes.any fun y => sameRemoteLine x y.acc ||
    (isAcquire p.ord && atLeast x.scope .dev && !x.remote && (List.range n).any fun i => (y.byteAt (byteKey x.key i)).isSome)

/-- Whether a pending load has its turn: after its wave's older reductions and the stores that hold it back, an atomic after
its wave's older stores, a release after every older store of its core. -/
def loadTurn (c : CoreState) (wave : Nat) (p : PendingLoad) : Bool :=
  !olderRed c.fifo wave p.stamp &&
  !(c.fifo.any fun q => q.wave = wave && q.stamp < p.stamp && heldByStore p (p.op.size p.acc) q) &&
  (match p.op with
   | .atom .. => !(c.fifo.any fun x => x.stamp < p.stamp && (x.wave = wave || isRelease p.ord))
   | _ => true)

/-- The 64-byte lines of the accesses to replicated pages that write (R99). -/
def replicaLines (n : Nat) (acc : List LaneAcc) : List Nat :=
  ((acc.filter fun x => x.repl && !x.remote).flatMap fun x => [lineNo x.key, lineNo (x.key + n - 1)]).eraseDups

/-- Whether a core holds the locks of lines. -/
def locksHeld (s : State) (core : Nat) (ls : List Nat) : Bool := ls.all fun l => tget? s.replicas l == some core
/-- Every replica of lines locked by a core, from the primary one (R99, R330). -/
def State.lockReplicas (s : State) (core : Nat) (ls : List Nat) : State :=
  { s with replicas := ls.foldl (fun t l => tput t l core) s.replicas }
/-- The replicas of lines unlocked, all of them updated (R99): writes of the device that waited for them go on. -/
def State.unlockReplicas (s : State) (ls : List Nat) : State :=
  if ls.isEmpty then s else { s with replicas := ls.foldl (fun t l => tdel t l) s.replicas }.unstallAll

/-- The remote copy of the core that serves an access, or what the other device answered. -/
def remoteValue (c : CoreState) (p : PendingLoad) (r : LdReply) (n : Nat) (x : LaneAcc) (k : Nat) : Option Nat :=
  match (if r.fromL1 && p.ord == .rlx && p.pol != .hs then tget? c.remote (16 * x.key + n) else none) with
  | some v => some v.toNat
  | none => (r.remote.find? fun y => y.1 = 16 * x.lane + k).map fun y => y.2.toNat % 2 ^ (8 * n)

/-- The error that an access meets: uncorrectable data here, the loss of its device, or what the fabric reports (R107, R183
order 9). -/
def accessError (s : State) (errs : List (Nat × Byte)) (x : LaneAcc) : Option Byte :=
  match errs.find? fun y => y.1 = x.lane && (y.2 == 0x40 || (x.remote && y.2 == 0x41)) with
  | some (_, c) => some c
  | none =>
    if x.remote then (if s.fabric.member (remoteDev x.va) == .fenced then some 0x41 else none)
    else if badLine s x.key then some 0x40 else none

/-- The context of a wave's launch. -/
def waveCtxId (s : State) (wave : Nat) : Nat :=
  match (tget? s.wgs (wgOf wave)).bind fun W => tget? s.launches W.launch with | some L => L.ctx | none => 0

/-- The stash lines of an access's scratch bytes filled, where they have become stale since it issued (R82): what its fill meets. -/
def State.fillAcc (s : State) (ctx core n : Nat) (x : LaneAcc) : Except (Byte × DWord) State :=
  if x.remote then .ok s else s.fillKeys ctx core [x.key, x.key + n - 1]

/-- The stash lines of accesses filled: the state, and what the fills meet. -/
def State.fillAccs (s : State) (ctx core n : Nat) (acc : List LaneAcc) : State × List (LaneAcc × Byte × DWord) :=
  acc.foldl (fun (s, bad) x => match s.fillAcc ctx core n x with
    | .ok s => (s, bad)
    | .error (f, va) => (s, bad ++ [(x, f, va)])) (s, [])

/-- The global addresses that fills of accesses wait for: of a reclaimed range, or of a line that is held. -/
def fillWaits (s : State) (ctx core n : Nat) (acc : List LaneAcc) : List DWord :=
  (s.fillAccs ctx core n acc).2.filterMap fun (_, f, va) => if f = 0 then some va else none

/-- The request that a remote access of a load sends. -/
def loadRequest (op : LoadOp) (x : LaneAcc) (n : Nat) : RemoteReq :=
  let off := remoteOff x.va
  match op with
  | .atom _ a ty vs =>
    match vs.find? fun y => y.1 = x.lane with
    | some (_, v, w1) => .atom a (aluOf ty) off v w1
    | none => .load off n
  | _ => .load off n

/-- One access performed: its value and the state. -/
def performAcc (core wave : Nat) (p : PendingLoad) (r : LdReply) (n : Nat) (s : State) (x : LaneAcc) (k : Nat) : Nat × State :=
  let c := s.core core
  if x.remote then
    let v := (remoteValue c p r n x k).getD 0
    let atomic := match p.op with | .atom .. => true | _ => false
    let s := s.sendReq core (waveCtxId s wave) (remoteDev x.va) atomic (loadRequest p.op x n)
    (v, s.modCore core fun c => { c with remote :=
      if atomic || p.pol == .hs then dropRemote c.remote x.key n else keepRemote c.remote x.key n (BitVec.ofNat 64 v) })
  else match p.op with
    | .atom _ op ty vs =>
      match vs.find? fun y => y.1 = x.lane with
      | some (_, v, w1) => s.rmw core r.fromL1 p.pol x op (aluOf ty) v.toNat w1.toNat
      | none => (0, s)
    | _ =>
      let l1 := r.fromL1 && p.ord == .rlx && p.pol != .hs
      let v := loadBytes s c wave p.stamp l1 x.key n
      (v, if l1 then s else s.takeCopy core p.pol x.key n)

/-- The accesses performed in order: what each lane's accesses gave. -/
def performAccs (core wave : Nat) (p : PendingLoad) (r : LdReply) (n : Nat) (bad : List Nat) :
    State → List (LaneAcc × Nat) → List (Nat × Nat) × State
  | s, [] => ([], s)
  | s, (x, k) :: xs =>
    if bad.contains x.lane then performAccs core wave p r n bad s xs else
    let (v, s) := performAcc core wave p r n s x k
    let (vs, s) := performAccs core wave p r n bad s xs
    ((x.lane, v) :: vs, s)

/-- A lane's elements of a narrow load as FP32, and its flags (R186). -/
def ldqLane (w : Wave) (d l : Nat) (f : NFmt) (rm : Rnd) (active : Bool) (x : Nat) : Wave :=
  (List.range f.count).foldl (fun w j =>
    let (y, fl) := (f.decode (f.elem x j)).round32 rm
    (w.setV (d + j) l (BitVec.ofNat 32 y)).raise (if active then fl else 0)) w

/-- A lane's values written to its destinations. -/
def landLane (w : Wave) (p : PendingLoad) (l : Nat) (vs : List Nat) : Wave :=
  match p.op with
  | .ld d ty | .atom d _ ty _ => writeMemD w ty d l (vs.headD 0)
  | .lds d ty _ => w.setS d (extendLds ty (vs.headD 0))
  | .ldq d fmt rm =>
    let f := NFmt.ofWord fmt
    ldqLane w d l f rm (p.lanes.getLsbD l) (if f.ct = 1 then vs.foldr (fun x a => x + 256 * a) 0 else vs.headD 0)
  | .hbrd .. => w
  | .spfetch d j idx =>
    let w := vs.zipIdx.foldl (fun w (x, k) => w.setV (d + k) l (BitVec.ofNat 32 x)) w
    (w.setV (d + 12) l j).setV (d + 13) l idx
  | .tex grad fetch d pc img co =>
    match co.find? fun y => y.1 = l with
    | none => w
    | some (_, ws) =>
      let (ch, approx) := texValue img grad fetch ws vs
      let w := ch.zipIdx.foldl (fun w (x, k) => w.setV (d + k) l (BitVec.ofNat 32 x)) w
      w.setP pc (laneBit l) (if approx then 0xFFFFFFFF#32 else 0)

/-- Zeros written for a helper whose fault is not taken (R30). -/
def landZero (w : Wave) (p : PendingLoad) (l : Nat) : Wave :=
  let zeros (w : Wave) (d n : Nat) : Wave := (List.range n).foldl (fun w k => w.setV (d + k) l 0) w
  match p.op with
  | .ld d ty | .atom d _ ty _ => writeMemD w ty d l 0
  | .lds d _ _ => w.setS d 0
  | .ldq d fmt _ => zeros w d (NFmt.ofWord fmt).count
  | .hbrd d n _ => zeros w d n
  | .spfetch d _ _ => zeros w d 14
  | .tex _ _ d pc _ _ => (zeros w d 4).setP pc (laneBit l) 0

/-- The registers of an `hbrd` from the buffer (R230). -/
def landHbrd (s : State) (w : Wave) (p : PendingLoad) : Wave :=
  match p.op with
  | .hbrd d n key => (lanesOf p.lanes).foldl (fun w l => (List.range n).foldl (fun w j =>
      w.setV (d + j) l (BitVec.ofNat 32 (s.natAt (key + 128 * j + 4 * l) 4))) w) w
  | _ => w

/-- The lanes whose values are written: those with accesses, and those of a lookup that reads none. -/
def landLanes (p : PendingLoad) (bad : List Nat) : List Nat :=
  let ls : List Nat := match p.op with
    | .hbrd .. => []
    | .tex _ _ _ _ _ co => co.map (·.1)
    | _ => (p.acc.map (·.lane)).eraseDups
  ls.filter fun l => !bad.contains l

/-- A pending load's share of some lanes. -/
def PendingLoad.only (p : PendingLoad) (m : LaneMask) : PendingLoad :=
  { p with
    lanes := p.lanes &&& m, zeros := p.zeros &&& m, acc := p.acc.filter fun x => m.getLsbD x.lane
    op := match p.op with
      | .tex grad fetch d pc img co => .tex grad fetch d pc img (co.filter fun y => m.getLsbD y.1)
      | op => op }

/-- Whether a pending load still has a register to write. -/
def PendingLoad.left (p : PendingLoad) : Bool :=
  !p.acc.isEmpty || p.zeros != 0 ||
  match p.op with | .hbrd .. => p.lanes != 0 | .tex _ _ _ _ _ co => !co.isEmpty | _ => false

/-- The lanes that a completion leaves for later (R135): none of a scalar load, whose access is one; of an atomic operation's lanes
at one location those above one that is left too (R87). -/
def laterLanes (p : PendingLoad) (r : LdReply) : LaneMask :=
  match p.op, r.part with
  | .lds .., _ | _, none => 0
  | .atom .., some m => maskOf fun l => !m.getLsbD l ||
      p.acc.any fun x => x.lane = l && p.acc.any fun y => y.key = x.key && y.lane < l && !m.getLsbD y.lane
  | _, some m => ~~~m

/-- The lanes in which an operation's error is reported: of a scalar load's one access every enabled lane (R187). -/
def errorLanes (p : PendingLoad) (l : Nat) : List Nat := match p.op with | .lds _ _ m => lanesOf m | _ => [l]

/-- What lands of a load-class operation now: destinations and reports (R130, R183). -/
def State.landLoad (s : State) (wave core : Nat) (p : PendingLoad) (r : LdReply) : State :=
  let n := p.op.size p.acc
  let (s, fills) := s.fillAccs (waveCtxId s wave) core n p.acc
  let errs : List (LaneAcc × Byte × DWord) := fills ++ p.acc.filterMap fun x => (accessError s r.errs x).map fun c => (x, c, x.va)
  let bad := (errs.map fun (x, _) => x.lane).eraseDups
  let (vs, s) := performAccs core wave p r n bad s (numbered p.acc)
  let s := s.modWave wave fun w =>
    let w := landHbrd s w p
    let w := (landLanes p bad).foldl (fun w l => landLane w p l ((vs.filter fun y => y.1 = l).map (·.2))) w
    (lanesOf p.zeros).foldl (fun w l => landZero w p l) w
  bad.foldl (fun s l => match errs.find? fun (x, _) => x.lane = l with
    | some (x, c, va) => (errorLanes p l).foldl (fun s l => s.report wave p.pc
        ⟨c, va, l, 0, some (if x.remote || isHostKey x.key then .sys else .dev), none, 0, 0,
          (match p.op with | .atom .. => true | _ => false), 2 * p.stamp⟩) s
    | none => s) s

/-- The lines that an operation locks before it writes: an atomic one's on replicated pages (R99). -/
def PendingLoad.locks (p : PendingLoad) : List Nat :=
  match p.op with | .atom .. => replicaLines (p.op.size p.acc) p.acc | _ => []

/-- A load-class operation performed: what lands, the counter, and the acquire, once all its lanes are written (R89, R130). -/
def State.performLoad (s : State) (wave core : Nat) (p : PendingLoad) (r : LdReply) : State :=
  let rest := p.only (laterLanes p r)
  let now := if rest.left then p.only (~~~(laterLanes p r)) else p
  let s := (s.landLoad wave core now r).unlockReplicas now.locks
  if rest.left then s.modWave wave fun w => { w with loads := rest :: w.loads.drop 1 } else
  let s := s.modWave wave fun w => { w with loads := w.loads.drop 1, ldCnt := w.ldCnt - 1 }
  if isAcquire p.ord then s.acquire core (wgOf wave) p.scope else s

/-- Whether a load-class operation can be performed with an answer, but for its markers and locks. -/
def loadAble (s : State) (wave core : Nat) (p : PendingLoad) (r : LdReply) : Bool :=
  let n := p.op.size p.acc
  let own : Option Nat := match p.op with | .atom .. => some core | _ => none
  loadTurn (s.core core) wave p && !(p.acc.any fun x => !x.remote && heldFor s own x.key n) &&
  (fillWaits s (waveCtxId s wave) core n p.acc).isEmpty &&
  ((numbered p.acc).all fun (x, k) => !x.remote || (remoteValue (s.core core) p r n x k).isSome || (accessError s r.errs x).isSome)

/-- Whether what a core has sent lets a release by an access at a scope be performed (R95): at `.gng` or wider it has landed, at
`.sys` the markers asked for are answered too, or none is needed (R104). -/
def releaseLanded (s : State) (core : Nat) (sc : Scope) (asked : Option (List (Nat × Nat × Nat))) : Bool :=
  !atLeast sc .gng || ((s.core core).landed sc &&
    (sc != .sys || match asked with | some ws => s.hasAnswers ws | none => (s.unanswered core).isEmpty))

/-- Whether a load-class operation that is a release may be performed. -/
def loadReleased (s : State) (core : Nat) (p : PendingLoad) : Bool := !isRelease p.ord || releaseLanded s core p.scope p.asked

/-- Whether a load-class operation can be performed with an answer. -/
def loadReady (s : State) (wave core : Nat) (p : PendingLoad) (r : LdReply) : Bool :=
  loadAble s wave core p r && loadReleased s core p && locksHeld s core p.locks

/-- What a load-class operation does before it can be performed: a reclaimed range that a stash fill meets begins its return (R352),
a release at `.sys` sends its markers (R104), then an atomic operation on a replicated page locks the replicas (R99). -/
def State.prepareLoad (s : State) (wave core : Nat) (p : PendingLoad) (r : LdReply) : State :=
  let ctx := waveCtxId s wave
  if !loadAble s wave core p r then s.absorb ctx ((fillWaits s ctx core (p.op.size p.acc) p.acc).map (·.toNat))
  else if !loadReleased s core p then
    if p.asked.isSome || p.scope != .sys then s else
    (s.markers core ctx).modWave wave fun w => { w with loads := { p with asked := some (s.unanswered core) } :: w.loads.drop 1 }
  else s.lockReplicas core p.locks

/-- `ld op complete` (R130): the wave's oldest load-class operation is performed, when its turn has come and every remote
lane has an answer; before that it sends its markers and takes its locks. -/
def execLdOpComplete (wave : Nat) (r : LdReply) (s : State) : Res :=
  match tget? s.waves wave, tget? s.wgs (wgOf wave) with
  | some w, some W =>
    match w.loads with
    | [] => .next s
    | p :: _ =>
      if loadReady s wave W.core p r then .next (s.performLoad wave W.core p r) else .next (s.prepareLoad wave W.core p r)
  | _, _ => .next s

/-! ### Stores -/

/-- Whether an error is one that a lane's write can meet where it executes: order 9 of R183, or a destination's fault of a tide
write (R277). -/
def storeError (x : LaneStore) (code : Byte) : Bool :=
  match x.op with
  | .tide .. => x.acc.remote && (code == 0x10 || code == 0x11 || code == 0x16 || code == 0x41)
  | _ => code == 0x40 || (x.acc.remote && code == 0x41)

/-- The reported error of a lane's write. -/
def reportedError (errs : List (Nat × Byte)) (x : LaneStore) : Option Byte :=
  (errs.find? fun y => y.1 = x.acc.lane && storeError x y.2).map (·.2)

/-- The error of a lane's write as it is performed or sent: what is reported of a local one, a lost device, or uncorrectable
data that a read-modify-write reads. -/
def storeFails (s : State) (errs : List (Nat × Byte)) (x : LaneStore) : Option Byte :=
  if x.acc.remote then (if s.fabric.member (remoteDev x.acc.va) == .fenced then some 0x41 else none) else
  match reportedError errs x with
  | some c => some c
  | none =>
    match x.op with
    | .red .. | .bwadd false _ => if badLine s x.acc.key then some 0x40 else none
    | _ => none

/-- A lane's write sent to its device: it is on its way, and the core's copies of the remote bytes follow it (R86, R104). -/
def State.sendStore (s : State) (core : Nat) (p : PendingStore) (x : LaneStore) : State :=
  let dev := remoteDev x.acc.va
  let off := remoteOff x.acc.va
  let va := x.acc.key
  let go (counted : Bool) (req : RemoteReq) (f : Table DWord → Table DWord) : State :=
    (s.sendReq core p.ctx dev counted req).modCore core fun c => { c with
      remote := f c.remote
      flying := c.flying ++ [{ wave := p.wave, stamp := p.stamp, pc := p.pc, st := x, ord := if counted then tgetD c.sent dev 0 else 0 }] }
  match x.op with
  | .plain bs => go true (.store off bs) fun t => storeRemote t va bs
  | .red op ty v => go true (.red op ty off v) fun t => dropRemote t va (atomBytes ty)
  | .tide gid bs => go false (.tide gid p.wave off bs) id
  | .bwadd .. => s

/-- One lane's write performed where it executes, or sent there (R73, R97, R104, R188, R277); the error 0x42 where a home
slice refuses a contribution (R192), or that of the stash fill behind which a reduction in scratch reads (R82). -/
def State.performStore (s : State) (core : Nat) (p : PendingStore) (hit : Bool) (x : LaneStore) : Except (Byte × DWord) State :=
  if x.acc.remote then .ok (s.sendStore core p x) else
  match x.op with
  | .plain bs => .ok (s.store core x.acc.key bs)
  | .red op ty v => match s.fillAcc p.ctx core (atomBytes ty) x.acc with
    | .ok s => .ok (s.rmw core hit p.pol x.acc op ty v.toNat 0).2
    | .error f => .error f
  | .bwadd true c => match s.bwAdd p.ctx x.acc.key x.acc.va.toNat c with | some s => .ok s | none => .error (0x42, x.acc.va)
  | .bwadd false c =>
    .ok (s.store core x.acc.key (leBytes 4 (fmt32.add .rne (s.natAt x.acc.key 4) c.toNat).1))
  | .tide gid bs => .ok (s.stageTide gid x.acc.key bs (s.fabric.index * 2 ^ 64 + p.wave))

/-- The report of a lane's write that failed (R107, R192, R277). -/
def State.storeReport (s : State) (wave stamp : Nat) (pc : DWord) (x : LaneStore) (code : Byte) (addr : DWord) : State :=
  let rel : Scope := match x.op with
    | .tide .. => .sys
    | _ => if x.acc.remote || isHostKey x.acc.key then .sys else .dev
  let held := match x.op with | .bwadd _ c => if code == 0x42 then some (x.acc.va, c) else none | _ => none
  let s := s.report wave pc ⟨code, addr, x.acc.lane, 1, some rel, held, 0, 0, true, 2 * stamp⟩
  match x.op with
  | .tide gid _ => s.markFailed gid true 1 s.fabric.index code
  | _ => s

/-- The store-class operations of a core that are over, in the issue order of each wave: their waves' counters fall (R130,
R131). -/
def State.settleOps (s : State) (core : Nat) : State :=
  let c := s.core core
  let busy (stamp : Nat) : Bool := c.flying.any fun x => x.stamp = stamp && !x.acked
  let (finished, left) := c.ops.foldl (fun (r : List Nat × List (Nat × Nat)) (w, st) =>
    if busy st || r.2.any (fun x => x.1 = w) then (r.1, r.2 ++ [(w, st)]) else (r.1 ++ [w], r.2)) ([], [])
  finished.foldl (fun s w => if (tget? s.waves w).isSome then s.modWave w fun w => { w with stCnt := w.stCnt - 1 } else s)
    (s.modCore core fun c => { c with ops := left })

/-- The lines that a store-class operation locks before it writes (R99). -/
def PendingStore.locks (p : PendingStore) : List Nat :=
  p.lanes.flatMap fun x => replicaLines (match x.op with | .plain bs => bs.length | .red _ ty _ => atomBytes ty | _ => 4) [x.acc]

/-- Uncorrectable lines of which the plain lanes of one store write every byte are good again (R391). -/
def State.healStored (s : State) (xs : List LaneStore) : State :=
  let keys := xs.flatMap fun x => match x.op with
    | .plain bs => if x.acc.remote then [] else (List.range bs.length).map (x.acc.key + ·)
    | _ => []
  { s with sys := { s.sys with bad := s.sys.bad.filter fun l => !(List.range 64).all fun i => keys.contains (64 * l + i) } }

/-- A store-class operation performed: every lane in ascending order, its remote writes sent; the counter falls once these have
reached their targets (R87, R130). -/
def State.performStores (s : State) (core : Nat) (p : PendingStore) (errs : List (Nat × Byte)) (hit : Bool) : State :=
  let errs := if p.counted then errs else []
  let written := p.lanes.filter fun x => (storeFails s errs x).isNone
  let s := p.lanes.foldl (fun s x =>
    match storeFails s errs x with
    | some c => s.storeReport p.wave p.stamp p.pc x c x.acc.va
    | none => match s.performStore core p hit x with
      | .ok s => s
      | .error (c, a) => s.storeReport p.wave p.stamp p.pc x c a) s
  let s := (s.healStored written).unlockReplicas p.locks
  (if p.counted then s.modCore core fun c => { c with ops := c.ops ++ [(p.wave, p.stamp)] } else s).settleOps core

/-- The non-idempotent requests of a core that a device has not answered (R105). -/
def outstanding (c : CoreState) (dev : Nat) : Nat :=
  (c.flying.filter fun x => !x.acked && remoteDev x.st.acc.va = dev && (match x.st.op with | .red .. | .tide .. => true | _ => false)).length

/-- Whether a core may send an operation's non-idempotent requests: at most 4096 to a device stay unanswered (R105). -/
def sendRoom (c : CoreState) (p : PendingStore) : Bool :=
  p.lanes.all fun x => !x.acc.remote || (match x.op with
    | .red .. | .tide .. => outstanding c (remoteDev x.acc.va) + p.lanes.length ≤ 4096
    | _ => true)

/-- The global addresses that the stash fills of a store's reductions in scratch wait for (R82). -/
def storeWaits (s : State) (core : Nat) (p : PendingStore) : List DWord :=
  p.lanes.flatMap fun x => match x.op with | .red _ ty _ => fillWaits s p.ctx core (atomBytes ty) [x.acc] | _ => []

/-- Whether the oldest store of a core can be performed, but for its markers and locks: its wave's older loads have been, no
line is held, and its requests have room. -/
def storeAble (s : State) (core : Nat) (p : PendingStore) : Bool :=
  !((s.wave p.wave).loads.any fun l => l.stamp < p.stamp) && sendRoom (s.core core) p && (storeWaits s core p).isEmpty &&
  !(p.lanes.any fun x => match x.op with
    | .tide .. | .bwadd true _ => false
    | .plain bs => !x.acc.remote && heldFor s (some core) x.acc.key bs.length
    | .red _ ty _ => !x.acc.remote && heldFor s (some core) x.acc.key (atomBytes ty)
    | .bwadd false _ => heldFor s (some core) x.acc.key 4)

/-- Whether a store-class operation that is a release may be performed. -/
def storeReleased (s : State) (core : Nat) (p : PendingStore) : Bool := !p.rel || releaseLanded s core p.scope p.asked

/-- Whether the oldest store of a core can be performed. -/
def storeReady (s : State) (core : Nat) (p : PendingStore) : Bool :=
  storeAble s core p && storeReleased s core p && locksHeld s core p.locks

/-- What the oldest store of a core does before it can be performed: a reclaimed range that a stash fill meets begins its return
(R352), a release at `.sys` sends its markers (R104), then a write to a replicated page locks the replicas (R99). -/
def State.prepareStore (s : State) (core : Nat) (p : PendingStore) (rest : List PendingStore) : State :=
  if !storeAble s core p then s.absorb p.ctx ((storeWaits s core p).map (·.toNat))
  else if !storeReleased s core p then
    if p.asked.isSome || p.scope != .sys then s else
    (s.markers core p.ctx).modCore core fun c => { c with fifo := { p with asked := some (s.unanswered core) } :: rest }
  else s.lockReplicas core p.locks

/-- The targets of a wave's oldest operation that is on its way have answered: its errors are reported, its other writes have
been applied (R107, R130, R277). A tide write that is staged waits for no marker. -/
def State.storeAnswered (s : State) (core wave : Nat) (errs : List (Nat × Byte)) : State :=
  let c := s.core core
  match c.ops.find? fun (w, st) => w = wave && c.flying.any fun x => x.stamp = st && !x.acked with
  | none => s
  | some (_, st) =>
    let mine (x : Flying) : Bool := x.stamp = st && !x.acked
    let stays (x : Flying) : Bool := (reportedError errs x.st).isNone && (match x.st.op with | .tide .. => false | _ => true)
    let s := s.modCore core fun c => { c with
      flying := (c.flying.filter fun x => !mine x || stays x).map fun x => if mine x then { x with acked := true } else x }
    ((c.flying.filter mine).foldl (fun s x => match reportedError errs x.st with
      | some code => s.storeReport x.wave x.stamp x.pc x.st code x.st.acc.va
      | none => s) s).settleOps core

/-- `st op complete` (R92, R130): the oldest store-class operation of a core's store order is performed, after its markers and
locks; or the targets of a wave's oldest one on its way answer. -/
def execStOpComplete (core : Nat) (r : StReply) (s : State) : Res :=
  match r.turn with
  | .answered wave => .next (s.storeAnswered core wave r.errs)
  | .perform hit =>
    match (s.core core).fifo with
    | [] => .next s
    | p :: rest =>
      if storeReady s core p then .next ((s.modCore core fun c => { c with fifo := rest }).performStores core p r.errs hit)
      else .next (s.prepareStore core p rest)

/-- A device's answer to a marker: it has applied the core's first `count` requests, so none of them is on its way (R104). -/
def State.markerAnswered (s : State) (core dev count : Nat) : State :=
  let c := s.core core
  if tgetD c.marks dev 0 < count || count ≤ tgetD c.answered dev 0 then s else
  (s.modCore core fun c => { c with
    answered := tput c.answered dev count
    flying := c.flying.filter fun x => !(remoteDev x.st.acc.va = dev && 0 < x.ord && x.ord ≤ count) }).settleOps core

/-- The writes on their way to a device that is lost: each whose marker is not answered is reported 0x41 (R107), but for an
applied one whose lane has exited since. -/
def State.flyingLost (s : State) (dev : Nat) : State :=
  s.cores.foldl (fun s (core, c) =>
    let lost (x : Flying) : Bool := remoteDev x.st.acc.va = dev
    let s := s.modCore core fun c => { c with flying := c.flying.filter fun x => !lost x }
    ((c.flying.filter lost).foldl (fun s x =>
      if x.acked && (s.wave x.wave).pc x.st.acc.lane == exitedPc then s else s.storeReport x.wave x.stamp x.pc x.st 0x41 x.st.acc.va) s).settleOps core) s

/-! ### Mooring, fetching and walking -/

/-- `moor` re-reads (R196): a lane of a wave that waits at its `moor` reads its location again; none of a wave whose workgroup leaves
its core or is away (R366). -/
def execMoorReread (wave lane : Nat) (r : MoorReply) (s : State) : Res :=
  let onCore := match tget? s.wgs (wgOf wave) with | some W => W.resident && !W.retired && W.leaving.isNone | none => false
  if (s.wave wave).status != .waiting .retry || !onCore then .next s else
  let s' := { s with cur := wave }
  match s'.env? noGuard with
  | none => .next s
  | some e =>
    match fetch s e.wg.core e.ctx e.c e.pc with
    | .instr (.moor m c) =>
      match s'.env? m.g with
      | some e => .next { (moorReadLane e s' m c lane r.value r.err) with cur := s.cur }
      | none => .next s
    | _ => .next s

/-- `instruction fetch` (R109, R112, R113): a core takes a fetched copy of a line, if it translates and is whole. -/
def execInstructionFetch (core ctx : Nat) (line : DWord) (s : State) : Res := .next (s.takeLine core ctx (lineOf line))

/-- `page walk` (R355): a core's TLB takes the leaf entry that the tables give a VA. -/
def execPageWalk (core ctx : Nat) (va : DWord) (s : State) : Res :=
  match tget? s.ctxs ctx with
  | none => .next s
  | some c =>
    if !isLocalVa va then .next s else
    match walk s c va.toNat with
    | .error _ => .next s
    | .ok p => .next (s.modCore core fun k => { k with tlb := tput k.tlb (tlbKey ctx va.toNat) (p.pack va.toNat) })

end Sys2Proof.Machine
end

