-- ==== Sys2Proof/Machine/Launching.lean ====
section
/-! DEFINITION. `launch` and the ebb stack's instructions (R205 to R207). -/

namespace Sys2Proof.Machine

/-- The 64 bytes of a record at a lane's VA: aligned, and on pages that translate (R205, R206). DESIGN CHOICE: a record at a remote VA
does not translate (log entry 65). -/
def readRecord (s : State) (e : Env) (va : DWord) : Except (Byte × DWord) (List Byte) :=
  if va.toNat % 64 ≠ 0 then .error (0x12, va)
  else if !isLocalVa va then .error (0x11, va)
  else match loadVa s e.ctx e.c va.toNat 64 with
    | .ok bs => .ok bs
    | .error (f, a) => .error (f, if f = 0 then a else va)

/-- The queue that `launch` names (R205): a launch queue of the context. -/
def launchTarget (s : State) (e : Env) (q : Option (BitVec 8)) : Option (Nat × Queue) :=
  let id := match q with | none => e.L.queue | some b => (e.w.sreg b.toNat).toNat % 2 ^ 13
  if id = 0 then none else
  (tget? s.queues id).bind fun Q => if Q.ctx = e.ctx then some (id, Q) else none

/-- A wave's `launch` joins those that wait for a queue, where it does not wait there already (R340). -/
def State.joinLaunch (s : State) (qid wave : Nat) (pc : DWord) : State :=
  s.modQueue qid fun q =>
    if q.launchers.contains (wave, pc) then q else { q with launchers := q.launchers.filter (·.1 ≠ wave) ++ [(wave, pc)] }
/-- A wave's `launch` waits for a queue no longer. -/
def State.leaveLaunch (s : State) (qid wave : Nat) : State :=
  s.modQueue qid fun q => { q with launchers := q.launchers.filter (·.1 ≠ wave) }

/-- Whether a queue takes the `launch` of a wave now: there is room, it is the turn of this source, and no other `launch` reached the
queue before it (R340). -/
def launchGoes (s : State) (qid : Nat) (q : Queue) (wave : Nat) : Bool :=
  queueRoom s qid q && sourceTurn s q (srcPlace .launch) && firstLauncher s q = some wave

/-- `launch` (R205): where the queue cannot take it, it waits in its place among the launches that do (R340). -/
def execLaunch (g : Guard) (d a : BitVec 8) (q : Option (BitVec 8)) (s : State) : Res :=
  waveLevel g true s fun e =>
    let va := e.w.sreg a.toNat
    match readRecord s e va with
    | .error (f, va) => if f = 0 then absorbWait e s [va] else faultAll e s f va
    | .ok _ =>
      if e.det && !e.w.hold then faultAll e s 0x15 va else
      waveRelease e s .dev fun s =>
        let answer (s : State) (x : DWord) : Res :=
          done e ((s.modWave e.id fun w => w.setS d.toNat x).sideEffect e.wgId)
        match launchTarget s e q with
        | none => answer s 0x8000000000000001#64
        | some (id, Q) =>
          let left := s.leaveLaunch id e.id
          if Q.susp then answer left 0x8000000000000002#64 else
          match readRecord s e va with
          | .error (f, va) => if f = 0 then absorbWait e left [va] else faultAll e left f va
          | .ok r =>
            match depsAbsorb s Q (some r) with
            | some a => absorbWait e left [a]
            | none =>
              let s := s.joinLaunch id e.id e.pc
              match tget? s.queues id with
              | none => block e s
              | some Q =>
                if !launchGoes s id Q e.id then block e s else
                let (seq, s) := (s.leaveLaunch id e.id).acceptLaunch id va (some r) none false (srcPlace .launch)
                answer s (BitVec.ofNat 64 (seq % 2 ^ 63))

/-- One lane's push (R206): its record copied with its identifier and count, or its fault. -/
def pushLane (e : Env) (va : Nat → DWord) (st : State × List (Nat × Byte × DWord)) (l : Nat) :
    State × List (Nat × Byte × DWord) :=
  let (s, fs) := st
  match tget? s.queues e.L.queue with
  | none => st
  | some q =>
    match readRecord s e (va l) with
    | .error (f, a) => (s, fs ++ [(l, f, a)])
    | .ok r =>
      if !ebbFits q 128 then (s, fs ++ [(l, 0x11, ebbEnd q)]) else
      let n := tgetD (s.wave e.id).pushes l 0
      let s := s.modWave e.id fun w => { w with pushes := tsetD w.pushes l 0 (n + 1) }
      let push (f : Frame) : Frame := { f with recs := f.recs ++ [⟨e.wid l, n, r⟩] }
      ((s.ebbTake q 128).modQueue e.L.queue fun q => { q with frames := tmod q.frames e.L.seq push }, fs)

/-- `ebbpush` (R206): per lane; the lanes copied stand in the progress index of a fault's record (R364). -/
def execEbbpush (g : Guard) (sc : Bool) (a : BitVec 8) (unwind : Bool) (s : State) : Res :=
  issue g s fun e =>
    if !(sc || e.vTy true a.toNat) then illegalIssue e s 0x01
    else if e.active = 0 then done e s
    else if !settled s e then block e s
    else
      let va (l : Nat) : DWord := if sc then e.w.sreg a.toNat else e.w.vreg64 a.toNat l
      let (s', fs) := (lanesOf e.active).foldl (pushLane e va) (s, [])
      if fs.any (fun (_, f, _) => f = 0) then
        absorbWait e s (fs.filterMap fun (_, f, a) => if f = 0 then some a else none) else
      let copied := e.active &&& ~~~(maskOf fun l => fs.any fun x => x.1 = l)
      let s' := if copied = 0 then s' else s'.sideEffect e.wgId
      let s' := if unwind && copied != 0 then s'.modLaunch e.wg.launch fun L => { L with unwind := true } else s'
      withProgress e s' copied (!fs.isEmpty) fun s =>
        finish e s fun l => match fs.find? fun x => x.1 = l with | some (_, f, a) => .fault f a | none => .adv

/-- A mark recorded against the executing launch's frame (R207). -/
def ebbmark (g : Guard) (a b : BitVec 8) (mark : Env → Nat → Nat → EbbMark) (s : State) : Res :=
  waveLevel g true s fun e =>
    let base := (e.w.sreg a.toNat).toNat
    let n := (e.w.sreg b.toNat).toNat
    if base % 65536 ≠ 0 ∨ n % 65536 ≠ 0 ∨ base = 0 ∨ n = 0 then faultAll e s 0x12 (e.w.sreg a.toNat) else
    match tget? s.queues e.L.queue with
    | none => done e s
    | some q =>
      let f := tgetD q.frames e.L.seq {}
      if 4096 ≤ f.marks.length ∨ !ebbFits q 64 then faultAll e s 0x11 (ebbEnd q) else
      let f := { f with marks := f.marks ++ [mark e base n] }
      done e (((s.ebbTake q 64).modQueue e.L.queue fun q => { q with frames := tput q.frames e.L.seq f }).sideEffect e.wgId)

/-- `ebbmark.recomp` (R207). -/
def execEbbmarkRecomp (g : Guard) (d a b : BitVec 8) (s : State) : Res :=
  ebbmark g a b (fun e base n => .recomp base n (e.w.sreg d.toNat)) s
/-- `ebbmark.needs` (R207). -/
def execEbbmarkNeeds (g : Guard) (d a b : BitVec 8) (n : Word) (s : State) : Res :=
  ebbmark g a b (fun e base len => .needs base len (e.w.sreg d.toNat) n.toNat) s

end Sys2Proof.Machine
end

