-- ==== Sys2Proof/Machine/System.lean ====
section
/-! DEFINITION. The system instructions and the special registers (R208 to R213, R332, R333), and taking a trap (R365). -/

namespace Sys2Proof.Machine

/-! ### Traps -/

/-- The 64 bytes of a trap record (R365). -/
def trapBytes (ctx imm token : Nat) (pc wid : DWord) (seq : Nat) (w : Wave) : List Byte :=
  leBytes 2 ctx ++ leBytes 2 imm ++ leBytes 4 token ++ leBytes 8 pc.toNat ++ leBytes 8 wid.toNat ++ leBytes 8 seq ++
  (List.range 8).flatMap fun i => leBytes 4 (w.sreg i).toNat

/-- Taking a trap: the record joins the context's trap records and the wave parks with its token (R209, R365). -/
def State.takeTrap (s : State) (e : Env) (imm : BitVec 16) : State :=
  let (tok, s) := s.newId
  let bytes := trapBytes e.ctx imm.toNat tok e.pc (e.wid (lowLane e.active)) e.L.seq e.w
  let s := s.modWave e.id fun w => { w with status := .trapped tok }
  s.modCtx e.ctx fun c => { c with
    traps := c.traps ++ [{ bytes, code := 0, wave := some e.id }], tokens := tput c.tokens tok { owner := .trap e.id } }

/-- `trap` (R209): a release at `.sys`, the record, and the wave parks; without a trap ring every enabled lane faults
0x50. -/
def execTrap (g : Guard) (imm : BitVec 16) (s : State) : Res :=
  waveLevel g true s fun e =>
    if e.c.trapring.isNone then faultAll e s 0x50 (imm.setWidth 64) else
    waveRelease e s .sys fun s => .next ((s.takeTrap e imm).sideEffect e.wgId)

/-- `brkpt` (R210): every enabled lane that is not a helper faults 0x51. -/
def execBrkpt (g : Guard) (imm : BitVec 16) (s : State) : Res :=
  issue g s fun e => finish e s fun l => if e.active.getLsbD l then .fault 0x51 (imm.setWidth 64) else .adv

/-! ### Special registers -/

/-- A special register's width and whether it is per lane (R211, R332). -/
structure SpecialReg where
  wide    : Bool
  perLane : Bool
deriving DecidableEq, Repr

/-- The registers of R211 below 0x800. -/
def userReg (n : Nat) : Option SpecialReg :=
  if n = 0 then some ⟨true, true⟩
  else if n = 1 ∨ n = 0x18 ∨ n = 0x1D ∨ n = 0x1E then some ⟨true, false⟩
  else if n = 8 then some ⟨false, true⟩
  else if (2 ≤ n ∧ n ≤ 0x0B) ∨ (0x10 ≤ n ∧ n ≤ 0x17) ∨ (0x19 ≤ n ∧ n ≤ 0x1C) then some ⟨false, false⟩
  else none

/-- The registers of R332. -/
def privReg (n : Nat) : Option SpecialReg :=
  if n = 0x803 then some ⟨true, false⟩
  else if (0x800 ≤ n ∧ n ≤ 0x804) ∨ n = 0x808 ∨ n = 0x809 then some ⟨false, false⟩
  else none

/-- The enabled cores of a partition (R14). -/
def partCores (s : State) (part : Nat) : Nat :=
  let n := partClusters s
  (List.range n).foldl (fun a c => a + (if (Config.harvestedCore (part * n + c)).isSome then 15 else 16)) 0

/-- The devices of the fabric (R377). -/
def fabricSize (s : State) : Nat := if s.fabric.configured then s.fabric.q * s.fabric.q + s.fabric.q + 1 else 1

/-- The widths of the work identifier as `sr.fw` shows them (R53). -/
def fieldWidths (H : Header) : Nat := ((H.widths.zipIdx).foldl (fun a (w, k) => a + w % 256 * 2 ^ (8 * k)) 0)

/-- The value of a special register for a lane (R211, R332). -/
def readSpecial (s : State) (e : Env) (n l : Nat) : Nat :=
  if n = 0x00 then (e.wid l).toNat
  else if n = 0x01 then fieldWidths e.H
  else if n = 0x02 then 32
  else if n ≤ 0x07 then e.L.counts.getD (n - 3) 0
  else if n = 0x08 then l
  else if n = 0x09 then e.id % 32
  else if n = 0x0A then e.wg.lcore
  else if n = 0x0B then (if e.det then 1024 else partCores s e.c.part)
  else if n ≤ 0x17 then e.L.splits.getD (n - 0x10) 1
  else if n = 0x18 then e.w.prog.toNat
  else if n = 0x19 then e.w.fflags.toNat
  else if n = 0x1A then s.fabric.index
  else if n = 0x1B then fabricSize s
  else if n = 0x1C then (if e.det then 1 else 0)
  else if n = 0x1D then e.L.hdrVa.toNat / 2 ^ 21 * 2 ^ 21
  else if n = 0x1E then (s.core e.wg.core).cyc % 2 ^ 64
  else if n = 0x800 then e.ctx
  else if n = 0x801 then e.c.part
  else if n = 0x802 then e.L.queue
  else if n = 0x803 then e.L.seq
  else if n = 0x804 then e.wg.core
  else if n = 0x808 then e.w.qsel.toNat
  else queueWord s e.w.qsel.toNat

/-- A special register read into `sD` or the lanes of `vD` (R211). -/
def readInto (e : Env) (s : State) (sc : Bool) (r : SpecialReg) (n d : Nat) (after : Wave → Wave) : Res :=
  if e.enabled = 0 then done e s else
  let w := (e.passes sc).foldl (fun w l =>
    let x := readSpecial s e n l
    if sc then w.setS d (BitVec.ofNat 64 x)
    else if r.wide then w.setV64 d l (BitVec.ofNat 64 x) else w.setV d l (BitVec.ofNat 32 x)) e.w
  done e (s.modWave e.id fun _ => after w)

/-- `rdsr` (R211, R332): the destination is checked before the privilege (R116); a number from 0x800 up that names no register
faults 0x60 in user code (R211). -/
def execRdsr (g : Guard) (sc : Bool) (d : BitVec 8) (num : BitVec 12) (s : State) : Res :=
  issue g s fun e =>
    let n := num.toNat
    let r? := if n < 0x800 then userReg n else privReg n
    if !(sc || e.vTy (match r? with | some r => r.wide | none => false) d.toNat) then illegalIssue e s 0x01
    else if 0x800 ≤ n ∧ !e.c.priv then illegalIssue e s 0x60
    else match r? with
      | none => illegalIssue e s 0x01
      | some r => readInto e s sc r n d.toNat id

/-- `rdsr.clr` of `sr.fflags`: the flags returned and cleared in one step (R211). -/
def execRdsrClr (g : Guard) (sc : Bool) (d : BitVec 8) (s : State) : Res :=
  issue g s fun e =>
    if !(sc || e.vTy false d.toNat) then illegalIssue e s 0x01
    else readInto e s sc ⟨false, false⟩ 0x19 d.toNat fun w => { w with fflags := 0 }

/-- A queue of the partition that a wave runs in (R333). -/
def partQueue (s : State) (e : Env) (q : Nat) : Bool :=
  match (tget? s.queues q).bind fun Q => tget? s.ctxs Q.ctx with | some c => c.part = e.c.part | none => false

/-- `wrsr` (R212, R333): privileged; once per issue with an active lane. -/
def execWrsr (g : Guard) (a : BitVec 8) (num : BitVec 12) (s : State) : Res :=
  issue g s fun e =>
    if !e.c.priv then illegalIssue e s 0x60
    else if e.active = 0 then done e s
    else
      let x := (e.w.sreg a.toNat).toNat
      if num = 0x808 then done e (s.modWave e.id fun w => { w with qsel := BitVec.ofNat 13 x })
      else if num = 0x809 then
        let q := e.w.qsel.toNat
        if !partQueue s e q then faultAll e s 0x11
        else if x = 3 ∨ 4 ≤ x then faultAll e s 0x01
        else waveRelease e s .dev fun s =>
          done e (if x = 1 then s.suspendQueue q else if x = 2 then s.resumeQueue q else s)
      else faultAll e s 0x01

/-- The effect of bit 0 of `sr.qctl` (R333). -/
def execQctlSuspend (queue : Nat) (s : State) : Res := .next (s.suspendQueue queue)
/-- The effect of bit 1 of `sr.qctl` (R333). -/
def execQctlResume (queue : Nat) (s : State) : Res := .next (s.resumeQueue queue)

/-- `rdcyc` (R213). -/
def execRdcyc (g : Guard) (d : BitVec 8) (s : State) : Res :=
  issue g s fun e =>
    if e.enabled = 0 then done e s else
    done e (s.modWave e.id fun w => w.setS d.toNat (BitVec.ofNat 64 (s.core e.wg.core).cyc))

end Sys2Proof.Machine
end

