-- ==== Sys2Proof/Machine/Sched.lean ====
section
/-! DEFINITION. From a queue to its workgroups and back: acceptance (R335, R340), eligibility and the kernel header (R31, R32,
R34, R36), binds and dispatch (R27, R342 to R347), retirement (R25) and completion (R37, R38, R341). -/

namespace Sys2Proof.Machine

/-! ### Acceptance (R340) -/

/-- One record accepted, and what follows from its sequence. -/
def State.accept (s : State) (qid : Nat) (q : Queue) (va : DWord) (r : Option (List Byte)) (parent : Option Nat)
    (unwound : Bool) (place : Nat) (k : Nat → State → State) : Res :=
  match depsAbsorb s q r with
  | some a => .next (s.absorb q.ctx [a.toNat])
  | none => let (seq, s) := s.acceptLaunch qid va r parent unwound place; .next (k seq s)

/-- A queue's head written to the BAR and to its headwb word (R335). -/
def State.showHead (s : State) (qid : Nat) : State :=
  match tget? s.queues qid with
  | none => s
  | some q =>
    let s := s.setNat (barKey (0x120000 + 8 * qid)) 4 q.head.toNat
    if q.headwb = 0 then s else s.deviceWrite q.ctx q.headwb.toNat (leBytes 4 q.head.toNat)

/-- The next record of a queue's ring accepted. -/
def acceptRing (s : State) (qid : Nat) (q : Queue) : Res :=
  if q.susp || q.head = q.tail then .next s else
  match takeRecord s q (ringVa q) with
  | .error a => .next (s.absorb q.ctx [a.toNat])
  | .ok r => s.accept qid q (ringVa q) r none false (srcPlace .ring) fun _ s =>
      (s.modQueue qid fun q => { q with head := q.head + 1 }).showHead qid

/-- What a walker and the unwinder keep of a launch that they submitted; the walker, which has waited for it, goes on (R349). -/
def State.submitted (s : State) (qid : Nat) (src : LaunchSource) (seq : Nat) : State :=
  match src with
  | .walker w => { s with walkers := tmod s.walkers w fun x => { x with
      subs := x.subs ++ [seq], lastSeq := some (max seq (x.lastSeq.getD 0)), pending := 0 } }
  | .unwinder => s.modQueue qid fun q => { q with unwind := q.unwind.map fun u => { u with wait := u.wait ++ [seq] } }
  | _ => s

/-- The oldest record that a walker, the unwinder or firmware offers accepted; the walkers are one source. -/
def acceptOffer (s : State) (qid : Nat) (q : Queue) (src : LaunchSource) : Res :=
  match firstOffer (srcPlace src) q.offers with
  | none => .next s
  | some (o, rest) =>
    if o.src != src then .next s else
    match offeredRecord s q o with
    | .error a => .next (s.absorb q.ctx [a.toNat])
    | .ok r =>
      let parent : Option Nat := match src with | .walker w => (tget? s.walkers w).map (·.launch) | _ => none
      s.accept qid q o.recVa r parent (src == .unwinder) (srcPlace src) fun seq s =>
        let s := s.modQueue qid fun q => { q with offers := rest }
        (s.modLaunch (launchKey qid seq) fun L => { L with returns := o.returns }).submitted qid src seq

/-- `launch accept` (R340): the next record of one source, whose turn it is. -/
def execLaunchAccept (queue : Nat) (src : LaunchSource) (s : State) : Res :=
  match tget? s.queues queue with
  | none => .next s
  | some q =>
    if !queueRoom s queue q || !sourceTurn s q (srcPlace src) then .next s else
    match src with
    | .ring => acceptRing s queue q
    | src => acceptOffer s queue q src

/-- `queue tail write` (R335): a valid tail makes records pending; any other is discarded and sets ERR. -/
def execQueueTailWrite (queue : Nat) (tail : Word) (s : State) : Res :=
  if queue = 0 then
    .next (if (tail - s.sys.cmdHead).toNat ≤ 64 then { s with sys := { s.sys with cmdTail := tail } }
      else { s with sys := { s.sys with cmdErr := true } })
  else
    .next (s.modQueue queue fun q =>
      if (tail - q.head).toNat ≤ q.entries then { q with tail } else { q with err := true })

/-! ### Eligibility (R31 to R36) -/

/-- Whether the field widths of a header break R19. -/
def badWidths (ws : List Nat) : Bool :=
  ws.getD 0 0 ≠ 5 || 5 < ws.getD 1 0 || 4 < ws.getD 2 0 || (ws.drop 3).any (fun w => 59 < w) || 64 < ws.foldl (· + ·) 0

/-- The header that 256 bytes hold. -/
def headerOf (r : List Byte) : Header :=
  let flags := leAt r 4 4
  { entry := BitVec.ofNat 64 (leAt r 8 8)
    widths := (List.range 6).map fun i => leAt r (0x10 + i) 1
    vregs := leAt r 0x18 2, waves := leAt r 0x1A 1, hres := leAt r 0x1B 1, scratch := leAt r 0x1C 4, priv := leAt r 0x20 4
    splits := (List.range (leAt r 0x24 1)).map fun i => leAt r (0x40 + 4 * i) 4
    shared := (List.range (leAt r 0x25 1)).map fun i => (leAt r (0x80 + 16 * i) 8, leAt r (0x88 + 16 * i) 8)
    quad := bitOf flags 2, determ := bitOf flags 1, idemp := bitOf flags 0 }

/-- The reason for which a header is refused, in the order of its fields; 0 for none (R31, R32, R341). -/
def headerReason (det : Bool) (r : List Byte) : Nat :=
  let H := headerOf r
  let w1 := H.widths.getD 1 0
  if leAt r 0 4 ≠ 1 then 1
  else if leAt r 4 4 / 8 ≠ 0 then 2
  else if leAt r 8 8 % 8 ≠ 0 then 3
  else if badWidths H.widths then 4
  else if leAt r 0x16 2 ≠ 0 then 2
  else if H.vregs < 8 ∨ 256 < H.vregs ∨ H.vregs % 8 ≠ 0 then 5
  else if H.waves = 0 ∨ 32 < H.waves ∨ 2 ^ w1 < H.waves ∨ 2048 < H.waves * H.vregs then 6
  else if 64 < H.hres then 7
  else if 262144 < H.scratch then 8
  else if 65536 < H.priv then 9
  else if 8 < leAt r 0x24 1 then 10
  else if 8 < leAt r 0x25 1 then 11
  else if leAt r 0x26 26 ≠ 0 then 2
  else if H.splits.any fun x => x = 0 || 2 ^ 31 < x then 10
  else if leAt r 0x60 32 ≠ 0 then 2
  else if H.shared.any fun (b, n) => n = 0 || 2 ^ 57 < b + n then 11
  else if det && !H.determ then 12 else 0

/-- Whether the counts of a launch break R34, or R47 on a deterministic queue. -/
def badCounts (det : Bool) (gang : Nat) (H : Header) (cs : List Nat) : Bool :=
  let c1 := cs.getD 0 0
  let c2 := cs.getD 1 0
  let w (k : Nat) : Nat := H.widths.getD k 0
  c1 = 0 || H.waves < c1 || 2 ^ w 1 < c1 || 2 ^ w 2 < c2 || 16 < c2 || gang < c2 ||
  ([2, 3, 4].any fun k => 2 ^ w (k + 1) < cs.getD k 0) ||
  (det && !([1, 2, 4, 8, 16].contains c2))

/-! ### Room (R27) -/

/-- What workgroups take of a core. -/
structure Load where
  wgs     : Nat := 0
  waves   : Nat := 0
  vregs   : Nat := 0
  scratch : Nat := 0
deriving DecidableEq, Repr

/-- Two loads together. -/
def Load.plus (a b : Load) : Load := ⟨a.wgs + b.wgs, a.waves + b.waves, a.vregs + b.vregs, a.scratch + b.scratch⟩
/-- The limits of a core. -/
def Load.fits (a : Load) : Bool := a.wgs ≤ 16 && a.waves ≤ 32 && a.vregs ≤ 2048 && a.scratch ≤ 262144

/-- What `n` workgroups of c1 waves take. -/
def wgLoad (H : Header) (c1 n : Nat) : Load :=
  ⟨n, n * c1, n * (c1 * H.vregs), n * ((H.scratch + 16383) / 16384 * 16384)⟩

/-- Whether a workgroup holds the resources of its core. -/
def Workgroup.held (W : Workgroup) : Bool := W.resident && !W.retired

/-- Whether a wave's registers and slot are free again: it has retired, and its ld and st counters have reached 0 (R178). -/
def Wave.released (w : Wave) : Bool := w.status == .retired && w.ldCnt = 0 && w.stCnt = 0
/-- The waves of a workgroup whose registers and slots are not free yet. -/
def heldWaves (s : State) (id : Nat) (W : Workgroup) : Nat :=
  ((List.range W.waves).filter fun f => !(s.wave (id * 32 + f)).released).length

/-- What the workgroups resident on a core take. -/
def coreLoad (s : State) (core : Nat) : Load :=
  s.wgs.foldl (fun a (id, W) =>
    if W.held && W.core = core then
      match (tget? s.launches W.launch).bind (·.header) with
      | some H => a.plus (wgLoad H (heldWaves s id W) 1)
      | none => a
    else a) {}

/-- The enabled cores of a cluster (R14). -/
def enabledCores (cl : Nat) : List Nat := (List.range 16).filter fun c => Config.harvestedCore cl ≠ some (BitVec.ofNat 4 c)

/-- Whether a gang still has a workgroup that has not retired. -/
def gangLive (s : State) (G : Gang) : Bool := G.wgs.any (wgLive s)

/-- Whether a cluster's reservation entries cover another gang's declared maximum (R27, R224). -/
def hoopFits (s : State) (cl : Nat) (H : Header) (but : Option Nat) : Bool :=
  s.gangs.foldl (fun n (id, G) =>
    if G.cluster = cl && gangLive s G && some id ≠ but then
      n + (match (tget? s.launches G.launch).bind (·.header) with | some H => H.hres | none => 0)
    else n) 0 + H.hres ≤ 64

/-! ### Binds (R342, R343) -/

/-- The binds of a queue, lowest slot first. -/
def bindsOf (s : State) (qid : Nat) : Table Bind := tfilter s.binds fun _ b => b.queue = qid
/-- The partition of a queue. -/
def queuePart (s : State) (q : Queue) : Nat := match tget? s.ctxs q.ctx with | some c => c.part | none => 0
/-- The partition's first cluster (R329). -/
def partBase (s : State) (part : Nat) : Nat := part * partClusters s
/-- The physical clusters that a bind names. -/
def bindClusters (s : State) (part : Nat) (b : Bind) : List Nat :=
  ((List.range (partClusters s)).filter fun c => b.clusters.getLsbD c).map fun c => partBase s part + c
/-- Workgroups resident under a bind. -/
def bindUse (s : State) (slot : Nat) : Nat := (s.wgs.filter fun (_, W) => W.held && W.bind = some slot).length
/-- Whether a bind has room for n more workgroups of a launch, which firmware has granted where it must (R343). -/
def bindTakes (s : State) (L : Launch) (slot : Nat) (b : Bind) (n : Nat) : Bool :=
  (b.standing || L.granted || 0 < L.nextWg) && bindUse s slot + n ≤ b.budget

/-- The clusters of a queue's binds, ascending, each once (R347). -/
def queueClusters (s : State) (part qid : Nat) : List Nat :=
  (List.range (partClusters s)).map (partBase s part + ·) |>.filter fun c =>
    (bindsOf s qid).any fun (_, b) => (bindClusters s part b).contains c

/-- Whether a gang of a launch can never be placed (R346). -/
def neverPlaced (s : State) (q : Queue) (qid : Nat) (H : Header) (L : Launch) : Bool :=
  if q.det then L.c2 = 16 && !(wgLoad H (L.counts.headD 1) 2).fits
  else !(bindsOf s qid).isEmpty && (bindsOf s qid).all fun (_, b) => (bindClusters s (queuePart s q) b).all fun cl =>
    ((enabledCores cl).filter fun c => b.cores.getLsbD c).length < L.c2

/-! ### The header read (R36) -/

/-- The split factors of a launch (R47). -/
def splitsOf (s : State) (det : Bool) (H : Header) : List Nat × State :=
  if det then (H.splits, s) else
  H.splits.foldl (fun (acc : List Nat × State) x =>
    let (n, s) := acc.2.fresh
    (acc.1 ++ [1 + n % x], s)) ([], s)

/-- A launch found eligible, or rejected with a reason. -/
def State.settleLaunch (s : State) (k : Nat) (reason : Nat) : State :=
  s.modLaunch k fun L => { L with state := .eligible, reject := reason }

/-- An eligible kernel launch: its header read, validated, and its counts checked. -/
def State.readHeader (s : State) (k : Nat) (q : Queue) (L : Launch) : Res :=
  match s.readCtx L.ctx L.target.toNat 256 with
  | .error (0, a) => .next (s.absorb L.ctx [a.toNat])
  | .error f => .next ((s.settleLaunch k 13).readFault L.ctx L.seq L.queue (spoiltAt (.error f)))
  | .ok r =>
    let H := headerOf r
    let reason :=
      if headerReason q.det r ≠ 0 then headerReason q.det r
      else if badCounts q.det q.gang H L.counts then 14
      else if neverPlaced s q L.queue H L then 19 else 0
    if reason ≠ 0 then .next (s.settleLaunch k reason) else
    let (splits, s) := splitsOf s q.det H
    .next ((s.settleLaunch k 0).modLaunch k fun L => { L with header := some H, hdrVa := L.target, splits })

/-- Whether a launch's dependencies are satisfied (R36, R352). -/
def depsMet (s : State) (q : Queue) (L : Launch) : Bool :=
  (L.deps.all fun (p, t) => pinReached s q.det L.ctx p t) &&
  L.returns.all fun b => match tget? s.ctxs L.ctx with | some c => (tget? c.ranges b).isNone | none => true

/-- Whether a launch is a graph launch (R35). -/
def Launch.graph (L : Launch) : Bool := bitOf L.flags 1

/-- `launch eligible` (R36): a launch whose dependencies are satisfied has its header, or its graph's first node, read; one
of zero workgroups reads none (R38). -/
def execLaunchEligible (queue seq : Nat) (s : State) : Res :=
  let k := launchKey queue seq
  match tget? s.launches k, tget? s.queues queue with
  | some L, some q =>
    if L.state != .accepted || L.reject ≠ 0 then .next s
    else if !depsMet s q L then .next (s.absorbPins q.det L.ctx (L.deps.map (·.1)))
    else if L.graph then
      match s.readCtx L.ctx L.target.toNat 64 with
      | .error (0, a) => .next (s.absorb L.ctx [a.toNat])
      | .error f => .next ((s.settleLaunch k 13).readFault L.ctx L.seq L.queue (spoiltAt (.error f)))
      | .ok _ => .next (s.settleLaunch k 0)
    else if wgTotal L = 0 then .next (s.settleLaunch k 0)
    else s.readHeader k q L
  | _, _ => .next s

/-- Launches of a queue that still have a first placement to be granted. -/
def ungranted (s : State) (queue : Nat) : Table Launch := tfilter s.launches fun _ L =>
  L.queue = queue && L.state == .eligible && L.reject = 0 && L.header.isSome && !L.granted && L.nextWg = 0

/-- `bind grant` (R343): firmware grants the first placement of launches in sequence order. -/
def execBindGrant (queue seq : Nat) (s : State) : Res :=
  match (ungranted s queue).head? with
  | some (k, _) => .next (if k = launchKey queue seq then s.modLaunch k fun L => { L with granted := true } else s)
  | none => .next s

/-! ### Dispatch (R344, R347) -/

/-- Where a gang goes: the bind's slot, the cluster, and its workgroups' physical cores in F2 order. -/
structure Place where
  slot    : Nat
  cluster : Nat
  cores   : List Nat
deriving DecidableEq, Repr

/-- Whether firmware has stopped the placement of a launch's next gang on a cluster (R346). -/
def clearing (s : State) (part k : Nat) (L : Launch) (cl : Nat) : Bool :=
  match tget? s.stalls part with
  | some x => x.clear = some cl && !(x.launch = k && x.first = L.nextWg)
  | none => false

/-- Whether a list of cores comes before another one, its lowest differing core being lower. -/
def coresBefore : List Nat → List Nat → Bool
  | a :: as, b :: bs => a < b || (a = b && coresBefore as bs)
  | _, _ => false

/-- The places that the binds of a launch give on one cluster outside deterministic mode: each bind's lowest free cores. -/
def placesOn (s : State) (part : Nat) (L : Launch) (H : Header) (cl : Nat) : List Place :=
  (bindsOf s L.queue).filterMap fun (slot, b) =>
    if !(bindClusters s part b).contains cl || !bindTakes s L slot b L.c2 then none else
    let cores := (((enabledCores cl).filter fun c => b.cores.getLsbD c).map (16 * cl + ·)).filter fun c =>
      ((coreLoad s c).plus (wgLoad H (L.counts.headD 1) 1)).fits
    if cores.length < L.c2 then none else some ⟨slot, cl, cores.take L.c2⟩

/-- The place on one cluster outside deterministic mode: of the cores that one bind gives, the lowest-numbered; between binds that
give the same cores, the lower slot (R344). -/
def placeOn (s : State) (part k : Nat) (L : Launch) (H : Header) (cl : Nat) : Option Place :=
  if clearing s part k L cl || !hoopFits s cl H none then none else
  (placesOn s part L H cl).foldl (fun best p => match best with
    | none => some p
    | some b => if coresBefore p.cores b.cores then some p else some b) none

/-- The physical core of a logical core's place j of a cluster (R347). -/
def detCore (cl j : Nat) : Nat := 16 * cl + (if Config.harvestedCore cl = some (BitVec.ofNat 4 j) then Nat.xor j 8 else j)

/-- The logical cluster of a workgroup (R347). -/
def logCluster (i : Nat) : Nat := i % 1024 / 16

/-- The physical cluster of a workgroup: that of the mapping, or the one that the image of its logical cluster has migrated to
(R347). -/
def detCluster (s : State) (part : Nat) (L : Launch) (i : Nat) : Option Nat :=
  let cls := queueClusters s part L.queue
  (tget? L.images (logCluster i)) <|> cls[logCluster i % max 1 cls.length]?

/-- The place that R347 prescribes. -/
def placeDet (s : State) (part k : Nat) (L : Launch) (H : Header) : Option Place :=
  match detCluster s part L L.nextWg with
  | none => none
  | some cl =>
    if clearing s part k L cl || !hoopFits s cl H none then none else
    let cores := (List.range L.c2).map fun i => detCore cl ((L.nextWg + i) % 16)
    if !(cores.all fun c => ((coreLoad s c).plus (wgLoad H (L.counts.headD 1) (cores.filter (· = c)).length)).fits) then none else
    (bindsOf s L.queue).findSome? fun (slot, b) =>
      if (bindClusters s part b).contains cl && bindTakes s L slot b L.c2 then some ⟨slot, cl, cores⟩ else none

/-- The place of a launch's next gang, if it has one now. -/
def placeOf (s : State) (part k : Nat) (q : Queue) (L : Launch) (H : Header) : Option Place :=
  if q.det then placeDet s part k L H
  else ((List.range (partClusters s)).map (partBase s part + ·)).findSome? (placeOn s part k L H)

/-- The effective priority of a candidate (R345). -/
def Launch.eff (L : Launch) : Nat := min 255 (L.prio + L.skips / 64)

/-- A candidate of a dispatch round. -/
structure Cand where
  key    : Nat
  L      : Launch
  H      : Header
  place  : Option Place
deriving DecidableEq, Repr

/-- The candidate of each queue of a partition, lowest queue first: its first eligible launch with an unplaced gang. -/
def candidatesOf (s : State) (part : Nat) : List Cand :=
  s.queues.filterMap fun (qid, q) =>
    if queuePart s q ≠ part || (tget? s.ctxs q.ctx).isNone then none else
    match s.launches.find? fun (_, L) => L.queue = qid && L.state == .eligible && L.reject = 0 && L.header.isSome && L.nextWg < wgTotal L with
    | none => none
    | some (k, L) => L.header.map fun H => ⟨k, L, H, placeOf s part k q L H⟩

/-- The candidate that a round prefers (R344, R345): the first overdue one, else the highest effective priority, ties to the
lower queue. -/
def preferred (cs : List Cand) : Option Cand :=
  match cs.find? fun c => c.L.skips = 16384 with
  | some c => some c
  | none => cs.foldl (fun best c => match best with
    | none => some c
    | some b => if b.L.eff < c.L.eff then some c else some b) none

/-- The registers with which a wave starts (R50). -/
def startWave (L : Launch) (H : Header) : Wave :=
  { vpc := allLanes.map fun l => (l, H.entry), s := if L.args = 0 then [] else [(0, L.args)], status := .ready }

/-- One workgroup placed with its waves, after the acquire at the launch's release scope (R36). -/
def State.placeWg (s : State) (id core c1 : Nat) (L : Launch) (H : Header) (W : Workgroup) : State :=
  let s := { s with wgs := tput s.wgs id W }
  let s := (List.range c1).foldl (fun s f1 => { s with waves := tput s.waves (id * 32 + f1) (startWave L H) }) s
  s.acquire core id (if L.relSys then .sys else .dev)

/-- A gang placed whole (R26, R36, R368): workgroups, waves, the acquire at the launch's release scope, the bobbin. -/
def State.placeGang (s : State) (k : Nat) (L : Launch) (H : Header) (p : Place) : State :=
  let qo : Option Queue := tget? s.queues L.queue
  let det := match qo with | some q => q.det | none => false
  let always := match qo with | some q => q.always | none => false
  let part := match tget? s.ctxs L.ctx with | some c => c.part | none => 0
  let c1 := L.counts.headD 1
  let gang := s.nextId
  let ids := (List.range L.c2).map fun f2 => gang + 1 + f2
  let s := { s with nextId := gang + 1 + L.c2, gangs := tput s.gangs gang { cluster := p.cluster, launch := k, wgs := ids } }
  let base := 16 * partBase s part
  let s := (ids.zip p.cores).zipIdx.foldl (fun s ((id, core), f2) =>
    let i := L.nextWg + f2
    s.placeWg id core c1 L H
      { launch := k, gang, index := i, f2, core, lcore := if det then i % 1024 else core - base, waves := c1,
        started := true, restart := H.idemp && !always, bind := some p.slot }) s
  let s := s.modLaunch k fun L => { L with
    nextWg := L.nextWg + L.c2, wgs := L.wgs ++ ids, live := L.live + L.c2, skips := 0 }
  if det then s.moveToken k ((tget? s.launches k).map (·.bobbin) |>.getD 0) else s

/-- The rounds, up to 4096, for which the preferred candidate of a partition has not been placeable (R346). -/
def State.noteStall (s : State) (part : Nat) (top : Option Cand) : State :=
  match top with
  | some c =>
    if c.place.isSome then { s with stalls := tdel s.stalls part } else
    match tget? s.stalls part with
    | some x =>
      if x.launch = c.key && x.first = c.L.nextWg then { s with stalls := tput s.stalls part { x with rounds := min 4096 (x.rounds + 1) } }
      else { s with stalls := tput s.stalls part { launch := c.key, first := c.L.nextWg, rounds := 1 } }
    | none => { s with stalls := tput s.stalls part { launch := c.key, first := c.L.nextWg, rounds := 1 } }
  | none => { s with stalls := tdel s.stalls part }

/-- `dispatch round` (R344): gangs that can never be placed are refused, the preferred placeable candidate is placed whole,
and every other placeable candidate is skipped once more. -/
def execDispatchRound (part : Nat) (s : State) : Res :=
  let cs := candidatesOf s part
  let never (c : Cand) : Bool :=
    match tget? s.queues c.L.queue with | some q => neverPlaced s q c.L.queue c.H c.L | none => false
  let s := (cs.filter never).foldl (fun s c => s.modLaunch c.key fun L => { L with reject := 19 }) s
  let cs := cs.filter fun c => !never c
  let s := s.noteStall part (preferred cs)
  let ps := cs.filter fun c => c.place.isSome
  match preferred ps with
  | none => .next s
  | some c =>
    match c.place with
    | none => .next s
    | some p =>
      let s := ps.foldl (fun s x => if x.key = c.key then s else
        s.modLaunch x.key fun L => { L with skips := min 16384 (L.skips + 1) }) s
      .next (s.placeGang c.key c.L c.H p)

/-- `ageing overdue` (R345): a skip count that has reached 16384 makes a wave overdue; nothing else changes, since the
count itself says so to the choice. -/
def execAgeingOverdue (wave : Nat) (s : State) : Res :=
  match tget? s.waves wave with
  | none => .next s
  | some w => .next (s.modWave wave fun x => { x with skips := min 16384 w.skips })

/-! ### Retirement (R25, R363) -/

/-- Whether a workgroup's counted operations have been performed. -/
def opsDone (s : State) (id : Nat) (W : Workgroup) : Bool :=
  ((List.range W.waves).all fun f => (s.wave (id * 32 + f)).loads.isEmpty) &&
  ((s.core W.core).fifo.all fun p => wgOf p.wave ≠ id) && (s.core W.core).ops.all fun (w, _) => wgOf w ≠ id

/-- Whether a shuttle operation of a workgroup is still to complete. -/
def copiesLeft (s : State) (id : Nat) : Bool :=
  s.shuttles.any fun (_, o) => o.aborted.isNone && (match o.wave with | some w => wgOf w = id | none => false)

/-- The end of a workgroup that system software ends (R363): every lane exits, the bobbin passes, barriers are
invalidated, its hoop entries pass to a peer, its stash, tokens and reports go. -/
def State.endLanes (s : State) (id : Nat) (W : Workgroup) : State :=
  let ws := (List.range W.waves).map fun f => id * 32 + f
  let toks := ws.flatMap fun w => (s.wave w).tokens ++ (match (s.wave w).status with | .trapped t => [t] | _ => [])
  let s := ws.foldl (fun s w => (s.modWave w fun x => { x with
    vpc := [], status := .retired, tokens := [], reports := [], pairs := [], segs := [], tris := [] }).passBobbin w) s
  let s := (List.range 16).foldl (fun s i => if (barAt s id i).valid then s.invalidateBar id i else s) s
  let ctx := match tget? s.launches W.launch with | some L => L.ctx | none => 0
  let s := s.modCtx ctx fun c => { c with tokens := tfilter c.tokens fun t _ => !toks.contains t }
  let s := { s with shuttles := tfilter s.shuttles fun _ o => !(o.aborted.isSome && (match o.wave with | some w => wgOf w = id | none => false)) }
  s.modWg id fun W => { W with stash := [] }

/-- The hoop entries of a workgroup moved to its gang's heir (R233, R363). -/
def State.passHoop (s : State) (id : Nat) (W : Workgroup) : State :=
  let s := s.modWg id fun W => { W with hq := [], retired := true }
  match (tget? s.gangs W.gang).bind (gangHeir s) with
  | some heir => s.modWg heir fun V => { V with hq := V.hq ++ W.hq }
  | none => s

/-- The gang's workgroup that takes over a queue, if one other than this is left. -/
def heirLeft (s : State) (id : Nat) (W : Workgroup) : Bool :=
  match tget? s.gangs W.gang with | some G => G.wgs.any fun k => k ≠ id && wgLive s k | none => false

/-- Whether a workgroup can retire: all its waves have, its counted operations are performed and its hoop queue has drained;
one that is ended waits for its copies too, and leaves its queue to a peer. -/
def retireReady (s : State) (id : Nat) (W : Workgroup) : Bool :=
  W.resident && !W.retired && opsDone s id W && (W.hq.isEmpty || (W.ended && heirLeft s id W)) &&
  (if W.ended then !copiesLeft s id else (List.range W.waves).all fun f => (s.wave (id * 32 + f)).status == .retired)

/-- The dirty bytes of a workgroup's stash that peers have stored since its last lane exited, written back as it retires (R82); the
address at which firmware has to return a range first. A fault here leaves the bytes and reports nothing (R198). -/
def State.lastBack (s : State) (wg : Nat) : State × Option DWord :=
  match s.stashBack wg (fun _ _ => true) with
  | (s, some (f, va)) => (s, if f = 0 then some va else none)
  | (s, none) => (s, none)

/-- `workgroup retire` (R25, R178, R363): the workgroup's slots and scratch are free; with its last workgroup a gang's reservations and
signatures are. -/
def execWorkgroupRetire (wg : Nat) (s : State) : Res :=
  match tget? s.wgs wg with
  | none => .next s
  | some W =>
    if !retireReady s wg W then .next s else
    let (s, wait) := if W.ended then (s.endLanes wg W, none) else s.lastBack wg
    match wait with
    | some va => .next (s.absorb (match tget? s.launches W.launch with | some L => L.ctx | none => 0) [va.toNat])
    | none =>
    let s := (s.passHoop wg W).modLaunch W.launch fun L => { L with live := L.live - 1, ended := L.ended || W.ended }
    let s := { s with waves := tfilter s.waves fun k _ => wgOf k ≠ wg }
    .next (match tget? s.gangs W.gang with
      | some G => if gangLive s G then s else s.modGang W.gang fun G => { G with res := [], conv := [] }
      | none => s)

/-! ### Completion (R37, R38, R44) -/

/-- A record put in its place by identifier and push count. -/
def insertRec (x : EbbRec) : List EbbRec → List EbbRec
  | [] => [x]
  | y :: ys => if y.wid.toNat < x.wid.toNat || (y.wid = x.wid && y.count ≤ x.count) then y :: insertRec x ys else x :: y :: ys

/-- A frame sealed (R44): its records in order; a `.needs` mark without its record is discarded (R207). -/
def Frame.seal (f : Frame) : Frame := { f with
  recs := f.recs.foldl (fun a x => insertRec x a) [], sealed := true
  marks := f.marks.filter fun m => match m with
    | .needs _ _ wid n => f.recs.any fun r => r.wid = wid && r.count = n
    | .recomp .. => true }

/-- The frames of a queue after a launch's has been sealed; that of a launch of the unwinder which holds nothing takes no place
(R314; DEDUCED: log 58). -/
def sealFrame (frames : Table Frame) (L : Launch) : Table Frame :=
  let t := tmod frames L.seq Frame.seal
  match tget? t L.seq with
  | some f => if L.unwound && f.recs.isEmpty && f.marks.isEmpty then tdel t L.seq else t
  | none => t

/-- An unwind asked of a queue: it starts, or waits for its turn (R46, R350). -/
def State.askUnwind (s : State) (qid : Nat) (u : Unwind) : State :=
  s.modQueue qid fun q => if q.unwind.isNone then { q with unwind := some u } else { q with wanted := q.wanted ++ [u] }

/-- Launches of a queue that have completed. -/
def launchDone (s : State) (qid seq : Nat) : Bool :=
  match tget? s.launches (launchKey qid seq) with | some L => L.state == .complete | none => true

/-- The walker of a graph launch. -/
def walkerOf (s : State) (k : Nat) : Option (Nat × Walker) := tfind? s.walkers fun _ w => w.launch = k

/-- Whether a launch has nothing left to do before it completes (R37, R38, R42). -/
def completeReady (s : State) (k : Nat) (L : Launch) : Bool :=
  if L.state == .complete then false
  else if L.reject ≠ 0 then L.wgs.all fun id => !wgLive s id
  else if L.graph then (match walkerOf s k with
    | some (_, w) => L.state == .walking && w.ended && w.pending = 0 && w.subs.all (launchDone s L.queue)
    | none => false)
  else if L.state != .eligible then false
  else if wgTotal L = 0 then true
  else L.header.isSome && L.nextWg = wgTotal L && L.wgs.all fun id => !wgLive s id

/-- Whether a completing launch increments its pin (R37, R38). -/
def pinCounts (s : State) (q : Queue) (L : Launch) : Bool :=
  pinValid L.pin.toNat && (L.reject = 0 || (!pinReserved L.pin.toNat && pinOk s q.det (L.pin.toNat % 2 ^ 14)))

/-- The completion itself, after its release: frame sealed, rejection record, pin, unwind. -/
def State.finishLaunch (s : State) (k : Nat) (q : Queue) (L : Launch) : State :=
  let s := s.modQueue L.queue fun q => { q with frames := sealFrame q.frames L }
  let s := if L.reject ≠ 0 then s.logReject L.queue L.seq L.reject else if L.ended then s.logReject L.queue L.seq 20 else s
  let s := { (s.modLaunch k fun L => { L with state := .complete }) with walkers := tfilter s.walkers fun _ w => w.launch ≠ k }
  let s := if pinCounts s q L then s.addPin q.det L.ctx (L.pin.toNat % 2 ^ 14) L.pininc else s
  if L.reject = 0 && (bitOf L.flags 2 || L.unwind) then s.askUnwind L.queue { ref := L.seq } else s

/-- `launch complete` (R37, R38): once the words it targeted are flushed and its release is over. -/
def execLaunchComplete (queue seq : Nat) (s : State) : Res :=
  let k := launchKey queue seq
  match tget? s.launches k, tget? s.queues queue with
  | some L, some q =>
    if !completeReady s k L then .next s else
    match s.flushWords L none L.targeted with
    | (s, some (f, va)) => .next (if f = 0 then s.absorb L.ctx [va.toNat] else s)
    | (s, none) =>
      let (s, passed) := s.launchRelease k L
      .next (if passed then s.finishLaunch k q L else s)
  | _, _ => .next s

end Sys2Proof.Machine
end

