-- ==== Sys2Proof/Machine/Graph.lean ====
section
/-! DEFINITION. Graph walkers (R41 to R43, R349) and the ebb unwinder (R46, R350, R352). -/

namespace Sys2Proof.Machine

/-! ### Walkers -/

/-- `graph walker start` (R349): an eligible graph launch takes one of its partition's 64 walkers. -/
def execGraphWalkerStart (queue seq : Nat) (s : State) : Res :=
  let k := launchKey queue seq
  match tget? s.launches k with
  | none => .next s
  | some L =>
    let part := match tget? s.ctxs L.ctx with | some c => c.part | none => 0
    let busy := (s.walkers.filter fun (_, w) => w.part = part && !w.ended).length
    if !L.graph || L.state != .eligible || L.reject ≠ 0 || 64 ≤ busy then .next s else
    let (id, s) := s.newId
    let s := { s with walkers := tput s.walkers id { launch := k, part, node := L.target } }
    .next (s.modLaunch k fun L => { L with state := .walking })

/-- The bytes of a node's body that its kind leaves reserved: offset and length. -/
def nodeUnused (kind : Nat) : List (Nat × Nat) :=
  match kind with
  | 1 => [(0x20, 32)]
  | 2 => [(0x38, 8)]
  | 3 => [(0x28, 24)]
  | 4 => [(0x30, 16)]
  | 6 => [(0x1C, 4), (0x30, 16)]
  | 7 => [(0x20, 32)]
  | _ => [(0x18, 40)]

/-- Whether a pin field of a node is malformed: reserved bits, or a valid pin outside the partition (R42). -/
def nodePinBad (s : State) (det valid : Bool) (x : Nat) : Bool := pinReserved x || (valid && !pinOk s det (x % 2 ^ 14))

/-- Whether a node is malformed (R42), but for what only reading its predicate or its `tcommit` shows. -/
def nodeBad (s : State) (det : Bool) (r : List Byte) : Bool :=
  let kind := leAt r 0 1
  let nflags := leAt r 1 1
  7 < kind || 1 < nflags || leAt r 2 2 ≠ 0 || leAt r 0xC 4 ≠ 0 ||
  (nodeUnused kind).any (fun (o, n) => leAt r o n ≠ 0) ||
  nodePinBad s det (bitOf nflags 0) (leAt r 8 4 % 2 ^ 31) ||
  (match kind with
   | 2 => nodePinBad s det (pinValid (leAt r 0x30 4)) (leAt r 0x30 4)
   | 3 | 4 => leAt r 0x18 8 % 4 ≠ 0
   | 6 => leAt r 0x18 4 % 64 ≠ 0 || (compFault s det (BitVec.ofNat 64 (leAt r 0x28 8))).isSome
   | 7 => nodePinBad s det (pinValid (leAt r 0x18 4)) (leAt r 0x18 4)
   | _ => false)

/-- A walker stopped by its node: the record of source 4, whose delivery frees the walker; the launch never completes (R42, R349,
R361). -/
def State.stopWalker (s : State) (id : Nat) (w : Walker) (L : Launch) (code : Byte) : State :=
  let bytes := faultBytes code 4 0 0 w.node w.node L.seq 0 L.queue 0 0 0 0 0
  { (s.modCtx L.ctx fun c => { c with faults := c.faults ++ [{ bytes, code, wave := none, walker := some id }] }) with
    walkers := tput s.walkers id { w with broken := true } }

/-- A walker at a node. -/
structure AtNode where
  id : Nat
  w  : Walker
  L  : Launch
  q  : Queue
  r  : List Byte

/-- The VA of the node that follows. -/
def AtNode.next (x : AtNode) : DWord := BitVec.ofNat 64 (leAt x.r 0x10 8)
/-- Iterations begun of the loop node that a walker stands at. -/
def AtNode.iterations (x : AtNode) : Nat := match x.w.stack with | (v, i) :: _ => if v = x.w.node then i else 0 | [] => 0
/-- Whether the node's gate is open (R42). -/
def AtNode.gateOpen (x : AtNode) (s : State) : Bool :=
  if !bitOf (leAt x.r 1 1) 0 then true else
  let step := if leAt x.r 0 1 = 4 then x.iterations * leAt x.r 0x2C 4 else 0
  pinReached s x.q.det x.L.ctx (leAt x.r 8 4 % 2 ^ 14) (BitVec.ofNat 32 (leAt x.r 4 4 + step))
/-- The walker changed. -/
def AtNode.put (x : AtNode) (s : State) (w : Walker) : State := { s with walkers := tput s.walkers x.id w }
/-- The walker set at another node. -/
def AtNode.goto (x : AtNode) (s : State) (node : DWord) : Res := .next (x.put s { x.w with node })
/-- The walker stopped. -/
def AtNode.stop (x : AtNode) (s : State) (code : Byte) : Res := .next (s.stopWalker x.id x.w x.L code)

/-- A walker's node of a kind carried out: read, checked, and behind its gate; a walker whose launch the queue has not taken yet
waits (R340, R349). R42 does not say when a malformed node is found: all but its predicate and its `tcommit` are checked before its
gate (DESIGN CHOICE: log entry 65); data that cannot be corrected stops the walker with 0x40 (R15). -/
def withNode (id kind : Nat) (s : State) (k : AtNode → Res) : Res :=
  match tget? s.walkers id with
  | none => .next s
  | some w =>
    match tget? s.launches w.launch with
    | none => .next s
    | some L =>
      match tget? s.queues L.queue with
      | none => .next s
      | some q =>
        if w.ended || w.unwind || w.broken || w.pending ≠ 0 then .next s
        else if w.node.toNat % 64 ≠ 0 then .next (s.stopWalker id w L 0x71)
        else match s.readCtx L.ctx w.node.toNat 64 with
          | .error (0, a) => .next (s.absorb L.ctx [a.toNat])
          | .error (0x40, _) => .next (s.stopWalker id w L 0x40)
          | .error _ => .next (s.stopWalker id w L 0x71)
          | .ok r =>
            let x : AtNode := ⟨id, w, L, q, r⟩
            if nodeBad s q.det r then x.stop s 0x71
            else if leAt r 0 1 ≠ kind then .next s
            else if !x.gateOpen s then .next (s.absorbPins q.det L.ctx [leAt r 8 4 % 2 ^ 14])
            else k x

/-- `graph node: end` (R42). -/
def execGraphNodeEnd (walker : Nat) (s : State) : Res :=
  withNode walker 0 s fun x => .next (x.put s { x.w with ended := true })

/-- `graph node: kernel` (R42): the record goes to the graph's queue, and the walker waits until the queue takes it. -/
def execGraphNodeKernel (walker : Nat) (s : State) : Res :=
  withNode walker 1 s fun x =>
    let o : Offer := ⟨BitVec.ofNat 64 (leAt x.r 0x18 8), .walker walker, none, []⟩
    let s := s.modQueue x.L.queue fun q => { q with offers := q.offers ++ [o] }
    .next (x.put s { x.w with node := x.next, pending := 1 })

/-- The tensor of a flat copy: only its base counts. -/
def flatTensor (base : DWord) : Tensor := { base, rank := 1, ew := 2, dims := [], strs := [], box := [] }

/-- `graph node: copy` (R42): a shuttle copy starts; one of no bytes is complete at once. -/
def execGraphNodeCopy (walker : Nat) (s : State) : Res :=
  withNode walker 2 s fun x =>
    let len := leAt x.r 0x28 8
    let pin := leAt x.r 0x30 4
    let inc := BitVec.ofNat 32 (leAt x.r 0x34 4)
    if len = 0 then
      x.goto (if pinValid pin then s.addPin x.q.det x.L.ctx (pin % 2 ^ 14) inc else s) x.next
    else
      let (op, s) := s.newId
      let o : ShuttleOp :=
        { kind := .flat, wave := none, pc := x.w.node, ctx := x.L.ctx, queue := x.L.queue, seq := x.L.seq, det := x.q.det,
          tensor := flatTensor (BitVec.ofNat 64 (leAt x.r 0x20 8)), dense := BitVec.ofNat 64 (leAt x.r 0x18 8), len,
          comp := BitVec.ofNat 64 pin, inc }
      x.goto { s with shuttles := tput s.shuttles op o } x.next

/-- The predicate word of a condition or loop node, whose fault is malformed (R42), but for data that cannot be corrected (R15). -/
def withPredicate (x : AtNode) (s : State) (k : Nat → Res) : Res :=
  match s.readCtx x.L.ctx (leAt x.r 0x18 8) 4 with
  | .error (0, a) => .next (s.absorb x.L.ctx [a.toNat])
  | .error (0x40, _) => x.stop s 0x40
  | .error _ => x.stop s 0x71
  | .ok bs => k (leNat bs)

/-- `graph node: condition` (R42). -/
def execGraphNodeCondition (walker : Nat) (s : State) : Res :=
  withNode walker 3 s fun x => withPredicate x s fun p =>
    x.goto s (if p ≠ 0 then BitVec.ofNat 64 (leAt x.r 0x20 8) else x.next)

/-- `graph node: loop` (R43): pushed when it is not on top of the stack, then tested. -/
def execGraphNodeLoop (walker : Nat) (s : State) : Res :=
  withNode walker 4 s fun x =>
    let onTop := match x.w.stack with | (v, _) :: _ => v = x.w.node | [] => false
    if !onTop && 8 ≤ x.w.stack.length then x.stop s 0x71 else
    withPredicate x s fun p =>
      let below := if onTop then x.w.stack.drop 1 else x.w.stack
      let i := x.iterations
      if i < leAt x.r 0x28 4 && p ≠ 0 then
        .next (x.put s { x.w with stack := (x.w.node, i + 1) :: below, node := BitVec.ofNat 64 (leAt x.r 0x20 8) })
      else .next (x.put s { x.w with stack := below, node := x.next })

/-- `graph node: pin-wait` (R42). -/
def execGraphNodePinWait (walker : Nat) (s : State) : Res := withNode walker 5 s fun x => x.goto s x.next

/-- `graph node: tide-commit` (R42, R283). -/
def execGraphNodeTideCommit (walker : Nat) (s : State) : Res :=
  withNode walker 6 s fun x =>
    let gid := BitVec.ofNat 32 (leAt x.r 0x18 4)
    let va := BitVec.ofNat 64 (leAt x.r 0x20 8)
    let comp := BitVec.ofNat 64 (leAt x.r 0x28 8)
    match commitFault s x.L.ctx x.q.det gid va comp with
    | some (f, _) => x.stop s f
    | none => x.goto (s.commitTide x.L.ctx gid ⟨va, comp, x.q.det, x.w.node, x.L.queue, x.L.seq, 0, 0⟩) x.next

/-- `graph node: ebb-unwind` (R42, R46): an unwind is asked for from the highest of the launches that the walker has
submitted, or from the graph's own; the walker waits for its last record. -/
def execGraphNodeEbbUnwind (walker : Nat) (s : State) : Res :=
  withNode walker 7 s fun x =>
    let u : Unwind :=
      { ref := x.w.lastSeq.getD x.L.seq, walker := some walker, pin := BitVec.ofNat 32 (leAt x.r 0x18 4)
        pininc := BitVec.ofNat 32 (leAt x.r 0x1C 4) }
    .next (x.put (s.askUnwind x.L.queue u) { x.w with node := x.next, unwind := true })

/-! ### The unwinder -/

/-- A state with a queue's running unwind changed. -/
def State.putUnwind (s : State) (qid : Nat) (u : Unwind) : State := s.modQueue qid fun q => { q with unwind := some u }

/-- Whether records of the unwinder wait to be accepted. -/
def unwinderOffers (q : Queue) : Bool := q.offers.any fun o => o.src == .unwinder

/-- Whether every launch that the unwind waits for has completed (R46). -/
def unwindStarts (s : State) (qid : Nat) (u : Unwind) : Bool :=
  s.launches.all fun (_, L) => L.queue ≠ qid || u.ref < L.seq || L.graph || L.state == .complete

/-- Whether an unwind has submitted its last record. -/
def lastSubmitted (q : Queue) (u : Unwind) : Bool :=
  u.started && u.left.isEmpty && !unwinderOffers q &&
  q.frames.all fun (k, f) => u.ref < k || some k = u.frame || f.recs.isEmpty

/-- The walker of an unwind that has submitted its last record goes on (R42). -/
def State.releaseWalker (s : State) (qid : Nat) : State :=
  match tget? s.queues qid with
  | none => s
  | some q =>
    match q.unwind with
    | none => s
    | some u =>
      match u.walker with
      | none => s
      | some w =>
        if !lastSubmitted q u then s else
        { (s.putUnwind qid { u with walker := none }) with walkers := tmod s.walkers w fun x => { x with unwind := false } }

/-- The ranges of a context that a record's marks name: base and record (R207, R350). -/
def markedRanges (c : Context) (ms : List EbbMark) (r : EbbRec) : List (Nat × RangeRec) :=
  c.ranges.filter fun (b, x) => ms.any fun m => match m with
    | .needs base n wid count => wid = r.wid && count = r.count && b < base + n && base < b + x.len
    | .recomp .. => false

/-- The next record of the frame submitted, once its marked ranges are settled (R352). -/
def State.submitRecord (s : State) (qid : Nat) (q : Queue) (u : Unwind) (r : EbbRec) (rest : List EbbRec) : State :=
  let rs : List (Nat × RangeRec) := match tget? s.ctxs q.ctx with | some c => markedRanges c u.marks r | none => []
  let s := rs.foldl (fun s (b, _) => s.startReturn q.ctx b (some qid)) s
  if rs.any fun (_, x) => x.graph != 0 then s else
  let returns := (rs.filter fun (_, x) => x.state != .outward).map (·.1)
  let o : Offer := ⟨0, .unwinder, some r.data, returns⟩
  s.modQueue qid fun q => { q with offers := q.offers ++ [o], unwind := some { u with left := rest } }

/-- The end of an unwind: its pin, and the next one asked for (R42, R350). -/
def State.endUnwind (s : State) (qid : Nat) (q : Queue) (u : Unwind) : State :=
  let s := if pinValid u.pin.toNat then s.addPin q.det q.ctx (u.pin.toNat % 2 ^ 14) u.pininc else s
  s.modQueue qid fun q => { q with unwind := q.wanted.head?, wanted := q.wanted.drop 1 }

/-- One thing that the unwinder does next. -/
def State.unwindStep (s : State) (qid : Nat) (q : Queue) (u : Unwind) : State :=
  if !u.started then (if unwindStarts s qid u then s.putUnwind qid { u with started := true } else s) else
  match u.frame with
  | none =>
    match (q.frames.filter fun (k, _) => k ≤ u.ref).getLast? with
    | some (k, f) => s.putUnwind qid { u with frame := some k, left := f.recs, marks := f.marks, wait := [] }
    | none => s.endUnwind qid q u
  | some k =>
    match u.left with
    | r :: rest => s.submitRecord qid q u r rest
    | [] =>
      if unwinderOffers q || !u.wait.all (launchDone s qid) then s else
      s.modQueue qid fun q => { q with frames := tdel q.frames k, unwind := some { u with frame := none, wait := [], marks := [] } }

/-- `unwind frame` (R46, R350): the running unwind starts, takes the next lower frame, submits a record, removes a frame or
ends; a walker whose unwind has submitted its last record goes on first. -/
def execUnwindFrame (queue : Nat) (s : State) : Res :=
  let s := s.releaseWalker queue
  match tget? s.queues queue with
  | none => .next s
  | some q =>
    match q.unwind with
    | none => .next s
    | some u => .next (s.unwindStep queue q u)

end Sys2Proof.Machine
end

