-- ==== Sys2Proof/Machine/Int.lean ====
section
/-! DEFINITION. The integer instructions (R152 to R158), one meaning each over the shared operand forms. -/

namespace Sys2Proof.Machine

/-- An element read in its type: signed or unsigned (R153). -/
def readInt (ty : AluTy) (x : Nat) : Int := if ty.signed then sext ty.elemWidth x else x
/-- The bounds of an element type (R153). -/
def intLo (ty : AluTy) : Int := if ty.signed then -(2 ^ (ty.elemWidth - 1)) else 0
/-- The upper bound. -/
def intHi (ty : AluTy) : Int := if ty.signed then 2 ^ (ty.elemWidth - 1) - 1 else 2 ^ ty.elemWidth - 1
/-- An exact result reduced to the element: saturated or modulo 2^w (R153). -/
def narrow (ty : AluTy) (sat : Bool) (x : Int) : Nat :=
  ofInt ty.elemWidth (if sat then min (intHi ty) (max (intLo ty) x) else x)

/-- A two-operand integer operation per element. -/
def int2 (o : Alu) (f : Int → Int → Nat) (s : State) : Res :=
  aluElem o true false (fun a b _ => (f (readInt o.ty a) (readInt o.ty b), 0)) s
/-- A one-operand integer operation per element. -/
def int1 (o : Alu) (f : Nat → Nat) (s : State) : Res := aluElem o false false (fun a _ _ => (f a, 0)) s

/-- `iadd` (R153). -/
def execIadd (o : Alu) (sat : Bool) (s : State) : Res := int2 o (fun a b => narrow o.ty sat (a + b)) s
/-- `isub` (R153). -/
def execIsub (o : Alu) (sat : Bool) (s : State) : Res := int2 o (fun a b => narrow o.ty sat (a - b)) s
/-- `imul`: the low w bits of the product (R153). -/
def execImul (o : Alu) (s : State) : Res := int2 o (fun a b => narrow o.ty false (a * b)) s
/-- `imulhi`: the high w bits of the 2w-bit product (R153). -/
def execImulhi (o : Alu) (s : State) : Res :=
  int2 o (fun a b => narrow o.ty false ((a * b) / (2 ^ o.ty.elemWidth : Int))) s
/-- `imad` (R153). -/
def execImad (o : Alu) (sat : Bool) (s : State) : Res :=
  aluElem o true true (fun a b c => (narrow o.ty sat (readInt o.ty a * readInt o.ty b + readInt o.ty c), 0)) s
/-- `imin` (R153). -/
def execImin (o : Alu) (s : State) : Res := int2 o (fun a b => narrow o.ty false (if a ≤ b then a else b)) s
/-- `imax` (R153). -/
def execImax (o : Alu) (s : State) : Res := int2 o (fun a b => narrow o.ty false (if a ≥ b then a else b)) s
/-- `iabs`: without SAT the most negative value is its own result (R153). -/
def execIabs (o : Alu) (sat : Bool) (s : State) : Res :=
  int1 o (fun a => narrow o.ty sat (readInt o.ty a).natAbs) s
/-- `and` (R152). -/
def execAnd (o : Alu) (s : State) : Res := aluElem o true false (fun a b _ => (a &&& b, 0)) s
/-- `or` (R152). -/
def execOr (o : Alu) (s : State) : Res := aluElem o true false (fun a b _ => (a ||| b, 0)) s
/-- `xor` (R152). -/
def execXor (o : Alu) (s : State) : Res := aluElem o true false (fun a b _ => (a ^^^ b, 0)) s
/-- `andn`: a & ~b (R152). -/
def execAndn (o : Alu) (s : State) : Res :=
  aluElem o true false (fun a b _ => (a &&& (2 ^ o.ty.elemWidth - 1 - b), 0)) s

/-- The widths of the operations whose B is one 32-bit register even for 64-bit types (R154). -/
def countWidths (ty : AluTy) (c : Bool) : Widths :=
  ⟨some ty.is64, some ty.is64, some false, if c then some ty.is64 else none⟩

/-- A shift or rotate: the count is 32 bits, or the element of b for packed types (R154). `readB` gives a 32-bit
operand where the form's B is not wide. -/
def shiftOp (o : Alu) (f : Nat → Nat → Nat → Nat) (s : State) : Res :=
  let w := o.ty.elemWidth
  let op (a b : Nat) : Nat × Word :=
    if o.ty.elemCount = 1 then (f w a b, 0)
    else perElem o.ty (fun a b _ => (f w a b, 0)) a b 0
  aluWith o o.ty (countWidths o.ty false) (fun a b _ => op a b) s

/-- Shift left of w bits by n (R154). -/
def shlNat (w a n : Nat) : Nat := if n < w then a * 2 ^ n % 2 ^ w else 0
/-- Logical shift right. -/
def shrNat (w a n : Nat) : Nat := if n < w then a / 2 ^ n else 0
/-- Arithmetic shift right. -/
def sarNat (w a n : Nat) : Nat :=
  if n < w then ofInt w (sext w a / (2 ^ n : Int)) else if bitOf a (w - 1) then 2 ^ w - 1 else 0
/-- Rotation left by n mod w. -/
def rotNat (w a n : Nat) : Nat :=
  let k := n % w
  (a * 2 ^ k + a / 2 ^ (w - k)) % 2 ^ w

/-- `shl` (R154). -/
def execShl (o : Alu) (s : State) : Res := shiftOp o shlNat s
/-- `shr` (R154). -/
def execShr (o : Alu) (s : State) : Res := shiftOp o shrNat s
/-- `sar` (R154). -/
def execSar (o : Alu) (s : State) : Res := shiftOp o sarNat s
/-- `rot` (R154). -/
def execRot (o : Alu) (s : State) : Res := shiftOp o rotNat s

/-- The field that b describes in w bits: offset and length, none where the offset is beyond or the length 0 (R154). -/
def fieldOf (w b : Nat) : Option (Nat × Nat) :=
  let off := b % 256
  let len := b / 256 % 256
  if w ≤ off ∨ len = 0 then none else some (off, min len (w - off))

/-- `bfe` (R154). -/
def execBfe (o : Alu) (s : State) : Res :=
  let w := o.ty.elemWidth
  aluWith o o.ty (countWidths o.ty false) (fun a b _ =>
    match fieldOf w b with
    | none => (0, 0)
    | some (off, len) =>
      let x := bitsOf a (off + len - 1) off
      (if o.ty.signed then ofInt w (sext len x) else x, 0)) s

/-- `bfi` (R154). -/
def execBfi (o : Alu) (s : State) : Res :=
  let w := o.ty.elemWidth
  aluWith o o.ty (countWidths o.ty true) (fun a b c =>
    match fieldOf w b with
    | none => (c, 0)
    | some (off, len) =>
      (c - bitsOf c (off + len - 1) off * 2 ^ off + (a % 2 ^ len) * 2 ^ off, 0)) s

/-- The number of bits set among the low w (R155). -/
def popcNat (w a : Nat) : Nat := ((List.range w).filter (bitOf a)).length
/-- The number of zero bits above the highest set bit (R155). -/
def clzNat (w a : Nat) : Nat := if a = 0 then w else w - 1 - Nat.log2 a
/-- The number of zero bits below the lowest set bit (R155). -/
def ctzNat (w a : Nat) : Nat := ((List.range w).find? (bitOf a)).getD w
/-- The bits in reverse order (R155). -/
def brevNat (w a : Nat) : Nat := (List.range w).foldl (fun r i => r * 2 + (if bitOf a i then 1 else 0)) 0

/-- `popc` (R155). -/
def execPopc (o : Alu) (s : State) : Res := int1 o (popcNat o.ty.elemWidth) s
/-- `clz` (R155). -/
def execClz (o : Alu) (s : State) : Res := int1 o (clzNat o.ty.elemWidth) s
/-- `ctz` (R155). -/
def execCtz (o : Alu) (s : State) : Res := int1 o (ctzNat o.ty.elemWidth) s
/-- `brev` (R155). -/
def execBrev (o : Alu) (s : State) : Res := int1 o (brevNat o.ty.elemWidth) s

/-- The bytes that `perm`'s selector nibbles pick (R156). -/
def permNat (a b c : Nat) : Nat :=
  (List.range 4).foldr (fun j acc =>
    let sel := bitsOf c (4 * j + 3) (4 * j)
    (if 8 ≤ sel then 0 else (b * 2 ^ 32 + a) / 2 ^ (8 * sel) % 256) + 256 * acc) 0

/-- `perm` (R156). -/
def execPerm (o : Alu) (s : State) : Res := aluElem o true true (fun a b c => (permNat a b c, 0)) s

/-- `sel`: bit l of `pC` chooses (R157). -/
def execSel (o : Alu) (s : State) : Res :=
  issue o.g s fun e =>
    let wide := o.ty.is64
    if !e.regsOk o (tyWidths o.ty true false) then illegalIssue e s 0x01 else
    let w := (lanesOf e.enabled).foldl (fun w l =>
      writeD w o.ty false wide o.d.toNat l
        (if (e.w.preg o.c.toNat).getLsbD l then readReg e.w false wide o.a.toNat l
         else readB e.w o.ty wide o.b l)) e.w
    done e (s.modWave e.id fun _ => w)

/-- A condition on two integers (R158). -/
def condInt (cc : Cond) (a b : Int) : Bool :=
  match cc with
  | .eq => a == b | .ne => a != b | .lt => a < b | .le => a ≤ b | .gt => a > b | .ge => a ≥ b

/-- `icmp` (R158). -/
def execIcmp (o : Alu) (cc : Cond) (cmb : Combine) (s : State) : Res :=
  aluCmp o cmb (fun a b => (condInt cc (readInt o.ty a) (readInt o.ty b), 0)) s

/-- `pset` (R158). -/
def execPset (g : Guard) (d : BitVec 8) (op : PsetOp) (s : State) : Res :=
  issue g s fun e =>
    let p (n : BitVec 8) := e.w.preg n.toNat
    let ok := match op with | .nz a => e.vTy false a.toNat | _ => true
    if !ok then illegalIssue e s 0x01 else
    let bits : LaneMask := match op with
      | .and a b => p a &&& p b | .or a b => p a ||| p b | .xor a b => p a ^^^ p b | .andn a b => p a &&& ~~~(p b)
      | .not a => ~~~(p a)
      | .imm w => w
      | .nz a => maskOf fun l => e.w.vreg a.toNat l != 0
    done e (s.modWave e.id fun w => w.setP d.toNat e.enabled bits)

/-- `mov`, FN 0: b bit for bit (R157). -/
def execMov (o : Alu) (s : State) : Res :=
  aluWith o o.ty ⟨some o.ty.is64, none, some o.ty.is64, none⟩ (fun _ b _ => (b, 0)) s

/-- `mov`, FN 1: an `f` register written once (R52, R157). -/
def execMovToFormat (g : Guard) (d : BitVec 8) (b : SrcB) (s : State) : Res :=
  issue g s fun e =>
    if e.enabled = 0 then done e s else
    done e (s.modWave e.id fun w => w.setF d.toNat (BitVec.ofNat 32 (readB e.w .n32 false b 0)))

/-- `mov`, FN 2: an `f` register read into an `s` register once (R157). -/
def execMovFromFormat (g : Guard) (d : BitVec 8) (b : BitVec 8) (s : State) : Res :=
  issue g s fun e =>
    if e.enabled = 0 then done e s else
    done e (s.modWave e.id fun w => w.setS d.toNat ((e.w.freg b.toNat).setWidth 64))

/-- `movi`: bits [63:32] written, bits [31:0] kept; in vector form only `v`D+1 (R157). -/
def execMovi (g : Guard) (sc : Bool) (_ty : AluTy) (d : BitVec 8) (x : Word) (s : State) : Res :=
  issue g s fun e =>
    if sc then
      if e.enabled = 0 then done e s else
      done e (s.modWave e.id fun w => w.setS d.toNat (x ++ (w.sreg d.toNat).setWidth 32))
    else if !e.vTy true d.toNat then illegalIssue e s 0x01
    else done e (s.modWave e.id fun w => (lanesOf e.enabled).foldl (fun w l => w.setV (d.toNat + 1) l x) w)

/-- `lea`: sA plus the sign-extended b shifted (R157); A is an `s` register in both forms. -/
def execLea (o : Alu) (shift : BitVec 2) (s : State) : Res :=
  issue o.g s fun e =>
    if !e.regsOk o ⟨some true, none, some false, none⟩ then illegalIssue e s 0x01 else
    let w := (e.passes o.sc).foldl (fun w l =>
      let b : Word := BitVec.ofNat 32 (readB e.w o.ty false o.b l)
      writeD w o.ty o.sc true o.d.toNat l (e.w.sreg o.a.toNat + (b.signExtend 64 <<< shift.toNat)).toNat) e.w
    done e (s.modWave e.id fun _ => w)

end Sys2Proof.Machine
end

