-- ==== Sys2Proof/Machine/HoopRun.lean ====
section
/-! DEFINITION. The hoop engine (R70, R228, R229, R231, R233 to R236): operand fetch, skein decoding, k-steps, loads and
stores of tiles, turns between queues, completion, pauses and discards. -/

namespace Sys2Proof.Machine

/-! ### Operand fetch -/

/-- `w` bits from a bit of a range whose bytes a function gives. -/
def rangeBits (rd : Nat → Nat) (bit w : Nat) : Nat :=
  ((List.range (spanBytes (bit % 8) w)).foldr (fun i acc => rd (bit / 8 + i) + 256 * acc) 0) / 2 ^ (bit % 8) % 2 ^ w
/-- `n` bytes from a byte of a range, as a number. -/
def rangeNat (rd : Nat → Nat) (off n : Nat) : Nat := rangeBits rd (8 * off) (8 * n)

/-- The value of a pattern of a 16-bit format; a NaN as FP32 holds it. -/
def widen16 (f : FFmt) (x : Nat) : FV := match f.value x with | .nan y => .nan (f.moveNaN fmt32 y) | v => v

/-- The value of an element's bits (R62, R233): a NaN is in the format of the accumulator. -/
def Reservation.decode (r : Reservation) (x : Nat) : FV :=
  match r.elt with
  | 1 => fmt64.value x
  | 2 => fmt32.value x
  | 3 => widen16 fmt16 x
  | 4 => widen16 fmtB16 x
  | _ => (NFmt.ofWord r.fmt).decode x

/-- The scale of element k of row or column `i` (R65, R228). -/
def operandScale (r : Reservation) (rd : Nat → Nat) (w : DWord) (isA : Bool) (kTotal i k : Nat) : FV :=
  let at' := 4 * r.scoff + opSo w
  match r.sk with
  | 0 => scaleVal 0 0
  | 3 => scaleVal 3 (rangeNat rd at' 4)
  | sk => scaleVal sk (rangeNat rd (if isA then at' + i * (kTotal / r.bl) + k / r.bl else at' + 32 * (k / r.bl) + i) 1)

/-- Element (i, k) of A (R228). -/
def aElem (r : Reservation) (rd : Nat → Nat) (w : DWord) (i k : Nat) : Nat :=
  rangeBits rd (8 * (opOff w + 4 * opStride w * i) + k * ewBits r.ew) (ewBits r.ew)
/-- Element (k, j) of B in the `.buf` layout with `g` elements in granules of `G` bytes (R228). -/
def bElem (rd : Nat → Nat) (off stride g G bits k j : Nat) : Nat :=
  rangeBits rd (8 * (off + 4 * stride * (k / g) + G * j) + k % g * bits) bits

/-- Where the stream's groups of a sparse operand stand: `n` positions in order from a byte (R231). -/
def spScan (rd : Nat → Nat) (bits pos : Nat) : Nat → List Nat
  | 0 => []
  | n + 1 => pos :: spScan rd bits (pos + 4 + (popcNat 32 (rangeNat rd pos 4) * bits + 31) / 32 * 4) n

/-- B's element (k, j) and whether the stream that holds it reads beyond its range (R231): `ps` are the positions of a
sparse stream's groups. -/
def skeinElem (src : HoopSrc) (r : Reservation) (rd : Nat → Nat) (w : DWord) (ps : List Nat) (k j : Nat) : FV × Bool :=
  let bits := ewBits r.ew
  match src with
  | .buf => (r.decode (bElem rd (opOff w) (opStride w) (granElems r.ew) (granBytes r.ew) bits k j), false)
  | .sp =>
    let pos := ps.getD (k / 32 * 32 + j) 0
    let mask := rangeNat rd pos 4
    let past := decide (r.bytes < pos + 4) || decide (r.bytes < pos + 4 + (popcNat 32 mask * bits + 31) / 32 * 4)
    (if bitOf mask (k % 32) then r.decode (rangeBits rd (8 * (pos + 4) + popcNat (k % 32) mask * bits) bits)
     else .fin false 0 0, past)
  | .cb =>
    let off := opOff w + 16
    let i := bElem rd off (opStride w) 8 4 4 k j
    (r.decode (rangeNat rd (opOff w + i) 1),
      decide (r.bytes < off) || decide (r.bytes < off + 4 * opStride w * (k / 8) + 4 * j + 4))

/-- acc + S rounded once, under the rules of R70 for NaNs and infinities; the factors' NaNs are in the format. -/
def stepSum (f : FFmt) (acc : Nat) (ps : List (FV × FV)) : Nat :=
  let nans := (ps.flatMap fun (a, b) => [a, b]).filterMap fun v => match v with | .nan x => some x | _ => none
  if f.isNaN acc || !nans.isEmpty then f.nanrule (acc :: nans)
  else match ps.foldr (fun (a, b) r => r.bind fun vs => (a.mul b).map (· :: vs)) (some []) with
    | none => f.genNaN
    | some vs => (f.sum .rne [] (f.value acc :: vs)).1

/-- What a k-step works with: the operands' reservations and bytes. -/
structure MmaCtx where
  src : HoopSrc
  d   : Nat
  aw  : DWord
  bw  : DWord
  k   : Nat
  ra  : Reservation
  rb  : Reservation
  ard : Nat → Nat
  brd : Nat → Nat

/-- The k-step width of an operation. -/
def MmaCtx.step (x : MmaCtx) : Nat := (kappa x.ra x.rb).getD 1

/-- B's element (k, j) under its scale. -/
def MmaCtx.b (x : MmaCtx) (ps : List Nat) (k j : Nat) : FV × Bool :=
  let (v, past) := skeinElem x.src x.rb x.brd x.bw ps k j
  (scaled v (operandScale x.rb x.brd x.bw false x.k j k), past)
/-- A's element (i, k) under its scale. -/
def MmaCtx.a (x : MmaCtx) (i k : Nat) : FV :=
  scaled (x.ra.decode (aElem x.ra x.ard x.aw i k)) (operandScale x.ra x.ard x.aw true x.k i k)

/-- The accumulator after k-step `s0`, or none where a stream reads beyond its range: 32 × 32 words or pairs in row
order. -/
def MmaCtx.apply (x : MmaCtx) (acc : List Nat) (s0 : Nat) : Option (List Nat) :=
  let f := if x.ra.elt = 1 then fmt64 else fmt32
  let ks := (List.range x.step).map fun i => s0 * x.step + i
  let ps := if x.src == .sp then spScan x.brd (ewBits x.rb.ew) (opOff x.bw) (((s0 + 1) * x.step + 31) / 32 * 32) else []
  let bs := (List.range 32).map fun j => ks.map fun k => x.b ps k j
  if bs.any fun col => col.any (·.2) then none else
  let rows := (List.range 32).map fun i => ks.map fun k => x.a i k
  some ((rows.zipIdx).flatMap fun (row, i) => (bs.zipIdx).map fun (col, j) =>
    stepSum f (acc.getD (32 * i + j) 0) (row.zip (col.map (·.1))))

/-- A tile's elements in row order, or an FP64 pair's. -/
def State.readTile (s : State) (cl d : Nat) (wide : Bool) : List Nat :=
  (List.range 1024).map fun n =>
    s.natAt (tileKey cl d 0 0 + 4 * n) 4 + (if wide then 2 ^ 32 * s.natAt (tileKey cl (d + 1) 0 0 + 4 * n) 4 else 0)
/-- A tile's elements written. -/
def State.writeTile (s : State) (cl d : Nat) (wide : Bool) (xs : List Nat) : State :=
  let m := memWrite s.mem (tileKey cl d 0 0) (xs.flatMap fun x => leBytes 4 x)
  { s with mem := if wide then memWrite m (tileKey cl (d + 1) 0 0) (xs.flatMap fun x => leBytes 4 (x / 2 ^ 32)) else m }

/-! ### Who runs -/

/-- The launch and context of an entry. -/
def entryLaunch (s : State) (en : HoopEntry) : Option (Launch × Context × Bool) := do
  let G ← tget? s.gangs en.gang
  let L ← tget? s.launches G.launch
  let c ← tget? s.ctxs L.ctx
  some (L, c, match tget? s.queues L.queue with | some q => q.det | none => false)

/-- The turn key of a workgroup: cores ascend within the cluster. -/
def turnKey (id : Nat) (W : Workgroup) : Nat := W.core % 16 * 2 ^ 40 + id
/-- Whether the engine can serve a workgroup's queue. -/
def servable (cl : Nat) (W : Workgroup) : Bool :=
  W.resident && !W.retired && W.core / 16 = cl && (match W.hq with | en :: _ => en.paused.isNone | [] => false)
/-- The workgroup whose turn it is (R234): the one being served, else the next in ascending order of core. -/
def turnOf (s : State) (cl : Nat) : Option (Nat × Workgroup) :=
  let C := s.cluster cl
  let ws := s.wgs.filter fun (_, W) => servable cl W
  let least (p : Nat → Bool) : Option (Nat × Workgroup) := (ws.filter fun (id, W) => p (turnKey id W)).foldl (fun b x =>
    match b with | none => some x | some y => if turnKey x.1 x.2 < turnKey y.1 y.2 then some x else some y) none
  (if C.held then least (fun k => k = C.last) else none) <|> least (fun k => C.last < k) <|> least fun _ => true

/-- The k-steps of an entry; every other entry runs whole. -/
def entrySteps (G : Gang) (op : HoopOp) : Nat :=
  match op with
  | .mma _ _ a b k _ _ =>
    match tget? G.res (opRes a), tget? G.res (opRes b) with
    | some ra, some rb => k / (kappa ra rb).getD 1
    | _, _ => 1
  | _ => 1

/-- Whether the engine may run the entry at a place of its queue: the head, or, in a chain outside deterministic mode, an
`hmma` behind `hmma` entries only (R234). -/
def mayRun (W : Workgroup) (det : Bool) (i : Nat) : Bool :=
  i = 0 || (W.inChain && !det && (W.hq.take (i + 1)).all fun en => match en.op with | .mma .. => true | _ => false)

/-- An entry of a queue changed, or taken out. -/
def State.setEntry (s : State) (wg i : Nat) (en : Option HoopEntry) : State :=
  s.modWg wg fun W => { W with hq := match en with | some en => W.hq.set i en | none => W.hq.eraseIdx i }

/-! ### Faults of running entries (R231, R234, R236) -/

/-- A completed or discarded operation in a wave's tl counter: counts fall in issue order (R131). -/
def State.dropSign (s : State) (wave issueId : Nat) : State :=
  if (tget? s.waves wave).isNone then s else
  s.modWave wave fun w =>
    let signs := (w.signs.map fun x => if x.1 = issueId then (x.1, x.2 - 1) else x).dropWhile fun x => x.2 = 0
    { w with signs, tlCnt := BitVec.ofNat 6 signs.length }

/-- The signers of an operation. -/
def HoopOp.signers : HoopOp → List (Nat × Nat × LaneMask)
  | .mma _ _ _ _ _ _ ss => ss
  | _ => []

/-- The tl counts of an operation's signers fall. -/
def State.dropSigners (s : State) (op : HoopOp) : State := op.signers.foldl (fun s (w, i, _) => s.dropSign w i) s

/-- An entry discarded: its fault is a held report of every lane that signed, or of the issuing lane. -/
def State.discardEntry (s : State) (wg i : Nat) (en : HoopEntry) (code : Byte) (addr : DWord) : State :=
  let s := s.setEntry wg i none
  let (op, s) := s.newId
  match en.op with
  | .mma _ _ _ _ _ _ ss =>
    let s := ss.foldl (fun s (w, i, m) => (lanesOf m).foldl (fun s l =>
      s.report w en.pc ⟨code, addr, l, 3, none, none, op, BitVec.ofNat 64 (en.step * 2 ^ 32), false, 2 * i⟩) s) s
    s.dropSigners en.op
  | _ => s.report en.wave en.pc ⟨code, addr, lowLane en.lanes, 4, none, none, op, 0,
      (match en.op with | .acst .. => true | _ => false), en.stamp⟩

/-- An entry paused with an engine record; the progress index of its signers is its k-step (R234, R364). -/
def State.pauseEntry (s : State) (wg i : Nat) (en : HoopEntry) (L : Launch) (code : Byte) (addr : DWord) : State :=
  let core := match tget? s.wgs (wgOf en.wave) with | some W => W.core | none => 0
  let wid : DWord := match L.header, tget? s.wgs (wgOf en.wave) with
    | some H, some W => BitVec.ofNat 64 (workId H L.counts W.index (en.wave % 32) (lowLane en.lanes))
    | _, _ => 0
  let (tok, s) := s.engineFaultP L.ctx code addr en.pc L.seq L.queue core wid false (some (.hoop wg)) (BitVec.ofNat 64 (en.step * 2 ^ 32))
  let s := s.setEntry wg i (some { en with paused := tok, wasPaused := true })
  en.op.signers.foldl (fun s (w, _, _) => if (tget? s.waves w).isSome then
    s.modWave w fun x => { x with prog := BitVec.ofNat 64 (en.step * 2 ^ 32), redo := false } else s) s

/-- The fate of a fault of a running entry. -/
def State.entryFault (s : State) (wg i : Nat) (en : HoopEntry) (L : Launch) (code : Byte) (addr : DWord) : State :=
  let pauses := match en.op with | .mma .. | .skld .. => code == 0x10 || code == 0x70 | _ => false
  if code = 0 then s.absorb L.ctx [addr.toNat] else
  let s := s.ownNotices L.ctx (match en.op with | .acst .. => true | _ => false) [(0, code, addr)]
  if pauses then s.pauseEntry wg i en L code addr else s.discardEntry wg i en code addr

/-! ### Running entries -/

/-- What the engine reads from other devices during a turn: the bytes the outside gives, then open values (log entry 3). -/
def remoteAt (s : State) (remote : List Byte) (i : Nat) : Nat :=
  ((remote[i]?).getD (BitVec.ofNat 8 (Config.freeNat (s.free + i)))).toNat

/-- The bytes of an `hmma` operand's range: of the hoop or skein buffer, of this device's own export window, or of another
device as it answers. -/
def rangeReader (s : State) (cl : Nat) (L : Launch) (remote : List Byte) (r : Reservation) (o : Nat) : Nat :=
  match r.remote with
  | some va => match engineByte s L.ctx (some L) (va + BitVec.ofNat 64 o) .read with
    | .ok (.key k) => (memGet s.mem k).toNat
    | _ => remoteAt s remote o
  | none => (memGet s.mem ((if r.kind = 1 then skeinKey cl else hoopKey cl) (256 * r.base + o))).toNat

/-- The bytes of A's range that a k-step reads, its elements' and its scales' (R228). -/
def MmaCtx.aBytes (x : MmaCtx) (s0 : Nat) : List Nat :=
  let r := x.ra
  let at' := 4 * r.scoff + opSo x.aw
  (List.range 32).flatMap fun i => (List.range x.step).flatMap fun j =>
    let k := s0 * x.step + j
    let bit := 8 * (opOff x.aw + 4 * opStride x.aw * i) + k * ewBits r.ew
    ((List.range (spanBytes (bit % 8) (ewBits r.ew))).map (bit / 8 + ·)) ++
    (match r.sk with | 0 => [] | 3 => (List.range 4).map (at' + ·) | _ => [at' + i * (x.k / r.bl) + k / r.bl])

/-- The fault of the first byte of a remote A operand that a k-step needs and cannot read (R229, R234). -/
def stepFault (s : State) (L : Launch) (x : MmaCtx) (s0 : Nat) : Option (Byte × DWord) :=
  x.ra.remote.bind fun va => (x.aBytes s0).findSome? fun o =>
    match engineByte s L.ctx (some L) (va + BitVec.ofNat 64 o) .read with
    | .error f => some f
    | .ok _ => none

/-- k-steps applied from a step: the state, the next step, and the fault that stopped them, of A's window or of B's stream. DESIGN
CHOICE: one entry's k-steps ascend inside a chain too, where the spec gives neither an order of entries nor of s (log entry 65). -/
def mmaSteps (x : MmaCtx) (cl : Nat) (fault : Nat → Option (Byte × DWord)) : State → Nat → Nat → State × Nat × Option (Byte × DWord)
  | s, st, 0 => (s, st, none)
  | s, st, n + 1 =>
    let wide := x.ra.elt = 1
    match fault st with
    | some f => (s, st, some f)
    | none =>
      match x.apply (s.readTile cl x.d wide) st with
      | none => (s, st, some (0x30, 0))
      | some acc => mmaSteps x cl fault (s.writeTile cl x.d wide acc) (st + 1) n

/-- An `hmma` entry's next k-steps (R233, R234): `err` is what another device answers at the k-step after them. -/
def runMma (s : State) (cl wg i : Nat) (en : HoopEntry) (G : Gang) (L : Launch) (steps : Nat) (remote : List Byte)
    (err : Byte) : State :=
  match en.op with
  | .mma src d a b k _ _ =>
    match tget? G.res (opRes a), tget? G.res (opRes b) with
    | some ra, some rb =>
      let x : MmaCtx := ⟨src, d, a, b, k, ra, rb, rangeReader s cl L remote ra, rangeReader s cl L [] rb⟩
      let left := entrySteps G en.op - en.step
      let far := match ra.remote with | some va => remoteDev va ≠ s.fabric.index | none => false
      let failing := far && [0x10#8, 0x11#8, 0x16#8, 0x40#8, 0x41#8, 0x70#8].contains err && steps < left
      let n := if failing then steps else min left (max 1 steps)
      let (s, st, stop) := mmaSteps x cl (stepFault s L x) s en.step n
      let s := if far then { s with free := s.free + ra.bytes } else s
      let en := { en with step := st }
      let s := s.setEntry wg i (some en)
      match stop with
      | some (f, va) => s.entryFault wg i en L f va
      | none =>
        if failing then s.entryFault wg i en L err ((ra.remote.getD 0) + BitVec.ofNat 64 ((x.aBytes st).headD 0)) else s
    | _, _ => s.entryFault wg i en L 0x30 0
  | _ => s

/-- Bytes that the engine reads from a VA of the context, this device's memory and the outside's answers. -/
def hoopRead (s : State) (L : Launch) (remote : List Byte) (va : DWord) (n : Nat) : Except (Byte × DWord) (List Byte) :=
  (List.range n).foldr (fun i acc => do
    match ← engineByte s L.ctx (some L) (va + BitVec.ofNat 64 i) .read with
    | .key k => pure (memGet s.mem k :: (← acc))
    | .remote _ => pure (BitVec.ofNat 8 (remoteAt s remote i) :: (← acc))) (.ok [])

/-- The skein bytes of an `skld` that a read error ends, old or new by R231, made open (log entry 3); a pause or a wait leaves them. -/
def State.openSkein (s : State) (key n : Nat) (code : Byte) : State :=
  if code == 0 || code == 0x10 || code == 0x70 then s else s.openRange key n

/-- An `skld` entry (R231). -/
def runSkld (s : State) (cl wg i : Nat) (en : HoopEntry) (G : Gang) (L : Launch) (remote : List Byte) (err : Byte) : State :=
  match en.op with
  | .skld dst src len =>
    match tget? G.res (opRes dst) with
    | none => s.entryFault wg i en L 0x30 0
    | some r =>
      let far := src.getLsbD 63 && remoteDev src ≠ s.fabric.index
      let key := skeinKey cl (256 * r.base + opOff dst)
      if far && [0x10#8, 0x11#8, 0x16#8, 0x40#8, 0x41#8, 0x70#8].contains err then
        (s.openSkein key len err).entryFault wg i en L err src else
      match hoopRead s L remote src len with
      | .error (f, a) => (s.openSkein key len f).entryFault wg i en L f a
      | .ok bs =>
        let s := { s with mem := memWrite s.mem key bs,
                          free := if far then s.free + len else s.free }
        s.setEntry wg i (some { en with step := 1 })
  | _ => s

/-- Bytes of one row of a tile in memory. -/
def rowBytes (ty : AluTy) (q : Bool) (fmt : Word) : Nat :=
  if q then 4 * (NFmt.ofWord fmt).cbits else match ty with | .f64 => 256 | .f16x2 | .bf16x2 => 64 | _ => 128

/-- Where row `i` of a tile move stands byte by byte: in scratch by R80, or at VAs. -/
def rowPlace (s : State) (en : HoopEntry) (L : Launch) (scr : Bool) (va : DWord) (need : Need) (j : Nat) :
    Except (Byte × DWord) EngineByte :=
  if !scr then engineByte s L.ctx (some L) (va + BitVec.ofNat 64 j) need else
  let a := va.toNat + j
  let off := a % 2 ^ 18
  let owner : Option Nat := if 2 ^ 23 ≤ a then none
    else if bitOf a 22 then (if L.c2 ≤ bitsOf a 21 18 then none else (gangPeer s en.gang (bitsOf a 21 18)).bind fun (id, W) =>
      if W.retired then none else some id)
    else some en.wg
  match owner, L.header with
  | some id, some H => if H.scratch ≤ off then .error (0x11, va) else .ok (.key (scrKey id off))
  | _, _ => .error (0x11, va)

/-- The stash lines filled that scratch bytes of a row touch (R82). -/
def fillRow (s : State) (L : Launch) (c : Context) (ps : List EngineByte) : Except (Byte × DWord) State :=
  ps.foldlM (fun s p => match p with
    | .key k => match needsFill s k with
      | some (wg, st, line) => s.fillStash L.ctx c 0 wg st line
      | none => .ok s
    | .remote _ => .ok s) s

/-- One row read: its bytes. -/
def readRow (s : State) (en : HoopEntry) (L : Launch) (c : Context) (remote : List Byte) (scr : Bool) (va : DWord) (base n : Nat) :
    Except (Byte × DWord) (List Byte × State) := do
  let ps ← (List.range n).mapM fun j => rowPlace s en L scr va .read j
  let s ← fillRow s L c ps
  let bs ← (ps.zipIdx).mapM fun (p, j) => match p with
    | .key k => (pure (memGet s.mem k) : Except (Byte × DWord) Byte)
    | .remote _ => pure (BitVec.ofNat 8 (remoteAt s remote (base + j)))
  pure (bs, s)

/-- An element that `hacld` puts into the tile (R236). -/
def loadElem (ty : AluTy) (bs : List Byte) (j : Nat) : Nat :=
  match ty with
  | .f64 => leAt bs (8 * j) 8
  | .f16x2 => (fmt16.convert fmt32 .rne (leAt bs (2 * j) 2)).1
  | .bf16x2 => (fmtB16.convert fmt32 .rne (leAt bs (2 * j) 2)).1
  | _ => leAt bs (4 * j) 4

/-- The bytes of a row that `hacst` writes (R236). -/
def storeRow (ty : AluTy) (q : Bool) (fmt : Word) (rnd : Rnd) (seed row : Nat) (xs : List Nat) : List Byte :=
  if q then
    let f := NFmt.ofWord fmt
    let es := (xs.zipIdx).map fun (x, j) => (encodeScaled f rnd (srhash seed (32 * row + j) 0) x (.fin false 1 0)).1
    leBytes (4 * f.cbits) (f.pack es)
  else match ty with
    | .f64 => xs.flatMap (leBytes 8)
    | .f16x2 => xs.flatMap fun x => leBytes 2 (fmt32.convert fmt16 rnd x).1
    | .bf16x2 => xs.flatMap fun x => leBytes 2 (fmt32.convert fmtB16 rnd x).1
    | _ => xs.flatMap (leBytes 4)

/-- The 32 rows of a tile read, as its elements in row order. -/
def readRows (s : State) (en : HoopEntry) (L : Launch) (c : Context) (remote : List Byte) (scr : Bool) (base stride : DWord)
    (ty : AluTy) : Except (Byte × DWord) (List Nat × State) :=
  let n := rowBytes ty false 0
  (List.range 32).foldlM (fun (acc : List Nat × State) r => do
    let (bs, s) ← readRow acc.2 en L c remote scr (base + stride * BitVec.ofNat 64 r) (n * r) n
    pure (acc.1 ++ (List.range 32).map (loadElem ty bs), s)) ([], s)

/-- An `hacld` entry (R236): the tile is written once every row is read. -/
def runAcld (s : State) (cl wg i : Nat) (en : HoopEntry) (L : Launch) (c : Context) (remote : List Byte) (err : Byte) : State :=
  match en.op with
  | .acld d base stride scr ty =>
    let far := !scr && rowsAway s base stride
    if far && [0x10#8, 0x11#8, 0x16#8, 0x40#8, 0x41#8, 0x70#8].contains err then s.entryFault wg i en L err base else
    match readRows s en L c remote scr base stride ty with
    | .error (f, a) => s.entryFault wg i en L f a
    | .ok (xs, s) =>
      let s := { (s.writeTile cl d ty.is64 xs) with free := if far then s.free + 32 * rowBytes ty false 0 else s.free }
      s.setEntry wg i (some { en with step := 1 })
  | _ => s

/-- The rows of an `hacst` entry written in order until one faults (R236). -/
def storeRows (en : HoopEntry) (L : Launch) (core : Nat) (scr : Bool) (base stride : DWord) :
    State → Nat → List (List Byte) → State × Option (Byte × DWord)
  | s, _, [] => (s, none)
  | s, r, bs :: rest =>
    let va := base + stride * BitVec.ofNat 64 r
    match (List.range bs.length).mapM fun j => rowPlace s en L scr va .write j with
    | .error f => (s, some f)
    | .ok ps =>
      let W := (ps.zip bs).foldl (fun W (p, b) => engineWrite W b p) ({} : EngineWrites)
      storeRows en L core scr base stride (s.engineStore core L.ctx W) (r + 1) rest

/-- An `hacst` entry (R236); markers follow what it stores on another device. -/
def runAcst (s : State) (cl wg i : Nat) (en : HoopEntry) (L : Launch) (err : Byte) : State :=
  match en.op with
  | .acst d base stride scr q fmt rnd ty =>
    let far := !scr && rowsAway s base stride
    if far && [0x10#8, 0x11#8, 0x16#8, 0x40#8, 0x41#8, 0x70#8].contains err then s.entryFault wg i en L err base else
    let xs := s.readTile cl d ty.is64
    let seed := en.comp.toNat / 2 ^ 32
    let rows := (List.range 32).map fun r => storeRow ty q fmt rnd seed r ((xs.drop (32 * r)).take 32)
    let core := match tget? s.wgs wg with | some W => W.core | none => 0
    match storeRows en L core scr base stride s 0 rows with
    | (s, some (f, a)) => s.entryFault wg i en L f a
    | (s, none) =>
      let s := if far then s.markers core L.ctx else s
      s.setEntry wg i (some { en with step := 1, awaits := if far then s.unanswered core else en.awaits })
  | _ => s

/-- The work of a turn on one entry. -/
def runEntry (s : State) (cl wg i : Nat) (en : HoopEntry) (G : Gang) (L : Launch) (c : Context) (steps : Nat)
    (remote : List Byte) (err : Byte) : State :=
  match en.op with
  | .mma .. => runMma s cl wg i en G L steps remote err
  | .skld .. => runSkld s cl wg i en G L remote err
  | .zero d n => (s.zeroTiles cl d n).setEntry wg i (some { en with step := 1 })
  | .acld .. => runAcld s cl wg i en L c remote err
  | .acst .. => runAcst s cl wg i en L err
  | .chainBegin | .chainEnd => s.setEntry wg i (some { en with step := 1 })

/-- `hoop turn` (R234): the queue whose turn it is, and the work of one of its entries: `pick` and `steps` are the
engine's choice in a chain, `remote` and `err` what another device answers. -/
def execHoopTurn (cluster pick steps : Nat) (remote : List Byte) (err : Byte) (s : State) : Res :=
  match turnOf s cluster with
  | none => .next s
  | some (wg, W) =>
    match W.hq[pick]? with
    | none => .next s
    | some en =>
      match entryLaunch s en, tget? s.gangs en.gang with
      | some (L, c, det), some G =>
        if !mayRun W det pick || en.paused.isSome || entrySteps G en.op ≤ en.step then .next s else
        let s' := runEntry s cluster wg pick en G L c steps remote err
        -- a turn lasts while its entry is neither complete nor gone nor paused
        let same := match (tget? s'.wgs wg).bind fun W' => W'.hq[pick]? with
          | some x => x.paused.isNone && (match tget? s'.wgs wg with | some W' => W'.hq.length = W.hq.length | none => false)
          | none => false
        .next (s'.modCluster cluster fun C => { C with last := turnKey wg W, held := same })
      | _, _ => .next s

/-- The first entry of a queue whose work is done. -/
def doneEntry (s : State) (W : Workgroup) : Option (Nat × HoopEntry) :=
  ((W.hq.zipIdx).find? fun (en, _) => en.paused.isNone && s.hasAnswers en.awaits &&
    (match tget? s.gangs en.gang with | some G => entrySteps G en.op ≤ en.step | none => false)).map fun (en, i) => (i, en)

/-- The queue of a cluster whose first done entry completes next, with that entry: the queue whose turn it is, if it has one. -/
def doneQueue (s : State) (cl : Nat) : Option (Nat × Workgroup × Nat × HoopEntry) :=
  let all := (s.wgs.filter fun (_, W) => W.resident && W.core / 16 = cl).filterMap fun (id, W) =>
    (doneEntry s W).map fun (i, en) => (id, W, i, en)
  (all.find? fun (id, W, _) => turnKey id W = (s.cluster cl).last) <|> all.head?

/-- Whether a device that rows were stored on was lost before it answered (R107). -/
def HoopEntry.lost (s : State) (en : HoopEntry) : Bool :=
  en.awaits.any fun (core, dev, n) => s.fabric.member dev == .fenced && tgetD (s.core core).answered dev 0 < n

/-- The VA where an operation begins to store on another device. -/
def HoopOp.storeVa : HoopOp → DWord
  | .acst _ base _ _ _ _ _ _ => base
  | _ => 0

/-- `hoop entry complete` (R225, R232, R234): the entry whose turn has ended leaves its queue, its completion word is
applied or its signers' tl counts fall, and the turn ends. What it stored on a device that is lost is its error (R107, R236). -/
def execHoopEntryComplete (cluster : Nat) (s : State) : Res :=
  match doneQueue s cluster with
  | none => .next s
  | some (wg, W, i, en) =>
    if en.lost s then .next (match entryLaunch s en with
      | some (L, _, _) => s.entryFault wg i en L 0x41 en.op.storeVa
      | none => s.setEntry wg i none) else
    let s := s.setEntry wg i none
    let s := match entryLaunch s en with
      | some (L, _, det) => s.applyComp det L.ctx en.comp
      | none => s
    let s := s.dropSigners en.op
    let s := if en.wasPaused then en.op.signers.foldl (fun s (w, _, _) =>
      if (tget? s.waves w).isSome then s.modWave w fun x => { x with prog := 0 } else s) s else s
    let s := match en.op with
      | .chainBegin => s.modWg wg fun W => { W with inChain := true }
      | .chainEnd => s.modWg wg fun W => { W with inChain := false }
      | _ => s
    .next (s.modCluster cluster fun C => { C with held := C.held && C.last ≠ turnKey wg W })

end Sys2Proof.Machine
end

