-- ==== Sys2Proof/Machine/Visibility.lean ====
section
/-! DEFINITION. The binner and the visibility resolvers (R259 to R264). -/

namespace Sys2Proof.Machine

/-! ### Bin records (R259) -/

/-- The fields of a bin record. -/
structure BinRec where
  geom  : DWord
  gsize : Nat
  vis   : DWord
  state : DWord
  tw    : Nat
  th    : Nat
  pin   : Nat
deriving DecidableEq, Repr

/-- A bin record's fields. -/
def binOf (r : List Byte) : BinRec :=
  let f (o : Nat) : DWord := BitVec.ofNat 64 (leAt r o 8)
  ⟨f 0, leAt r 8 8, f 0x10, f 0x18, leAt r 0x20 2, leAt r 0x22 2, leAt r 0x24 4⟩

/-- What a bin record breaks, in the order of its fields. -/
def binFault (r : List Byte) : Option (Byte × DWord) :=
  let b := binOf r
  if b.geom.toNat % 256 ≠ 0 then some (0x12, b.geom)
  else if b.gsize < 256 || 2 ^ 40 < b.gsize || b.gsize % 256 ≠ 0 then some (0x01, 0)
  else if b.vis.toNat % 8 ≠ 0 then some (0x12, b.vis)
  else if b.state.toNat % 64 ≠ 0 then some (0x12, b.state)
  else if b.tw = 0 || 2048 < b.tw || b.th = 0 || 2048 < b.th then some (0x01, 0)
  else if pinReserved b.pin || (r.drop 0x28).any (· ≠ 0) then some (0x02, 0) else none

/-- The key of the binned geometry of a context and state block. -/
def binKey (ctx : Nat) (state : DWord) : Nat := ctx * 2 ^ 64 + state.toNat

/-- An instruction under its bin record. -/
def withBin (e : Env) (s : State) (r : RecRef) (fail : Byte → DWord → Res) (k : State → List Byte → BinRec → Res) : Res :=
  withRec e s r fail fun s bs => match binFault bs with
    | some (f, x) => fail f x
    | none => k s bs (binOf bs)

/-! ### The binner (R260, R261) -/

/-- `trimit` (R261): the wave waits until each triangle is binned or rejected; lanes with a report stand aside and take it when
the others are through (R258, R393). -/
def execTrimit (g : Guard) (d a : BitVec 8) (r : RecRef) (s : State) : Res :=
  issue g s fun e0 =>
    if !(e0.vOk d.toNat 1 && e0.vOk a.toNat 10) then illegalIssue e0 s 0x01 else
    gateLanes e0 (fun r => r.kind = 5) fun e =>
      let zero (s : State) : State := s.modWave e.id fun w => (lanesOf (e.enabled &&& e.w.helpers)).foldl (fun w l => w.setV d.toNat l 0) w
      if e.active = 0 then done e (zero s) else
      withBin e s r (faultActive e (zero s) false) fun s bs _ =>
        let tris := (lanesOf e.active).map fun l => (l, (List.range 10).map fun k => e.w.vreg (a.toNat + k) l)
        .next (((zero s).modWave e.id fun w => { w with
          tris := tris, triRec := bs, triDst := d.toNat, triStatus := [], triHeld := e0.enabled &&& ~~~e.enabled
          status := .waiting .submitted }).sideEffect e.wgId)

/-- A triangle's vertices after the swap of R261: x, y and depth by vertex, and the doubled area. -/
structure Tri where
  xs : List Int
  ys : List Int
  zs : List Word
  A  : Int
deriving DecidableEq, Repr

/-- The triangle of a group (R261). -/
def triOf (ws : List Word) : Tri :=
  let c (k : Nat) : Int := (ws.getD k 0).toInt
  let z (k : Nat) : Word := ws.getD (6 + k) 0
  let A := (c 4 - c 2) * (c 1 - c 3) - (c 5 - c 3) * (c 0 - c 2)
  if A < 0 then ⟨[c 0, c 4, c 2], [c 1, c 5, c 3], [z 0, z 2, z 1], -A⟩
  else ⟨[c 0, c 2, c 4], [c 1, c 3, c 5], [z 0, z 1, z 2], A⟩

/-- The pixels whose centres lie between two coordinates, clipped to `n` pixels: first and last (R261). -/
def pixelSpan (vs : List Int) (n : Nat) : Int × Int :=
  let lo := vs.foldl min (vs.headD 0)
  let hi := vs.foldl max (vs.headD 0)
  (max 0 (-((128 - lo) / 256)), min ((n : Int) - 1) ((hi - 128) / 256))

/-- A state block's fields: used, FULL, low, rejected, binned (R260). -/
structure BinState where
  used : Nat
  full : Bool
  low  : Nat
  nrej : Nat
  nbin : Nat
deriving DecidableEq, Repr

/-- The bytes of a state block. -/
def BinState.bytes (b : BinState) : List Byte :=
  leBytes 8 b.used ++ leBytes 4 (if b.full then 1 else 0) ++ leBytes 4 b.low ++ leBytes 4 b.nrej ++ leBytes 4 b.nbin ++ leBytes 40 0
/-- A state block read. -/
def binStateOf (bs : List Byte) : BinState := ⟨leAt bs 0 8, bitOf (leAt bs 8 4) 0, leAt bs 0xC 4, leAt bs 0x10 4, leAt bs 0x14 4⟩

/-- What the binner does with a triangle: a status, or the fault of its memory. -/
inductive BinOut where
  | status (n : Nat) (s : State)
  | fault (code : Byte) (addr : DWord)

/-- The triangles that a state block still holds: those whose bytes lie in the part of the geometry buffer that it counts as used,
so that a block prepared anew holds none (R260). -/
def heldTriangles (s : State) (ctx : Nat) (b : BinRec) (used : Nat) : List Triangle :=
  (tgetD s.bins (binKey ctx b.state) []).filter fun t => t.off < used

/-- Whether a wave's bytes meet a range lock of its gang as a write does (R101). -/
def waveLocked (s : State) (wave : Nat) (va : DWord) (n : Nat) : Bool :=
  match tget? s.wgs (wgOf wave) with
  | none => false
  | some W => (s.cluster (W.core / 16)).locks.any fun k => k.gang = W.gang &&
      (spansMeet (some (va.toNat, va.toNat + n - 1)) k.src || spansMeet (some (va.toNat, va.toNat + n - 1)) k.dst)

/-- The places of bytes that the binner touches for a lane, by the checks of R183 in order: pages, range locks, and in deterministic
mode the kernel's shared output ranges without the bobbin (R49, R101, R261). -/
def binKeys (s : State) (wave ctx : Nat) (det : Bool) (L : Option Launch) (va : DWord) (n : Nat) (need : Need) :
    Except (Byte × DWord) (List Nat) := do
  let ks ← (List.range n).mapM fun i => localPlace s ctx L (va + BitVec.ofNat 64 i) need
  if waveLocked s wave va n then .error (0x14, va)
  else if det && !(s.wave wave).hold &&
      (match L.bind (·.header) with | some H => sharedHit H va.toNat n | none => false) then .error (0x15, va)
  else if ks.any fun k => tideLocked s k 1 then .error (0, heldAddr)
  else pure ks

/-- Bytes at places. -/
def cellsAt (ks : List Nat) (bs : List Byte) : Table Byte := (ks.zip bs).foldl (fun t (k, b) => tput t k b) []

/-- The bytes of a binned triangle in the geometry buffer: open values (R259, log entry 3). -/
def geomBytes (s : State) (n : Nat) : List Byte := (List.range n).map fun i => BitVec.ofNat 8 (Config.freeNat (s.free + i))

/-- One triangle of a wave binned or rejected (R260, R261); the faults of its memory in R183's order. -/
def binTriangle (s : State) (wave ctx : Nat) (det : Bool) (L : Option Launch) (bs : List Byte) (ws : List Word) : BinOut :=
  let b := binOf bs
  let t := triOf ws
  let (xlo, xhi) := pixelSpan t.xs (32 * b.tw)
  let (ylo, yhi) := pixelSpan t.ys (32 * b.th)
  if t.A = 0 || t.zs.any (fun z => fmt32.isNaN z.toNat) || xhi < xlo || yhi < ylo then .status 0 s else
  let tx0 := xlo.toNat / 32
  let tx1 := xhi.toNat / 32
  let ty0 := ylo.toNat / 32
  let ty1 := yhi.toNat / 32
  let cost := 48 + 4 * ((tx1 - tx0 + 1) * (ty1 - ty0 + 1))
  let tid := ws.getD 9 0
  match binKeys s wave ctx det L b.state 64 .both with
  | .error (f, a) => .fault f a
  | .ok ks =>
    if ks.any (badLine s) then .fault 0x40 b.state else
    let st := binStateOf (ks.map (memGet s.mem))
    let put (s : State) (x : BinState) : State := s.writeCells (cellsAt ks x.bytes)
    if st.full || b.gsize < st.used + cost then
      let s := put s { st with full := true, low := min st.low tid.toNat, nrej := (st.nrej + 1) % 2 ^ 32 }
      .status 2 (if !st.full && pinValid b.pin && pinOk s det (b.pin % 2 ^ 14) then s.addPin det ctx (b.pin % 2 ^ 14) 1 else s)
    else
      let geom := b.geom + BitVec.ofNat 64 st.used
      match binKeys s wave ctx det L geom cost .write with
      | .error (f, a) => .fault f a
      | .ok gk =>
        let gs := cellsAt gk (geomBytes s cost)
        if spoilsLine s gs then .fault 0x40 geom else
        let s := { (s.writeCells gs) with free := s.free + cost }
        let tri : Triangle := { xs := t.xs, ys := t.ys, zs := t.zs, tid, tx0, ty0, tx1, ty1, off := st.used }
        let k := binKey ctx b.state
        let s := { s with bins := tput s.bins k (heldTriangles s ctx b st.used ++ [tri]) }
        .status 1 (put s { st with used := st.used + cost, nbin := (st.nbin + 1) % 2 ^ 32 })

/-- The wave after its triangles: statuses are written to the lanes that did not fault. -/
def State.endTriangles (s : State) (id : Nat) : State :=
  let w := s.wave id
  let s := s.modWave id fun w => { (w.triStatus.foldl (fun w (l, x) => w.setV w.triDst l x) w) with triStatus := [], triRec := [] }
  if w.status == .waiting .submitted then s.endSubmitted id else s

/-- `triangle bin` (R261): the first triangle that a waiting wave has submitted. -/
def execTriangleBin (wave : Nat) (s : State) : Res :=
  let w := s.wave wave
  match w.status, w.tris, waveCtx s wave with
  | .waiting .submitted, (l, ws) :: rest, some (ctx, _) =>
    let L := (tget? s.wgs (wgOf wave)).bind fun W => tget? s.launches W.launch
    let det := match L.bind fun L => tget? s.queues L.queue with | some q => q.det | none => false
    let next (s : State) : Res := .next (if rest.isEmpty then s.endTriangles wave else s)
    match binTriangle s wave ctx det L w.triRec ws with
    | .status n s => next (s.modWave wave fun w => { w with tris := rest, triStatus := w.triStatus ++ [(l, BitVec.ofNat 32 n)] })
    | .fault f a =>
      if f = 0 then .next (s.absorb ctx [a.toNat])
      else if f == 0x10 || f == 0x70 then .next (s.laneFault wave 0 (laneBit l) f a w.issuePc false true false [])
      else next (s.modWave wave fun w => { w with tris := rest, emitBad := w.emitBad ++ [(l, f, a)] })
  | _, _, _ => .next s

/-! ### Coverage and depth (R262) -/

/-- Edge i at a pixel centre, and its direction. -/
def edgeAt (t : Triangle) (i : Nat) (px py : Int) : Int × Int × Int :=
  let j := (i + 1) % 3
  let k := (i + 2) % 3
  let xj := t.xs.getD j 0
  let yj := t.ys.getD j 0
  let ex := t.xs.getD k 0 - xj
  let ey := t.ys.getD k 0 - yj
  (ex * (py - yj) - ey * (px - xj), ex, ey)

/-- Whether an edge function covers (R262). -/
def edgeCovers (x : Int × Int × Int) : Bool :=
  let (E, ex, ey) := x
  decide (0 < E) || (E == 0 && (decide (ey < 0) || (ey == 0 && decide (0 < ex))))

/-- The depth of a covered pixel (R262). -/
def depthAt (t : Triangle) (px py : Int) : Nat :=
  let r (x : Int) : Nat := (fmt32.roundInt .rne x 0 false).1
  let x (k : Nat) : Int := t.xs.getD k 0
  let y (k : Nat) : Int := t.ys.getD k 0
  let z (k : Nat) : Nat := (t.zs.getD k 0).toNat
  let A := (x 2 - x 1) * (y 0 - y 1) - (y 2 - y 1) * (x 0 - x 1)
  let fa := r A
  let w1 := fquo (r (edgeAt t 1 px py).1) fa
  let w2 := fquo (r (edgeAt t 2 px py).1) fa
  fsum (fsum (z 0) (fprd w1 (fdif (z 1) (z 0)))) (fprd w2 (fdif (z 2) (z 0)))

/-- The merge key of a depth and identifier (R263). -/
def visKey (d id : Nat) : Nat := if fmt32.isNaN d then 2 ^ 64 - 1 else ordDepth d * 2 ^ 32 + id

/-- What a tile's triangles give a pixel: the pairs of depth and identifier to merge. -/
def pixelHits (ts : List Triangle) (x y : Nat) : List (Nat × Nat) :=
  let px : Int := 256 * x + 128
  let py : Int := 256 * y + 128
  ts.filterMap fun t =>
    if [0, 1, 2].all fun i => edgeCovers (edgeAt t i px py) then
      let z := depthAt t px py
      if fmt32.isNaN z then none else some (z, t.tid.toNat)
    else none

/-! ### Resolves (R263, R264) -/

/-- `vresolve` (R263). -/
def execVresolve (g : Guard) (a b : BitVec 8) (r : RecRef) (s : State) : Res :=
  rasterWave g s fun e => withBin e s r (fun f x => faultAll e s f x) fun s bs br =>
    let comp := e.w.sreg b.toNat
    let tile := (e.w.sreg a.toNat).toNat
    match compFault s e.det comp with
    | some f => faultAll e s f
    | none =>
      if br.tw * br.th ≤ tile then faultAll e s 0x11 else
      let (id, s) := s.newId
      let op : ResolveOp :=
          { ctx := e.ctx, det := e.det, pc := e.pc, wave := e.id, lane := lowLane e.active, queue := e.L.queue,
            seq := e.L.seq, data := bs, tile, comp, wid := e.wid (lowLane e.active) }
      done e ({ s with vresolves := tput s.vresolves id op }.sideEffect e.wgId)

/-- A pixel's entry after the merges of its hits: the cells to write, or the fault of its page. -/
def mergePixel (s : State) (ctx : Nat) (L : Option Launch) (va : DWord) (hits : List (Nat × Nat)) :
    Except (Byte × DWord) (Table Byte) := do
  if hits.isEmpty then pure [] else
  let old ← localRead s ctx L va 8
  let (d, i) := hits.foldl (fun (e : Nat × Nat) h => if visKey h.1 h.2 < visKey e.1 e.2 then h else e) (leAt old 0 4, leAt old 4 4)
  localWrite s ctx L va (leBytes 4 d ++ leBytes 4 i)

/-- The cells that the resolve of a tile writes: the merges of its triangles at every pixel (R263). -/
def tileCells (s : State) (o : ResolveOp) : Except (Byte × DWord) (Table Byte) := do
  let L := opLaunch s o.queue o.seq
  let b := binOf o.data
  let tx := o.tile % b.tw
  let ty := o.tile / b.tw
  let used := (binStateOf (← localRead s o.ctx L b.state 64)).used
  let ts := (heldTriangles s o.ctx b used).filter fun t => t.tx0 ≤ tx && tx ≤ t.tx1 && t.ty0 ≤ ty && ty ≤ t.ty1
  let _ ← ts.mapM fun t => localRead s o.ctx L (b.geom + BitVec.ofNat 64 t.off) 48
  (List.range 1024).foldlM (fun cells n => do
    let x := 32 * tx + n % 32
    let y := 32 * ty + n / 32
    let new ← mergePixel s o.ctx L (b.vis + BitVec.ofNat 64 (8 * (y * 32 * b.tw + x))) (pixelHits ts x y)
    pure (new.foldl (fun t (k, v) => tput t k v) cells)) []

/-- `vresolve complete` (R263): every merge of the tile, then the pin. -/
def execVresolveComplete (id : Nat) (s : State) : Res :=
  match tget? s.vresolves id with
  | none => .next s
  | some o =>
    if o.paused.isSome then .next s else
    match tileCells s o with
    | .error (f, a) => .next (resolveFault s id o f a true)
    | .ok cells => .next ({ (s.writeCells cells) with vresolves := tdel s.vresolves id }.applyComp o.det o.ctx o.comp)

/-- `binres` (R264): an acquire and a release at `.dev`, whose one action on the state block reads low and writes the last column
of R260. -/
def execBinres (g : Guard) (d : BitVec 8) (r : RecRef) (s : State) : Res :=
  rasterWave g s fun e => withBin e s r (fun f x => faultAll e s f x) fun s _ br =>
    match resolveLocal s e .store 64 (lowLane e.active) br.state with
    | .error .stall => block e s
    | .error .absorb => absorbWait e s [br.state]
    | .error (.fault f x) => faultAll e s f x true
    | .ok t =>
      waveRelease e s .dev fun s =>
        match localRead s e.ctx (some e.L) br.state 64 with
        | .error (f, x) => if f = 0 then absorbWait e s [x] else faultAll e s f x true
        | .ok raw =>
          let s := s.store e.wg.core t.acc.key (BinState.bytes ⟨0, false, 0xFFFFFFFF, 0, 0⟩)
          let s := { s with bins := tdel s.bins (binKey e.ctx br.state) }
          let s := (s.acquire e.wg.core e.wgId .dev).sideEffect e.wgId
          done e (s.modWave e.id fun w => w.setS d.toNat (BitVec.ofNat 64 (binStateOf raw).low))

end Sys2Proof.Machine
end

