-- ==== Sys2Proof/Machine/Preempt.lean ====
section
/-! DEFINITION. Delivery of records (R359), pre-emption (R366 to R370), gang migration (R346), reclaimed ranges (R352), and
what resolves faults and traps (R361 to R363, R365). -/

namespace Sys2Proof.Machine

/-! ### Delivery (R359) -/

/-- A ring's head and tail as its control block holds them. -/
def ringCounts (s : State) (ctx : Nat) (r : Ring) : Except (Byte × DWord) (Word × Word) :=
  match s.readCtx ctx (r.ctl.toNat + 0x10) 8 with
  | .ok bs => .ok (BitVec.ofNat 32 (leAt bs 0 4), BitVec.ofNat 32 (leAt bs 4 4))
  | .error f => .error f

/-- The oldest record of a ring written, with its tail and its interrupt, where the ring has room and its pages take it; else the
address of a reclaimed range that has to return first (R352). -/
def State.deliver (s : State) (ctx : Nat) (r : Ring) (x : RingRec) : Except (Option DWord) State :=
  match ringCounts s ctx r with
  | .error (f, a) => .error (if f = 0 then some a else none)
  | .ok (head, tail) =>
    let slot := r.base.toNat + 64 * (tail.toNat % r.entries)
    if r.entries ≤ (tail - head).toNat then .error none else
    match (s.writeVa ctx slot x.bytes).bind fun s => s.writeVa ctx (r.ctl.toNat + 0x14) (leBytes 4 (tail + 1).toNat) with
    | some s => .ok (s.emit (.interrupt r.vector))
    | none => .error (((reclaimedAt s ctx slot 64) <|> reclaimedAt s ctx (r.ctl.toNat + 0x14) 4).map (BitVec.ofNat 64))

/-- What a delivered fault record brings with it: a display head's breakwater, and a graph's walker is free (R349, R386). -/
def State.delivered (s : State) (ctx : Nat) (x : RingRec) : State :=
  let s := match x.walker with | some w => { s with walkers := tdel s.walkers w } | none => s
  s.headFault ctx x.code

/-- `ring record delivery` (R359): a full ring, or one whose pages refuse the write, stalls it. -/
def execRingRecordDelivery (ctx : Nat) (trap : Bool) (s : State) : Res :=
  match tget? s.ctxs ctx with
  | none => .next s
  | some c =>
    match (if trap then c.trapring else c.faultring), (if trap then c.traps else c.faults) with
    | some r, x :: rest =>
      match s.deliver ctx r x with
      | .ok s =>
        let s := s.modCtx ctx fun c => if trap then { c with traps := rest } else { c with faults := rest }
        .next (if trap then s else s.delivered ctx x)
      | .error (some a) => .next (s.absorb ctx [a.toNat])
      | .error none => .next s
    | _, _ => .next s

/-! ### Swapping out (R366, R367) -/

/-- `swap out` (R366): a resident workgroup is chosen to leave, and its waves stop issuing; with a device whose port is
marked congested, by a stall hint (R370, R376). -/
def execSwapOut (wg : Nat) (stallDev : Option Nat) (s : State) : Res :=
  match tget? s.wgs wg with
  | none => .next s
  | some W =>
    let hinted := match stallDev with
      | none => true
      | some d => match s.fabric.portTo d with | some k => (s.fabric.port k).cong | none => false
    .next (if W.held && W.leaving.isNone && !W.ended && hinted then s.modWg wg fun W => { W with leaving := some stallDev } else s)

/-- Whether a load waits only on a congested device and may be saved as a descriptor (R370). -/
def descriptorOk (dev : Option Nat) (p : PendingLoad) : Bool :=
  match dev, p.op with
  | some d, .ld .. | some d, .lds .. | some d, .ldq .. => !p.acc.isEmpty && p.acc.all fun x => x.remote && remoteDev x.va = d
  | _, _ => false

/-- Whether a wave's `crvemit` waits for a slot to close, which it may do away from its core (R253). -/
def slotWait (s : State) (id : Nat) : Bool :=
  let w := s.wave id
  !w.segs.isEmpty && (match waveCtx s id with | some (_, c) => (tget? c.slots w.segTag.toNat).isNone | none => false)

/-- Whether a wave is between instructions and its counted operations have drained (R366). -/
def waveDrained (s : State) (dev : Option Nat) (id : Nat) : Bool :=
  let w := s.wave id
  w.pairs.isEmpty && w.cpCnt = 0 && w.stCnt = 0 && (w.status != .waiting .submitted || slotWait s id) && w.loads.all (descriptorOk dev)

/-- Whether a leaving workgroup can be saved. -/
def saveReady (s : State) (id : Nat) (W : Workgroup) (dev : Option Nat) : Bool :=
  W.held && !W.ended && W.saveFail.isEmpty && ((List.range W.waves).all fun f => waveDrained s dev (id * 32 + f)) &&
  (s.core W.core).fifo.all fun p => wgOf p.wave ≠ id

/-- `n` open bytes from the i-th on (log entry 3): parts of the save area whose layout the spec leaves open. -/
def openAt (s : State) (i n : Nat) : List Byte := (List.range n).map fun j => BitVec.ofNat 8 (Config.freeNat (s.free + i + j))

/-- The 12 bytes of the instruction at a PC; open where its line cannot be fetched. -/
def slotAt (s : State) (core ctx : Nat) (c : Context) (pc : DWord) (i : Nat) : List Byte :=
  match fetchLine s core ctx c (lineOf pc) with
  | .ok (line, _) => (line.drop (12 * (pc &&& 7#64).toNat)).take 12
  | .error _ => openAt s i 12

/-- A stash entry in the group header. -/
def stashBytes : Option Stash → List Byte
  | some x => leBytes 4 x.off ++ leBytes 4 x.len ++ leBytes 8 x.va.toNat ++ leBytes 4 1 ++ leBytes 12 0
  | none => leBytes 32 0

/-- A convergence register in the group header, with the signatures of one workgroup's waves. -/
def convBytes (wg : Nat) (x : Conv) : List Byte :=
  leBytes 2 x.expected ++
  leBytes 2 ((x.signers.filter fun (w, _, _) => wgOf w = wg).foldl (fun n (_, _, m) => n + (lanesOf m).length) 0) ++
  (match x.op with
   | some (.mma src d a b k _ _) =>
     leBytes 1 d ++ leBytes 1 src.code.toNat ++ leBytes 2 k ++ leBytes 8 a.toNat ++ leBytes 8 b.toNat
   | _ => leBytes 20 0) ++ leBytes 8 0

/-- A hoop queue entry in the group header: the operation with its operands, its next k-step and its completion word; R367 gives the
entry's size and no layout (DESIGN CHOICE: log entry 42). -/
def hoopBytes : Option HoopEntry → List Byte
  | none => leBytes 32 0
  | some en =>
    let mk (kind d k : Nat) (a b : DWord) : List Byte :=
      leBytes 1 kind ++ leBytes 1 d ++ leBytes 2 en.step ++ leBytes 4 k ++ leBytes 8 a.toNat ++ leBytes 8 b.toNat ++ leBytes 8 en.comp.toNat
    match en.op with
    | .mma src d a b k _ _ => mk (16 + src.code.toNat) d k a b
    | .skld dst src len => mk 1 0 len dst src
    | .zero d n => mk 2 d n 0 0
    | .acld d base stride scr ty => mk (if scr then 4 else 3) d ty.code.toNat base stride
    | .acst d base stride scr q fmt _ ty => mk (if scr then 6 else 5) d (if q then fmt.toNat else ty.code.toNat) base stride
    | .chainBegin => mk 7 0 0 0 0
    | .chainEnd => mk 8 0 0 0 0

/-- The 4 KiB group header (R367). -/
def groupHeader (s : State) (id : Nat) (W : Workgroup) (L : Launch) (H : Header) (nload : Nat) : List Byte :=
  let ws := (List.range W.waves).map fun f => s.wave (id * 32 + f)
  let flag (b : Bool) (k : Nat) : Nat := if b then 2 ^ k else 0
  let conv (n : Nat) : Conv := match tget? s.gangs W.gang with | some G => tgetD G.conv n {} | none => {}
  leBytes 4 1 ++
  leBytes 4 (flag W.restart 0 + flag (ws.any (·.hold)) 1 + flag (ws.all fun w => w.status == .phased || w.status == .retired) 3) ++
  leBytes 8 L.seq ++ leBytes 8 W.index ++ leBytes 2 L.queue ++ leBytes 1 W.waves ++ leBytes 1 (H.vregs / 8) ++
  leBytes 4 H.scratch ++ leBytes 8 (windowBase (id * 32) H.priv) ++ leBytes 4 L.phase ++ leBytes 4 W.lcore ++
  leBytes 2 W.hq.length ++ leBytes 2 nload ++ leBytes 12 0 ++
  ((List.range 16).flatMap fun n => barrierBytes (tgetD W.bars n {})) ++
  ((List.range 8).flatMap fun n => stashBytes W.stash[n]?) ++
  ((List.range 8).flatMap fun n => convBytes id (conv n)) ++
  ((List.range 64).flatMap fun n => hoopBytes W.hq[n]?) ++ leBytes 960 0

/-- The state code of a wave and its token (R367). -/
def statusCode (w : Wave) : Nat × Nat :=
  match w.status with
  | .ready => (0, 0) | .retired => (1, 0) | .stopped => (2, w.tokens.headD 0) | .trapped t => (3, t)
  | .waiting _ => (4, 0) | .phased => (5, 0)

/-- What stands for `sr.prog` when a wave leaves its core: the lanes that a `moor` in progress has done, else the index as
it stands (R196, R364). -/
def Wave.progress (w : Wave) : DWord := if w.done = 0 then w.prog else w.done.setWidth 64

/-- The code of a barrier operand (R200). -/
def barCode (b : BarRef) : Nat := b.index.toNat + 16 * b.owner.toNat + (if b.peer then 256 else 0)

/-- The barrier, pin or word address of a waiting wave's condition, and its operand (R367); of a `moor` those of the lowest lane that
still waits (DEDUCED: log entry 42); none for a condition that names none of them. -/
def waitedOn (w : Wave) (i : Instr) : Option (DWord × DWord) :=
  let gen : DWord := match w.status with | .waiting (.barrier _ g) => g.setWidth 64 | _ => 0
  match i with
  | .bwait _ _ a bar => some (BitVec.ofNat 64 (barCode bar), (w.sreg a.toNat).setWidth 32 |>.setWidth 64)
  | .bsync _ _ _ bar => some (BitVec.ofNat 64 (barCode bar), gen)
  | .pinwait _ _ a pin => some (BitVec.ofNat 64 (pinOf w pin), (w.sreg a.toNat).setWidth 32 |>.setWidth 64)
  | .bmwait _ _ a b => some (w.sreg a.toNat, w.sreg b.toNat)
  | .moor m _ =>
    let l := lowLane (w.issuingMask &&& w.guardMask m.g &&& ~~~(moorOver w))
    some (effAddr w m.base m.index m.off l, BitVec.ofNat 64 (storeValue w m.ty m.d.toNat l))
  | _ => none

/-- The 32 bytes of a waited condition; open where its instruction cannot be read or names no operand. -/
def waitedBytes (s : State) (core ctx : Nat) (c : Context) (f1 : Nat) (w : Wave) : List Byte :=
  let slot := slotAt s core ctx c w.issuePc 2048
  slot ++ (match decodeSlot (BitVec.ofNat 96 (leNat slot)) with
    | .ok i => (match waitedOn w i with
      | some (x, y) => leBytes 8 x.toNat ++ leBytes 8 y.toNat
      | none => openAt s (2048 + 16 * f1) 16)
    | .error _ => openAt s (2048 + 16 * f1) 16) ++ leBytes 4 0

/-- A wave block (R367): the wave's F1 places the open bytes of its waited condition. -/
def waveBlock (s : State) (core ctx : Nat) (c : Context) (H : Header) (f1 : Nat) (w : Wave) : List Byte :=
  let (code, tok) := statusCode w
  leBytes 4 code ++ leBytes 4 w.tlCnt.toNat ++ leBytes 4 tok ++ leBytes 4 w.helpers.toNat ++ leBytes 4 w.fflags.toNat ++
  leBytes 4 ((if w.hold then 1 else 0) + (if w.passed then 2 else 0)) ++ leBytes 8 w.progress.toNat ++
  (if code = 4 then waitedBytes s core ctx c f1 w else leBytes 32 0) ++
  ((List.range 16).flatMap fun n => leBytes 4 (w.preg n).toNat) ++
  ((List.range 16).flatMap fun n => leBytes 4 (w.freg n).toNat) ++ leBytes 64 0 ++
  ((List.range 64).flatMap fun n => leBytes 8 (w.sreg n).toNat) ++
  (allLanes.flatMap fun l => leBytes 8 (w.pc l).toNat) ++
  (allLanes.flatMap fun l => leBytes 1 (tgetD w.depth l 0)) ++
  (allLanes.flatMap fun l => leBytes 4 (tgetD w.pushes l 0)) ++ leBytes 96 0 ++
  (allLanes.flatMap fun l => (List.range 16).flatMap fun k => leBytes 8 (tgetD w.ret (16 * l + k) 0).toNat) ++
  (List.range H.vregs).flatMap fun n => allLanes.flatMap fun l => leBytes 4 (w.vreg n l).toNat

/-- The size of a wave block. -/
def waveBlockSize (H : Header) : Nat := (0x1500 + 128 * H.vregs + 255) / 256 * 256

/-- Bits as bytes, lowest first. -/
def bitBytes (n : Nat) (p : Nat → Bool) : List Byte :=
  leBytes n ((List.range (8 * n)).foldl (fun x i => if p i then x + 2 ^ i else x) 0)

/-- The scratch section: image, filled lines, dirty bytes (R367). -/
def scratchSection (s : State) (id : Nat) (W : Workgroup) (H : Header) : List Byte :=
  s.bytesAt (scrKey id 0) H.scratch ++
  (bitBytes 256 fun i => W.stash.any fun x => x.off / 128 ≤ i && x.filled.contains (i - x.off / 128) && i < (x.off + x.len + 127) / 128) ++
  (bitBytes (H.scratch / 8) fun i => W.stash.any fun x => x.off ≤ i && x.dirty.contains (i - x.off))

/-- A pending-load descriptor of 320 bytes (R370). -/
def loadBytes320 (s : State) (core ctx : Nat) (c : Context) (k : Nat) (p : PendingLoad) : List Byte :=
  slotAt s core ctx c p.pc 2048 ++ leBytes 4 (p.acc.foldl (fun m x => m ||| laneBit x.lane) 0).toNat ++
  (allLanes.flatMap fun l => match p.acc.find? fun x => x.lane = l with
    | some x => leBytes 8 x.va.toNat | none => openAt s (2560 + 48 * k) 8) ++
  openAt s (2560 + 48 * k) 48

/-- The loads of a workgroup's waves that are left to save. -/
def loadsLeft (s : State) (id : Nat) (W : Workgroup) : List (Nat × PendingLoad) :=
  (List.range W.waves).flatMap fun f => (s.wave (id * 32 + f)).loads.map fun p => (id * 32 + f, p)

/-- A workgroup's private lines written back to its windows (R79, R366 step 5). -/
def State.saveWindows (s : State) (id : Nat) (W : Workgroup) (H : Header) : State :=
  { s with mem := (List.range W.waves).foldl (fun m f =>
      memMove m (prvBase (id * 32 + f) H.priv) (windowBase (id * 32 + f) H.priv) (128 * H.priv)) s.mem }
/-- They come back at the same offsets (R79). -/
def State.loadWindows (s : State) (id : Nat) (W : Workgroup) (H : Header) : State :=
  { s with mem := (List.range W.waves).foldl (fun m f =>
      memMove m (windowBase (id * 32 + f) H.priv) (prvBase (id * 32 + f) H.priv) (128 * H.priv)) s.mem }

/-- The save area written (R367). -/
def State.writeSave (s : State) (id : Nat) (W : Workgroup) (L : Launch) (H : Header) (c : Context) : State :=
  let base := Config.saveArea id
  let ls := loadsLeft s id W
  let size := waveBlockSize H
  let put (t : State) (off : Nat) (bs : List Byte) : State := t.writeAt (devKey (base + off)) bs
  let t := put s 0 (groupHeader s id W L H ls.length)
  let t := (List.range W.waves).foldl (fun t f =>
    put t (4096 + size * f) (waveBlock s W.core L.ctx c H f (s.wave (id * 32 + f)))) t
  let o := 4096 + size * W.waves
  let t := put t o (scratchSection s id W H)
  let o := o + H.scratch + 256 + H.scratch / 8
  let t := (ls.zipIdx).foldl (fun t ((_, p), k) => put t (o + 320 * k) (loadBytes320 s W.core L.ctx c k p)) t
  { t with free := s.free + 2560 + 48 * ls.length }

/-- A save that failed (R361): a record with a token for each wave, and the workgroup stays, stopped. -/
def State.saveFailed (s : State) (id : Nat) (W : Workgroup) (L : Launch) : State :=
  (List.range W.waves).foldl (fun s f =>
    let (tok, s) := s.newId
    let w := s.wave (id * 32 + f)
    let addr : DWord := BitVec.ofNat 64 (Config.saveArea id)
    let wid : DWord := match L.header with
      | some H => BitVec.ofNat 64 (workId H L.counts W.index f (lowLane w.liveMask)) | none => 0
    let bytes := faultBytes 0x72 0 (recordFlags false false true true) w.liveMask addr w.issuePc L.seq wid L.queue W.core
      tok w.progress 0 0
    let s := (s.failTides (id * 32 + f) 0x72).modCtx L.ctx fun c => { c with
      faults := c.faults ++ [{ bytes, code := 0x72, wave := some (id * 32 + f) }]
      tokens := tput c.tokens tok { owner := .save id (id * 32 + f), code := 0x72, addr } }
    s.modWg id fun W => { W with saveFail := W.saveFail ++ [tok] }) s

/-- `workgroup save` (R366, R367): a leaving workgroup that has drained is written to its save area and its core is free;
whether a write fails is an open value. -/
def execWorkgroupSave (wg : Nat) (s : State) : Res :=
  match tget? s.wgs wg with
  | none => .next s
  | some W =>
    match W.leaving, (tget? s.launches W.launch).bind fun L => L.header.bind fun H => (tget? s.ctxs L.ctx).map fun c => (L, H, c) with
    | some dev, some (L, H, c) =>
      if !saveReady s wg W dev then .next s else
      let (n, s) := s.fresh
      if n % 2 = 1 then .next (s.saveFailed wg W L) else
      let ls := loadsLeft s wg W
      let s := (s.writeSave wg W L H c).saveWindows wg W H
      let s := (List.range W.waves).foldl (fun s f => s.modWave (wg * 32 + f) fun w => { w with loads := [], ldCnt := 0 }) s
      .next (s.modWg wg fun W => { W with resident := false, leaving := none, descr := ls, saved := true })
    | _, _ => .next s

/-! ### Restoring and migrating (R346, R366, R370) -/

/-- Whether a gang's hoop reservations are free on a cluster. -/
def rangesFree (s : State) (gang : Nat) (G : Gang) (cl : Nat) : Bool :=
  G.res.all fun (_, r) => !(s.gangs.any fun (k, o) => k ≠ gang && o.cluster = cl && gangLive s o && o.res.any fun (_, p) => r.meets p)

/-- The bytes of a reservation moved between clusters. -/
def State.moveRange (s : State) (a b : Nat) (r : Reservation) : State :=
  if r.remote.isSome then s else
  match r.kind with
  | 0 => { s with mem := memWrite s.mem (hoopKey b (256 * r.base)) (s.bytesAt (hoopKey a (256 * r.base)) (256 * r.len)) }
  | 1 => { s with mem := memWrite s.mem (skeinKey b (256 * r.base)) (s.bytesAt (skeinKey a (256 * r.base)) (256 * r.len)) }
  | _ => { s with mem := memWrite s.mem (tileKey b r.base 0 0) (s.bytesAt (tileKey a r.base 0 0) (4096 * r.len)) }

/-- The gangs that move with a gang: itself; in deterministic mode every gang of its launch on its logical cluster, the image
that moves whole (R347). -/
def imageOf (s : State) (gang : Nat) (G : Gang) (det : Bool) : Table Gang :=
  let log (G : Gang) : Option Nat := (G.wgs.head?.bind fun id => tget? s.wgs id).map fun W => logCluster W.index
  tfilter s.gangs fun k V => k = gang || (det && V.launch = G.launch && V.cluster = G.cluster && gangLive s V && log V = log G)

/-- Whether a gang finds room on another cluster: it is one of its queue's binds, no workgroup of what moves is resident, and the
ranges and declared maximum of all that moves fit. -/
def clusterTakes (s : State) (gang : Nat) (G : Gang) (L : Launch) (H : Header) (cl : Nat) : Bool :=
  match tget? s.queues L.queue with
  | none => false
  | some q =>
    let gs := imageOf s gang G q.det
    (queueClusters s (queuePart s q) L.queue).contains cl &&
    (gs.all fun (k, V) => rangesFree s k V cl &&
      !(V.wgs.any fun id => match tget? s.wgs id with | some W => W.held | none => false)) &&
    hoopFits s cl { H with hres := gs.length * H.hres } (some gang)

/-- Whether a gang may move to another cluster: firmware has made it leave its own for a gang that stalls (R26, R346). -/
def mayMove (s : State) (gang : Nat) (G : Gang) (L : Launch) (H : Header) (cl : Nat) : Bool :=
  G.migrate && clusterTakes s gang G L H cl

/-- A gang moved to a cluster with all that moves with it: their ranges' bytes, and the mapping of the image (R346, R347). -/
def State.moveGang (s : State) (gang : Nat) (G : Gang) (L : Launch) (cl : Nat) : State :=
  let det := match tget? s.queues L.queue with | some q => q.det | none => false
  let s := (imageOf s gang G det).foldl (fun s (k, V) =>
    (V.res.foldl (fun s (_, r) => s.moveRange V.cluster cl r) s).modGang k fun V => { V with cluster := cl }) s
  match det, G.wgs.head?.bind fun id => tget? s.wgs id with
  | true, some W => s.modLaunch G.launch fun L => { L with images := tput L.images (logCluster W.index) cl }
  | _, _ => s

/-- Whether a core takes a workgroup of a gang: enabled, with room, in deterministic mode the one that its logical core maps to
(R347), else one that no other workgroup of the gang holds (R26, R27). -/
def coreTakes (s : State) (id : Nat) (W : Workgroup) (L : Launch) (H : Header) (cl core : Nat) : Bool :=
  let det := match tget? s.queues L.queue with | some q => q.det | none => false
  (enabledCores cl).contains core && ((coreLoad s (16 * cl + core)).plus (wgLoad H (heldWaves s id W) 1)).fits &&
  (if det then detCore cl (W.index % 16) = 16 * cl + core
   else !(s.wgs.any fun (_, V) => V.gang = W.gang && V.held && V.core = 16 * cl + core))

/-- The bind that a restored workgroup is charged to: the lowest slot of its queue's binds that covers the core and has room
(R342, R343); in deterministic mode a bind covers every core of its clusters (R347). -/
def restoreBind (s : State) (L : Launch) (cl core : Nat) : Option Nat :=
  match tget? s.queues L.queue with
  | none => none
  | some q => ((bindsOf s L.queue).find? fun (slot, b) =>
      (bindClusters s (queuePart s q) b).contains cl && (q.det || b.cores.getLsbD core) && bindUse s slot + 1 ≤ b.budget).map (·.1)

/-- `workgroup restore` (R366): on a core of the gang's cluster, or of one that the gang moves to; saved loads are issued
again (R370), after an acquire at `.sys` on the new core. -/
def execWorkgroupRestore (wg cluster core : Nat) (s : State) : Res :=
  match tget? s.wgs wg with
  | none => .next s
  | some W =>
    match tget? s.gangs W.gang, (tget? s.launches W.launch).bind fun L => L.header.map fun H => (L, H) with
    | some G, some (L, H) =>
      let part := match tget? s.ctxs L.ctx with | some c => c.part | none => 0
      let stopped := match tget? s.stalls part with | some x => x.clear = some cluster | none => false
      if W.resident || W.retired || stopped || !coreTakes s wg W L H cluster core ||
          !(cluster = G.cluster || mayMove s W.gang G L H cluster) then .next s else
      match restoreBind s L cluster core with
      | none => .next s
      | some slot =>
      let s := (if cluster = G.cluster then s else s.moveGang W.gang G L cluster).modGang W.gang fun G => { G with migrate := false }
      let phys := 16 * cluster + core
      let s := W.descr.foldl (fun s (w, p) =>
        let (st, s) := s.newId
        s.modWave w fun x => { x with loads := x.loads ++ [{ p with stamp := st }], ldCnt := x.ldCnt + 1 }) s
      let s := if W.saved then s.loadWindows wg W H else s
      .next ((s.modWg wg fun W => { W with resident := true, core := phys, descr := [], bind := some slot, saved := false }).acquire phys wg .sys)
    | _, _ => .next s

/-- Whether a resident workgroup may be flushed (R368): RESTARTABLE, with nothing of it in flight, in the hoop or with
system software. -/
def flushReady (s : State) (id : Nat) (W : Workgroup) (L : Launch) : Bool :=
  W.held && W.restart && !W.ended && W.hq.isEmpty && !copiesLeft s id &&
  ((List.range W.waves).all fun f =>
    let w := s.wave (id * 32 + f)
    w.tokens.isEmpty && w.cpCnt = 0 && !L.bobDone.contains (bobIndex L W.index f) &&
    (match w.status with | .trapped _ => false | _ => true)) &&
  (match tget? s.gangs W.gang with
   | some G => G.conv.all fun (_, x) => x.signers.all (fun (w, _, _) => wgOf w ≠ id) && x.formed.isEmpty
   | none => true)

/-- A wave as at first placement; its hold of the bobbin stands, which belongs to the launch. -/
def restartWave (L : Launch) (H : Header) (w : Wave) : Wave := { startWave L H with hold := w.hold }

/-- `workgroup flush` (R368): the workgroup's state is discarded and its core is free; it is placed again as at first
placement by a restore. -/
def execWorkgroupFlush (wg : Nat) (s : State) : Res :=
  match tget? s.wgs wg with
  | none => .next s
  | some W =>
    match (tget? s.launches W.launch).bind fun L => L.header.map fun H => (L, H) with
    | none => .next s
    | some (L, H) =>
      if !flushReady s wg W L then .next s else
      let s := s.modCore W.core fun c => { c with fifo := c.fifo.filter fun p => wgOf p.wave ≠ wg }
      let s := (List.range W.waves).foldl (fun s f => s.modWave (wg * 32 + f) fun w => restartWave L H w) s
      let s := s.modGang W.gang fun G => { G with res := tfilter G.res fun _ r => r.owner ≠ wg }
      let mem := memClear s.mem (scrKey wg 0) (2 ^ 20)
      let s := { s with mem := (List.range W.waves).foldl (fun m f => memClear m (prvBase (wg * 32 + f) H.priv) (128 * H.priv)) mem }
      .next (s.modWg wg fun W => { W with resident := false, leaving := none, bars := [], stash := [], chain := false, inChain := false })

/-! ### A gang that cannot find room (R346) -/

/-- The sublists of a length, lexicographically first first. -/
def sublistsOf {α : Type} : Nat → List α → List (List α)
  | 0, _ => [[]]
  | _ + 1, [] => []
  | n + 1, x :: xs => (sublistsOf n xs).map (x :: ·) ++ sublistsOf (n + 1) xs

/-- The gangs resident on a cluster. -/
def gangsOn (s : State) (cl : Nat) : List Nat :=
  (s.gangs.filter fun (_, G) => G.cluster = cl && G.wgs.any fun id => match tget? s.wgs id with | some W => W.held | none => false).map (·.1)

/-- The state with the workgroups of gangs gone from their cores and clusters, to ask what would then fit. -/
def State.without (s : State) (gs : List Nat) : State :=
  let away (W : Workgroup) : Workgroup := if gs.contains W.gang then { W with resident := false } else W
  { s with wgs := tmap s.wgs (fun _ W => away W), gangs := tfilter s.gangs fun k _ => !gs.contains k }

/-- Whether the cores of a cluster have room for the workgroups of what moves there: the cores that they map to in deterministic
mode, else as many cores as the gang has workgroups. -/
def gangFits (s : State) (ids : List Nat) (det : Bool) (L : Launch) (H : Header) (cl : Nat) : Bool :=
  let c1 := L.counts.headD 1
  let live := ids.filter (wgLive s)
  if det then
    let at_ (core : Nat) : Nat := (live.filter fun id =>
      match tget? s.wgs id with | some W => detCore cl (W.index % 16) = core | none => false).length
    (enabledCores cl).all fun c => ((coreLoad s (16 * cl + c)).plus (wgLoad H c1 (at_ (16 * cl + c)))).fits
  else live.length ≤ ((enabledCores cl).filter fun c =>
    ((coreLoad s (16 * cl + c)).plus (wgLoad H c1 1)).fits && (restoreBind s L cl c).isSome).length

/-- Whether another cluster of its binds can take a gang. -/
def movable (s : State) (gang : Nat) : Bool :=
  match tget? s.gangs gang with
  | none => false
  | some G =>
    match (tget? s.launches G.launch).bind fun L => L.header.bind fun H => (tget? s.queues L.queue).map fun q => (L, H, q) with
    | none => false
    | some (L, H, q) =>
      let gone := (imageOf s gang G q.det).map (·.1)
      let away (W : Workgroup) : Workgroup := if gone.contains W.gang then { W with resident := false } else W
      let t : State := { s with wgs := tmap s.wgs fun _ W => away W }
      (queueClusters s (queuePart s q) L.queue).any fun cl =>
        cl ≠ G.cluster && clusterTakes t gang G L H cl && gangFits t ((imageOf s gang G q.det).flatMap fun (_, V) => V.wgs) q.det L H cl

/-- Whether gangs leave with every resident gang that has to move with one of them (R347). -/
def wholeImages (s : State) (gs : List Nat) : Bool :=
  gs.all fun g => match tget? s.gangs g with
    | none => true
    | some G =>
      let det := match (tget? s.launches G.launch).bind fun L => tget? s.queues L.queue with | some q => q.det | none => false
      (imageOf s g G det).all fun (k, _) => gs.contains k || !(gangsOn s G.cluster).contains k

/-- The fewest gangs that must leave a cluster to make room for a stalled candidate. -/
def gangsToLeave (s : State) (part k : Nat) (L : Launch) (H : Header) (det : Bool) (cl : Nat) : Option (List Nat) :=
  let gs := (gangsOn s cl).filter (movable s)
  (List.range (gs.length + 1)).findSome? fun n => (sublistsOf n gs).find? fun xs => wholeImages s xs &&
    match (if det then placeDet (s.without xs) part k L H else placeOn (s.without xs) part k L H cl) with
    | some p => p.cluster = cl
    | none => false

/-- Whether the cluster that firmware clears for a candidate can still be cleared (R346). -/
def clearStands (s : State) (part : Nat) (x : Stall) (L : Launch) (H : Header) (det : Bool) : Bool :=
  match x.clear with
  | none => false
  | some cl => (gangsToLeave s part x.launch L H det cl).isSome

/-- `gang stall` (R346): after 4096 rounds firmware clears the cluster where the fewest gangs must leave, and it chooses again
when that one cannot be cleared. -/
def execGangStall (part cluster : Nat) (s : State) : Res :=
  match tget? s.stalls part with
  | none => .next s
  | some x =>
    match (tget? s.launches x.launch).bind fun L => L.header.bind fun H => (tget? s.queues L.queue).map fun q => (L, H, q) with
    | none => .next s
    | some (L, H, q) =>
      if x.rounds < 4096 || clearStands s part x L H q.det then .next s else
      let all := (queueClusters s part L.queue).filterMap fun cl => (gangsToLeave s part x.launch L H q.det cl).map fun gs => (cl, gs)
      match all.find? fun (cl, _) => cl = cluster with
      | none => .next s
      | some (_, gs) =>
        if all.any fun (_, hs) => hs.length < gs.length then .next s else
        let go (W : Workgroup) : Workgroup :=
          if gs.contains W.gang && W.held && W.leaving.isNone && !W.ended then { W with leaving := some none } else W
        .next { s with
          stalls := tput s.stalls part { x with clear := some cluster }
          gangs := tmap s.gangs fun k G => if gs.contains k then { G with migrate := true } else G
          wgs := tmap s.wgs fun _ W => go W }

/-! ### Memory that falls short (R352) -/

/-- A range that a mark names: base, length, and the graph of `.recomp`. -/
def EbbMark.range : EbbMark → Nat × Nat × DWord
  | .recomp b n g => (b, n, g)
  | .needs b n _ _ => (b, n, 0)

/-- The next range of a queue's frames, in ascending sequence, that firmware may reclaim. -/
def nextReclaim (c : Context) (q : Queue) : Option (Nat × Nat × DWord) :=
  ((q.frames.flatMap fun (_, f) => f.marks).map EbbMark.range).find? fun (b, _, _) => (tget? c.ranges b).isNone

/-- The bytes of a range's pages made open, page by page of 64 KiB (log entry 3). -/
def State.scramble (s : State) (c : Context) (base len : Nat) : State :=
  (List.range (len / 65536)).foldl (fun s i =>
    match walk s c (base + 65536 * i) with
    | .ok p => { (s.writeAt p.key (openAt s 0 65536)) with free := s.free + 65536 }
    | .error _ => s) s

/-- `memory reclaim` (R352): below the watermark, the next range that marks name is dropped where a graph rebuilds it, else
its copy to host memory starts. -/
def execMemoryReclaim (ctx : Nat) (base : DWord) (s : State) : Res :=
  match tget? s.ctxs ctx with
  | none => .next s
  | some c =>
    let qs := s.queues.filter fun (_, q) => q.ctx = ctx
    match qs.findSome? fun (_, q) => (nextReclaim c q).bind fun x => if x.1 = base.toNat then some x else none with
    | none => .next s
    | some (b, n, _) =>
      let graph := qs.findSome? fun (_, q) => q.frames.findSome? fun (_, f) => f.marks.findSome? fun m => match m with
        | .recomp x _ g => if x = b then some g else none
        | .needs .. => none
      let low := Config.freeMemory s.free < c.watermark
      let s := { s with free := s.free + 1 }
      if !low then .next s else
      match graph with
      | some g => .next ((s.scramble c b n).modCtx ctx fun c => { c with ranges := tput c.ranges b ⟨n, .dropped, g⟩ })
      | none => .next (s.modCtx ctx fun c => { c with ranges := tput c.ranges b ⟨n, .outward, 0⟩ })

/-- A reclaimed range of a context. -/
def rangeAt (s : State) (ctx : Nat) (base : DWord) : Option RangeRec := (tget? s.ctxs ctx).bind fun c => tget? c.ranges base.toNat

/-- `offload copy complete` (R352): the outward copy is whole and the device pages are free. -/
def execOffloadCopyComplete (ctx : Nat) (base : DWord) (s : State) : Res :=
  match rangeAt s ctx base with
  | some r => .next (if r.state == .outward then s.modCtx ctx fun c => { c with ranges := tput c.ranges base.toNat { r with state := .offloaded } } else s)
  | none => .next s

/-- Whether a graph that rebuilds a range is still offered or in flight. -/
def graphRuns (s : State) (ctx : Nat) (graph : DWord) : Bool :=
  (s.launches.any fun (_, L) => L.ctx = ctx && L.graph && L.target = graph && L.state != .complete) ||
  s.queues.any fun (_, q) => q.ctx = ctx && q.offers.any fun o => match o.bytes with
    | some r => leAt r 0 8 = graph.toNat && bitOf (leAt r 0x1E 2) 1
    | none => false

/-- `range return complete` (R352): the range is resident again, and what waited for it goes on. -/
def execRangeReturnComplete (ctx : Nat) (base : DWord) (s : State) : Res :=
  match rangeAt s ctx base with
  | some r =>
    if r.state == .returning && (r.graph = 0 || !graphRuns s ctx r.graph) then
      .next ((s.modCtx ctx fun c => { c with ranges := tdel c.ranges base.toNat }).unstall ctx)
    else .next s
  | none => .next s

/-! ### Resolving faults and traps (R362, R363, R365) -/

/-- A workgroup ended by system software (R363): its issue stops here; the rest follows when what it started has
completed, at its retirement. -/
def State.endWg (s : State) (id : Nat) : State := s.modWg id fun W => { W with ended := true, leaving := none, saveFail := [] }

/-- A token answered. -/
def State.dropToken (s : State) (ctx tok : Nat) : State := s.modCtx ctx fun c => { c with tokens := tdel c.tokens tok }

/-- A wave whose tokens are all answered goes on (R24, R362). -/
def State.resume (s : State) (wave tok : Nat) : State :=
  s.modWave wave fun w =>
    let w := { w with tokens := w.tokens.filter (· ≠ tok) }
    if !w.tokens.isEmpty || w.status != .stopped then w
    else { w with status := if !w.pairs.isEmpty then .waiting .retry else if !w.tris.isEmpty then .waiting .submitted else .ready }

/-- The lanes of a record advanced without effect (R362). -/
def skipLanes (w : Wave) (lanes : LaneMask) : Wave :=
  (lanesOf lanes).foldl (fun w l => if w.pc l == exitedPc then w else w.setPc l (nextPc (w.pc l)))
    { w with redo := false, done := 0, moored := 0, emitBad := if w.pairs.isEmpty then [] else w.emitBad }

/-- The held contribution of a consumed report applied once; the report stands again where it still cannot be (R192). -/
def State.applyHeld (s : State) (ctx wave : Nat) (r : Report) : State :=
  match r.held with
  | none => s
  | some (va, x) =>
    let t : Option State := (tget? s.ctxs ctx).bind fun c =>
      match translate s none ctx c va.toNat .write with | .ok p => s.bwAdd ctx p.key va.toNat x | .error _ => none
    t.getD (s.modWave wave fun w => { w with reports := w.reports ++ [r] })

/-- The reply to a lane's record; none where the action is illegal. DESIGN CHOICE: SKIP drops the contribution that a record of 0x42
holds (R192), and RETRY of one of 0x51 runs `brkpt` again (R210; log entry 65). -/
def State.replyLanes (s : State) (ctx tok wave : Nat) (lanes : LaneMask) (code : Byte) (emit : Bool) (reports : List Report)
    (action : Nat) : Option State :=
  let s0 := s.dropToken ctx tok
  match action with
  | 0 =>
    let s := reports.foldl (fun s r => s.applyHeld ctx wave r) s0
    some ((s.resume wave tok).modWave wave fun w => { w with redo := w.redo || reports.isEmpty })
  | 1 =>
    if code == 0x72 || emit then none
    else if !(s.wave wave).tris.isEmpty then
      let s := (s0.modWave wave fun w => { w with tris := w.tris.drop 1 }).resume wave tok
      some (if (s.wave wave).tris.isEmpty then
        (s.modWave wave fun w => { w with status := .waiting .submitted }).endTriangles wave else s)
    else some ((s0.modWave wave fun w => skipLanes w lanes).resume wave tok)
  | 2 => some (s0.endWg (wgOf wave))
  | _ => none

/-- A paused operation whose status word stays unwritten: a record with no token (R245, R283, R289). -/
def State.untold (s : State) (ctx : Nat) (x : Token) (pc : DWord) (seq queue core : Nat) (wid : DWord) : State :=
  (s.engineFault ctx x.code x.addr pc seq queue core wid true none).2

/-- A sort continued or ended (R243, R245). -/
def State.replySort (s : State) (x : Token) (id : Nat) (o : SortOp) (stop : Bool) : State :=
  if !stop then { s with sorts := tput s.sorts id { o with paused := none } }
  else if o.atStatus then (s.untold o.ctx x o.pc o.seq o.queue o.core o.wid).endSort id o
  else { s with sorts := tput s.sorts id { o with paused := none, ran := some (o.count, false, x.code) } }

/-- A resolve ended: a held report of its lane (R222, R258). -/
def State.stopResolve (s : State) (x : Token) (id : Nat) (o : ResolveOp) : State :=
  s.report o.wave o.pc ⟨x.code, x.addr, o.lane, 5, none, none, id, 0, true, 2 * id⟩

/-- A collective continued or ended (R289). -/
def State.replyColl (s : State) (x : Token) (o : CollOp) (stop : Bool) : State :=
  let id := o.cid.toNat
  if !stop then { s with colls := tput s.colls id { o with paused := none } }
  else if o.over then
    let s := (s.untold o.ctx x o.pc o.seq o.queue o.core o.wid).modCluster (o.core / 16) fun c => { c with locks := c.locks.filter fun k => k.op ≠ o.lock }
    ({ s with colls := tdel s.colls id }).applyComp o.det o.ctx o.comp
  else s.abortColl { o with paused := none } 3 s.fabric.index x.code true

/-- The hoop entry that a token names: its workgroup, place and entry. -/
def entryOf (s : State) (tok : Nat) : Option (Nat × Nat × HoopEntry) :=
  s.wgs.findSome? fun (id, W) => ((W.hq.zipIdx).find? fun (en, _) => en.paused = some tok).map fun (en, i) => (id, i, en)

/-- A coordinator continued or ended at its status word (R283). -/
def State.replyTide (s : State) (x : Token) (gid : Word) (c : Coord) (stop : Bool) : State :=
  if !stop then (s.putCoord gid { c with paused := none }).coordEnd gid else
  match c.commit with
  | none => s
  | some t =>
    ({ (s.untold c.ctx x t.pc t.seq t.queue t.core t.wid) with coords := tdel s.coords gid.toNat }).applyComp t.det c.ctx t.comp

/-- The reply to an engine's record (R362): 0 continues it, 2 aborts it; SKIP is illegal. -/
def State.replyEngine (s : State) (tok : Nat) (x : Token) (stop : Bool) : State :=
  match x.owner with
  | .shuttle op => match tget? s.shuttles op with
    | some o => if stop then s.abortShuttle op x.code x.addr x.write else { s with shuttles := tput s.shuttles op { o with paused := none } }
    | none => s
  | .sort id => match tget? s.sorts id with | some o => s.replySort x id o stop | none => s
  | .resolve id => match tget? s.resolves id with
    | some o => if stop then ({ s with resolves := tdel s.resolves id }).stopResolve x id o
      else { s with resolves := tput s.resolves id { o with paused := none } }
    | none => s
  | .vresolve id => match tget? s.vresolves id with
    | some o => if stop then ({ s with vresolves := tdel s.vresolves id }).stopResolve x id o
      else { s with vresolves := tput s.vresolves id { o with paused := none } }
    | none => s
  | .collective cid => match tget? s.colls cid with | some o => s.replyColl x o stop | none => s
  | .hoop _ => match entryOf s tok with
    | some (wg, i, en) => if stop then s.discardEntry wg i en x.code x.addr else s.setEntry wg i (some { en with paused := none })
    | none => s
  | .tideStatus gid => match s.coord? gid with | some c => s.replyTide x gid c stop | none => s
  | _ => s

/-- The reply to a record of a failed save (R361): the last answer retries the save, or ends the workgroup. -/
def State.replySave (s : State) (tok wg : Nat) (stop : Bool) : State :=
  let s := s.modWg wg fun W => { W with saveFail := W.saveFail.filter (· ≠ tok), saveEnd := W.saveEnd || stop }
  match tget? s.wgs wg with
  | none => s
  | some W => if W.saveFail.isEmpty && W.saveEnd then (s.endWg wg).modWg wg fun W => { W with saveEnd := false } else s

/-- FAULT_REPLY acted on (R362): none where the token or the action is refused. -/
def State.faultReply (s : State) (ctx tok : Nat) (action : Nat) : Option State :=
  match (tget? s.ctxs ctx).bind fun c => tget? c.tokens tok with
  | none => none
  | some x =>
    if 3 ≤ action then none else
    match x.owner with
    | .lanes wave lanes code _ emit reports => s.replyLanes ctx tok wave lanes code emit reports action
    | .trap _ => none
    | .save wg _ => if action = 1 then none else some ((s.dropToken ctx tok).replySave tok wg (action = 2))
    | _ => if action = 1 then none else some ((s.dropToken ctx tok).replyEngine tok x (action = 2))

/-- TRAP_REPLY acted on (R209, R365): resuming writes `s0`, acquires at `.sys` and advances the issuing lanes. -/
def State.trapReply (s : State) (ctx tok : Nat) (value : DWord) (action : Nat) : Option State :=
  match (tget? s.ctxs ctx).bind fun c => tget? c.tokens tok with
  | none => none
  | some x =>
    match x.owner, action with
    | .trap wave, 0 =>
      let s := (s.dropToken ctx tok).modWave wave fun w =>
        let w := w.setS 0 value
        let pc := w.issuePc
        { ((lanesOf w.issuingMask).foldl (fun w l => w.setPc l (nextPc pc)) w) with status := .ready }
      some (match tget? s.wgs (wgOf wave) with | some W => s.acquire W.core (wgOf wave) .sys | none => s)
    | .trap wave, 2 => some ((s.dropToken ctx tok).endWg (wgOf wave))
    | _, _ => none

end Sys2Proof.Machine
end

