-- ==== Sys2Proof/Machine/Fabric.lean ====
section
/-! DEFINITION. This device among others: requests that arrive (R103 to R105, R358), markers, writes of the host, links and
ports (R373 to R378), loss and admission (R379, R380). -/

namespace Sys2Proof.Machine

/-! ### Loss and admission (R379, R380) -/

/-- The membership of a device set. -/
def State.setMember (s : State) (dev : Nat) (m : Member) : State :=
  { s with fabric := { s.fabric with members := tput s.fabric.members dev m } }

/-- The port towards a device changed. -/
def State.modPortTo (s : State) (dev : Nat) (f : Port → Port) : State :=
  match s.fabric.portTo dev with
  | none => s
  | some k => { s with fabric := { s.fabric with ports := tput s.fabric.ports k (f (s.fabric.port k)) } }

/-- A device lost (R379), acted on once: fenced, its ports down, the notice flooded, collectives and tides told. Outstanding
requests to it fault 0x41 when they complete; its routes are gone. A device that is fenced itself floods nothing. -/
def State.deviceLost (s : State) (dev : Nat) : State :=
  if s.fabric.member dev == .fenced then s else
  let heard := !s.fabric.fencedSelf
  let s := (s.setMember dev .fenced).modPortTo dev fun p => { p with up := false, cong := false, reason := 5 }
  let s := if dev = s.fabric.index then { s with fabric := { s.fabric with fencedSelf := true } } else s
  ((((if heard then s.emit (.lossNotice dev) else s)).flyingLost dev).collLoss dev).tideLoss dev

/-- A device admitted (R380), acted on once: it is a member in every router table, and the admission is flooded. -/
def State.takeIn (s : State) (dev : Nat) : State :=
  if s.fabric.member dev == .member then s
  else if s.fabric.fencedSelf then s.setMember dev .member
  else (s.setMember dev .member).emit (.admission dev)

/-- `device loss notice` (R379). -/
def execDeviceLossNotice (dev : Nat) (s : State) : Res := .next (if namesDevice s dev then s.deviceLost dev else s)

/-- `admission notice` (R380): every device that another admits becomes a member. -/
def execAdmissionNotice (dev : Nat) (s : State) : Res := .next (if namesDevice s dev then s.takeIn dev else s)

/-! ### Requests of other devices (R103 to R105, R358) -/

/-- Bytes, permission and kind of a request. -/
def reqShape : RemoteReq → Nat × Nat × AccKind
  | .load off size => (off, size, .load)
  | .store off bytes => (off, bytes.length, .store)
  | .atom op ty off _ _ => (off, atomBytes ty, .atom op)
  | .red _ ty off _ => (off, atomBytes ty, .red)
  | .tide _ _ off bytes => (off, bytes.length, .store)

/-- Whether an access kind is an atomic one, for the export's permission bit. -/
def AccKind.atomic : AccKind → Bool
  | .atom _ | .red => true | _ => false

/-- Whether a request is not idempotent, so that its reply is recorded (R105). -/
def AccKind.recorded : AccKind → Bool
  | .atom _ | .red => true | _ => false

/-- A request performed at its key: the value of the reply and the state. -/
def State.performReq (s : State) (key : Nat) (req : RemoteReq) : DWord × State :=
  let rmw (op : AtomOp) (ty : AluTy) (v w1 : DWord) : Nat × State :=
    let m := s.natAt key (atomBytes ty)
    match atomNew op ty m v.toNat w1.toNat with
    | some x => (m, s.writeAt key (leBytes (atomBytes ty) x))
    | none => (m, s)
  match req with
  | .load _ size => (BitVec.ofNat 64 (s.natAt key size), s)
  | .store _ bytes => (0, s.writeAt key bytes)
  | .atom op ty _ v w1 => let (m, s) := rmw op ty v w1; (BitVec.ofNat 64 m, s)
  | .red op ty _ v => (0, (rmw op ty v 0).2)
  | .tide .. => (0, s)

/-- One more store, atom or red applied of a source (R104). -/
def State.countReq (s : State) (src : ReqSource) (kind : AccKind) : State :=
  if kind == .load then s else
  { s with fabric := { s.fabric with counts := tput s.fabric.counts (sourceKey src) (tgetD s.fabric.counts (sourceKey src) 0 + 1) } }

/-- A request's reply, recorded where the request is not idempotent (R105). -/
def State.answerReq (s : State) (src : ReqSource) (seqno : Nat) (kind : AccKind) (v : DWord) (code : Byte) : State :=
  (if kind.recorded then s.recordReplay src ⟨seqno, v, code⟩ else s).reply src seqno v code

/-- A request refused by its target: the notice, and the end of the request (R358). -/
def State.refuseReq (s : State) (src : ReqSource) (seqno off : Nat) (kind : AccKind) (code : Byte) : State :=
  ((s.notice src.dev src.ctx off code (kind != .load)).endReq src seqno off).answerReq src seqno kind 0 code

/-- A load, store or atomic request of another device applied (R358): found, checked and translated in the exporting context; it
is kept while one before it on its line is missing, while its line is held, or until its range is back (R103, R286, R352). -/
def applyReq (src : ReqSource) (seqno prev : Nat) (req : RemoteReq) (s : State) : Res :=
  let (off, size, kind) := reqShape req
  if lineHigh s src off < prev then .next (s.holdReq src seqno prev req) else
  match translateExport s src.dev src.ctx off size kind.need kind.atomic with
  | .error f =>
    .next (if f = 0 then (s.absorbExport src off).holdReq src seqno prev req else s.refuseReq src seqno off kind f)
  | .ok (_, p) =>
    if pageRefuses kind p.host p.repl then .next (s.refuseReq src seqno off kind 0x11)
    else if tideLocked s p.key size then .next (s.holdReq src seqno prev req)
    else
      let (v, code, s) : DWord × Byte × State :=
        if badLine s p.key && kind != .store then (0, 0x40, s) else let (v, s) := s.performReq p.key req; (v, 0, s)
      .next (((s.countReq src kind).endReq src seqno off).answerReq src seqno kind v code)

/-- A request that its line's order has already passed, come again (R105): a store is discarded and answered, a load is executed
again. -/
def repeatReq (src : ReqSource) (seqno : Nat) (req : RemoteReq) (s : State) : Res :=
  let (off, size, kind) := reqShape req
  match kind with
  | .store => .next (s.reply src seqno 0 0)
  | .load =>
    match translateExport s src.dev src.ctx off size .read false with
    | .error f => .next (if f = 0 then s.absorbExport src off else (s.notice src.dev src.ctx off f false).reply src seqno 0 f)
    | .ok (_, p) =>
      if tideLocked s p.key size then .next s
      else if badLine s p.key then .next (s.reply src seqno 0 0x40)
      else .next (s.reply src seqno (s.performReq p.key req).1 0)
  | _ => .next s

/-- Whether a source's requests are taken: another device of the fabric, neither end fenced. -/
def deviceHeard (s : State) (dev : Nat) : Bool :=
  namesDevice s dev && dev ≠ s.fabric.index && !s.fabric.fencedSelf && s.fabric.member dev != .fenced

/-- `remote request apply` (R103, R105, R331, R358): a request that comes for the first time, or that was kept. -/
def execRemoteRequestApply (src : ReqSource) (n : ReqNo) (req : RemoteReq) (s : State) : Res :=
  if !deviceHeard s src.dev then .next s else
  let s := s.firstRequest src.dev src.ctx
  match req with
  | .tide gid wave off bytes => execTideWriteStage gid src n wave off bytes s
  | _ => if n.no < lineHigh s src (reqShape req).1 then .next s else applyReq src n.no n.prev req s

/-- `request retransmit` (R105): the recorded reply of a request in the replay table; a load again; a store that is not
applied already; what never arrived, for the first time. -/
def execRequestRetransmit (src : ReqSource) (n : ReqNo) (req : RemoteReq) (s : State) : Res :=
  if !deviceHeard s src.dev then .next s else
  match replayOf s src n.no, req with
  | some r, .atom .. | some r, .red .. | some r, .tide .. => .next (s.reply src n.no r.reply r.code)
  | _, _ =>
    if n.no < lineHigh s src (reqShape req).1 then repeatReq src n.no req s else execRemoteRequestApply src n req s

/-- `marker answer` (R104): this device answers a marker once the requests applied from its source have reached the marker's
number, or the answer to a marker of its own comes in. -/
def execMarkerAnswer (m : MarkerStep) (count : Nat) (s : State) : Res :=
  match m with
  | .asked src =>
    .next (if deviceHeard s src.dev && count ≤ tgetD s.fabric.counts (sourceKey src) 0 then
        s.sendTo src.dev (.markerAnswer src count) else s)
  | .answered core dev => .next (if deviceHeard s dev then s.markerAnswered core dev count else s)

/-- `host memory write`: the host writes its own memory, device memory below 2^40, or the command ring at 2^40 (R108, R334). -/
def execHostMemoryWrite (host : Bool) (addr : Nat) (bytes : List Byte) (s : State) : Res :=
  let n := bytes.length
  if host then .next (if addr + n ≤ 2 ^ 62 then s.writeAt (hostKey addr) bytes else s)
  else if addr + n ≤ 2 ^ 40 then
    .next (if (List.range n).any fun i => tideLocked s (devKey addr + i) 1 then s else s.writeAt (devKey addr) bytes)
  else if 2 ^ 40 ≤ addr ∧ addr + n ≤ 2 ^ 40 + 0x1000 then .next (s.writeAt (barKey (addr - 2 ^ 40)) bytes)
  else .next s

/-! ### Links (R373, R376, R378) -/

/-- The device's degree: its wired ports. -/
def Fabric.degree (f : Fabric) : Nat := (neighbours f.q f.index).length
/-- Whether a port is wired and its device takes part. -/
def livePort (s : State) (port : Nat) : Bool := s.fabric.configured && port < s.fabric.degree && !s.fabric.fencedSelf

/-- A port changed. -/
def State.modPort (s : State) (k : Nat) (f : Port → Port) : State :=
  { s with fabric := { s.fabric with ports := tput s.fabric.ports k (f (s.fabric.port k)) } }

/-- What keeps a link down, by REASON; this device speaks protocol 1.0 and no lower major. -/
def trainReason (s : State) (port : Nat) (peer : TrainRec) : Nat :=
  let f := s.fabric
  if peer.q ≠ f.q ∨ peer.fabricId ≠ f.fid.toNat then 1
  else if peer.major < 1 ∨ 1 < peer.lowest then 2
  else if (neighbours f.q f.index)[port]? ≠ some peer.index then 3
  else 0

/-- The training record of this end (R378): protocol 1.0 and no lower major, no feature bit, the command set's version, and
containers of version 1.0. -/
def trainBytes (f : Fabric) : List Byte :=
  leBytes 1 1 ++ leBytes 1 0 ++ leBytes 1 1 ++ leBytes 1 f.q ++ leBytes 2 f.index ++ leBytes 2 0 ++ leBytes 4 f.fid.toNat ++
  leBytes 4 0 ++ leBytes 4 Config.firmwareVersion.toNat ++ leBytes 2 1 ++ leBytes 2 0 ++ leBytes 8 0

/-- `link training` (R373, R378): this end's record goes out, and the peer's is judged; both versions being 1 or higher with 1
supported, the lower is 1.0. -/
def execLinkTraining (port : Nat) (peer : TrainRec) (s : State) : Res :=
  if !livePort s port then .next s else
  let s := s.emit (.training port (trainBytes s.fabric))
  let r := trainReason s port peer
  if r ≠ 0 then .next (s.modPort port fun p => { p with up := false, cong := false, reason := r }) else
  let s := s.modPort port fun p => { p with up := true, cong := false, depth := 0, peer := peer.index, major := 1, minor := 0, reason := 0 }
  .next (match s.fabric.member peer.index with
    | .absent | .fenced => s.setMember peer.index .joining
    | _ => s)

/-- `packet forward` (R375, R380): a packet that came in by a port leaves towards its next target, minimally; only a member forwards,
and between members. -/
def execPacketForward (port dst : Nat) (s : State) : Res :=
  let f := s.fabric
  if !livePort s port || !(f.port port).up || !f.forwards f.index || dst = f.index || !namesDevice s dst || !f.forwards dst ||
      f.member (f.port port).peer == .joining then .next s else
  match minPath f f.index dst with
  | some path => .next (match path.head?.bind f.portTo with
    | some k => if (f.port k).up then (s.emit (.forward k dst)).queueFlit path else s
    | none => s)
  | none => .next s

/-- `flit replay` (R376): a link unit is sent again, without architectural trace. -/
def execFlitReplay (_port : Nat) (s : State) : Res := .next s

/-- `link acknowledgement timeout` (R376). -/
def execLinkAckTimeout (port : Nat) (s : State) : Res :=
  .next (if livePort s port then s.modPort port fun p =>
      if p.reason = 5 then p else { p with up := false, cong := false, reason := 4 }
    else s)

/-- `port congestion mark` (R376): a queue above the threshold; at most 512 flits. -/
def execPortCongestionMark (port depth : Nat) (s : State) : Res :=
  if !livePort s port || !(s.fabric.port port).up || depth ≤ s.fabric.thresh || 512 < depth then .next s else
  let s := s.modPort port fun p => { p with depth, cong := true }
  .next (s.emit (.stallHint (s.fabric.port port).peer))

/-- `port congestion clear` (R376): a marked port's queue at half the threshold or below. -/
def execPortCongestionClear (port depth : Nat) (s : State) : Res :=
  if !livePort s port || s.fabric.thresh < 2 * depth then .next s
  else .next (s.modPort port fun p => { p with depth, cong := false })

end Sys2Proof.Machine
end

