-- ==== Sys2Proof/Machine/Commands.lean ====
section
/-! DEFINITION. The host command set (R334 to R339, R343, R356, R357, R377, R378, R381, R388 to R392). -/

namespace Sys2Proof.Machine

/-! ### Replies (R336, R338) -/

/-- A command's outcome: a status other than 0, with no effect or with one, or its results and the state. -/
inductive CmdOut where
  | refuse (status : Nat)
  | failed (status : Nat) (s : State)
  | ok (results : List Byte) (s : State)

/-- A reply record written at its tag's place, and the reply interrupt (R334, R336). -/
def State.hostReply (s : State) (opcode : Nat) (tag : Word) (status : Nat) (results : List Byte) : State :=
  let bytes := leBytes 2 opcode ++ leBytes 2 status ++ leBytes 4 tag.toNat ++ (results ++ leBytes 56 0).take 56
  (s.writeAt (barKey (0x1000 + 64 * (tag.toNat % 64))) bytes).emit .replyInterrupt

/-- What refuses a command whatever its arguments: VERSION first (status 2), the agreed version (1), the stage (5). -/
def commandBar (s : State) (opcode stage : Nat) : Option Nat :=
  if opcode ≤ 2 then none else
  match s.sys.agreed with
  | none => some 2
  | some v => if v.toNat < 0x10000 then some 1 else if s.sys.stage < stage then some 5 else none

/-- A command run and answered. -/
def runCommand (opcode stage : Nat) (tag : Word) (s : State) (k : State → CmdOut) : Res :=
  let out : CmdOut := match commandBar s opcode stage with | some st => .refuse st | none => k s
  match out with
  | .refuse st => .next (s.hostReply opcode tag st [])
  | .failed st s => .next (s.hostReply opcode tag st [])
  | .ok r s => .next (s.hostReply opcode tag 0 r)

/-- A command that succeeds unless a status refuses it. -/
def guardCmd (status : Option Nat) (r : List Byte) (s : State) : CmdOut :=
  match status with | some st => .refuse st | none => .ok r s

/-- The first status whose condition holds. -/
def firstStatus (cs : List (Bool × Nat)) : Option Nat := (cs.find? (·.1)).map (·.2)

/-- An opcode that the agreed version does not have (R337, R338). -/
def State.unknownCommand (s : State) (opcode : Nat) (tag : Word) : State :=
  s.hostReply opcode tag (if s.sys.agreed.isNone then 2 else 1) []

/-- A word of the management BAR as the host reads it (R334). -/
def barRead (s : State) (off : Nat) : Word :=
  if off = 0x2000 then BitVec.ofNat 32 s.sys.stage
  else if off = 0x2004 then Config.firmwareVersion
  else BitVec.ofNat 32 (s.natAt (barKey off) 4)

/-! ### Version, stage, partitions -/

/-- `VERSION` (R337): the lower of the two versions is agreed. -/
def execVersion (tag : Word) (major minor : BitVec 16) (s : State) : Res :=
  runCommand 0x0001 0 tag s fun s =>
    let host : Word := major ++ minor
    let v := if host.toNat < Config.firmwareVersion.toNat then host else Config.firmwareVersion
    .ok (leBytes 4 Config.firmwareVersion.toNat ++ leBytes 4 v.toNat) { s with sys := { s.sys with agreed := some v } }

/-- `STAGE` (R337). -/
def execStage (tag : Word) (s : State) : Res := runCommand 0x0002 0 tag s fun s => .ok (leBytes 4 s.sys.stage) s

/-- `STAGE_DIAG` (R377, R388). -/
def execStageDiag (tag : Word) (s : State) : Res := runCommand 0x0004 0 tag s fun s => .ok (leBytes 4 s.sys.hold) s

/-- `PART_SET` (R329). -/
def execPartSet (tag : Word) (p : Word) (s : State) : Res :=
  runCommand 0x0010 2 tag s fun s =>
    guardCmd (firstStatus [(!([1, 2, 4, 8, 16].contains p.toNat), 3), (!s.ctxs.isEmpty, 4)]) []
      { s with sys := { s.sys with parts := p.toNat } }

/-! ### Contexts (R331, R359) -/

/-- `n` bytes of host memory. -/
def hostBytes (s : State) (a : DWord) (n : Nat) : List Byte := s.bytesAt (hostKey a.toNat) n

/-- Whether a number is a power of two between bounds. -/
def powerIn (x lo hi : Nat) : Bool := lo ≤ x && x ≤ hi && x = 2 ^ x.log2

/-- A ring control block read and validated (R359). -/
def ringOf (s : State) (ctx : Nat) (c : Context) (va : DWord) : Option Ring :=
  match readVa s ctx c va.toNat 64 with
  | .error _ => none
  | .ok bs =>
    let r : Ring := { ctl := va, base := BitVec.ofNat 64 (leAt bs 0 8), entries := leAt bs 8 4, vector := leAt bs 0xC 2 }
    if r.base.toNat % 64 ≠ 0 ∨ !powerIn r.entries 64 65536 ∨ Config.msixVectors ≤ r.vector ∨ leAt bs 0xE 2 ≠ 0 ∨ leAt bs 0x18 40 ≠ 0
    then none else some r

/-- The context that a descriptor describes, before its rings and exports are read. -/
def contextOf (d : List Byte) : Context :=
  { part := leAt d 0 1, priv := bitOf (leAt d 1 1) 0, slotq := leAt d 2 1, ptroot := leAt d 8 8
    spill := BitVec.ofNat 64 (leAt d 0x10 8), spillsize := leAt d 0x18 8, trapring := none, faultring := none
    watermark := leAt d 0x30 8, staging := leAt d 0x38 4, nexport := leAt d 0x3C 4, exports := BitVec.ofNat 64 (leAt d 0x40 8)
    pinpage := BitVec.ofNat 64 (leAt d 0x48 8) }

/-- The staging bytes that other contexts hold. -/
def stagingHeld (s : State) : Nat := s.ctxs.foldl (fun n (_, c) => n + c.staging) 0

/-- Whether a descriptor breaks R331 by itself. -/
def badDescriptor (s : State) (d : List Byte) : Bool :=
  s.sys.parts ≤ leAt d 0 1 || 1 < leAt d 1 1 || 32 < leAt d 2 1 || leAt d 3 5 ≠ 0 || leAt d 8 8 % 4096 ≠ 0 ||
  leAt d 0x10 8 % 65536 ≠ 0 || leAt d 0x18 8 % 65536 ≠ 0 || leAt d 0x20 8 % 64 ≠ 0 ||
  leAt d 0x28 8 = 0 || leAt d 0x28 8 % 64 ≠ 0 || leAt d 0x38 4 % 65536 ≠ 0 || 2 ^ 27 < leAt d 0x38 4 || 4096 < leAt d 0x3C 4 ||
  (leAt d 0x3C 4 ≠ 0 && leAt d 0x40 8 % 32 ≠ 0) || leAt d 0x48 8 % 65536 ≠ 0 || leAt d 0x50 48 ≠ 0

/-- A context with its rings and exports, where they are valid. -/
def completeContext (s : State) (ctx : Nat) (d : List Byte) : Option Context := do
  let c := contextOf d
  let fault ← ringOf s ctx c (BitVec.ofNat 64 (leAt d 0x28 8))
  let trap ← if leAt d 0x20 8 = 0 then some none else (ringOf s ctx c (BitVec.ofNat 64 (leAt d 0x20 8))).map some
  let table ← goodExports s ctx c
  some { c with faultring := some fault, trapring := trap, table }

/-- `CTX_CREATE` (R331): the lowest free context index. -/
def execCtxCreate (tag : Word) (va : DWord) (s : State) : Res :=
  runCommand 0x0020 3 tag s fun s =>
    let d := hostBytes s va 128
    match (List.range 4096).find? fun k => (tget? s.ctxs k).isNone with
    | none => .refuse 6
    | some k =>
      if badDescriptor s d then .refuse 3
      else if 2 ^ 27 < stagingHeld s + leAt d 0x38 4 then .refuse 3
      else match completeContext s k d with
        | none => .refuse 3
        | some c => .ok (leBytes 4 k) { s with ctxs := tput s.ctxs k c }

/-- What the cores hold of a context's translations in a range, dropped; length 0 means all (R356). -/
def State.dropTlb (s : State) (ctx va len : Nat) : State :=
  let hit (v n : Nat) : Bool := len = 0 || (v < va + len && va < v + n)
  { s with cores := tmap s.cores fun _ k => { k with
      tlb := tfilter k.tlb fun key _ => !(key / 2 ^ 48 = ctx && hit (key % 2 ^ 48 * 65536) 65536)
      lines := tfilter k.lines fun key _ => !(key / 2 ^ 64 = ctx && hit (key % 2 ^ 64 * 64) 64) } }

/-- Queues gone with their binds and completed launches. -/
def State.dropQueues (s : State) (p : Nat → Queue → Bool) : State :=
  let gone := (s.queues.filter fun (k, q) => p k q).map (·.1)
  { s with
    queues := tfilter s.queues fun k _ => !gone.contains k
    binds := tfilter s.binds fun _ b => !gone.contains b.queue
    launches := tfilter s.launches fun _ L => !gone.contains L.queue }

/-- `CTX_DESTROY` (R337, R351): its queues go with it. -/
def execCtxDestroy (tag : Word) (ctx : Word) (s : State) : Res :=
  runCommand 0x0021 3 tag s fun s =>
    let k := ctx.toNat
    guardCmd (firstStatus [((tget? s.ctxs k).isNone, 3), (s.launches.any fun (_, L) => L.ctx = k && L.state != .complete, 4)]) []
      { ((s.dropTlb k 0 0).dropQueues fun _ q => q.ctx = k) with
        ctxs := tdel s.ctxs k, bins := tfilter s.bins fun key _ => key / 2 ^ 64 ≠ k }

/-- `EXPORT_SYNC` (R331). -/
def execExportSync (tag : Word) (ctx : Word) (s : State) : Res :=
  runCommand 0x0022 3 tag s fun s =>
    match (tget? s.ctxs ctx.toNat).bind fun c => goodExports s ctx.toNat c with
    | none => .refuse 3
    | some xs => .ok [] (s.modCtx ctx.toNat fun c => { c with table := xs })

/-- `SPILL_SET` (R337): the records move into the new region. -/
def execSpillSet (tag : Word) (ctx : Word) (va size : DWord) (s : State) : Res :=
  runCommand 0x0023 3 tag s fun s =>
    match tget? s.ctxs ctx.toNat with
    | none => .refuse 3
    | some c =>
      if va.toNat % 65536 ≠ 0 ∨ size.toNat % 65536 ≠ 0 ∨ size.toNat < 48 * c.spills.length then .refuse 3 else
      let s := c.spills.zipIdx.foldl (fun s ((word, a), i) =>
        (s.writeVa ctx.toNat (va.toNat + 48 * i) (spillBytes a word)).getD s) s
      .ok [] (s.modCtx ctx.toNat fun c => { c with
        spill := va, spillsize := size.toNat, spills := c.spills.zipIdx.map fun ((word, a), i) => (word, { a with place := i }) })

/-! ### Queues (R339, R342, R343) -/

/-- The queue that a descriptor describes. -/
def queueFrom (d : List Byte) : Queue :=
  let flags := leAt d 0xF 1
  { ring := BitVec.ofNat 64 (leAt d 0 8), entries := leAt d 8 4, ctx := leAt d 0xC 2, prio := leAt d 0xE 1, det := bitOf flags 0
    always := bitOf flags 1, gang := leAt d 0x10 1, headwb := BitVec.ofNat 64 (leAt d 0x18 8), ebb := BitVec.ofNat 64 (leAt d 0x20 8)
    ebbsize := leAt d 0x28 8, rejlog := BitVec.ofNat 64 (leAt d 0x30 8) }

/-- Whether a queue descriptor breaks R339. -/
def badQueue (s : State) (d : List Byte) : Bool :=
  let flags := leAt d 0xF 1
  leAt d 0 8 % 64 ≠ 0 || !powerIn (leAt d 8 4) 1 65536 || leAt d 0x10 1 = 0 || 16 < leAt d 0x10 1 || 4 ≤ flags ||
  (match tget? s.ctxs (leAt d 0xC 2) with | none => true | some c => bitOf flags 0 && c.pinpage = 0) ||
  leAt d 0x11 7 ≠ 0 || leAt d 0x18 8 % 4 ≠ 0 || leAt d 0x20 8 % 65536 ≠ 0 || leAt d 0x28 8 = 0 || leAt d 0x28 8 % 65536 ≠ 0 ||
  leAt d 0x30 8 % 4096 ≠ 0 || leAt d 0x38 8 ≠ 0

/-- `Q_CREATE` (R339). -/
def execQCreate (tag : Word) (queue : Word) (va : DWord) (s : State) : Res :=
  runCommand 0x0030 3 tag s fun s =>
    let d := hostBytes s va 64
    let k := queue.toNat
    if k = 0 ∨ 8191 < k ∨ (tget? s.queues k).isSome ∨ badQueue s d then .refuse 3
    else .ok [] ({ s with queues := tput s.queues k (queueFrom d) }.setNat (barKey (0x120000 + 8 * k)) 4 0)

/-- `Q_DESTROY` (R339). -/
def execQDestroy (tag : Word) (queue : Word) (s : State) : Res :=
  runCommand 0x0031 3 tag s fun s =>
    guardCmd (firstStatus [((tget? s.queues queue.toNat).isNone, 3), (inFlight s queue.toNat ≠ 0, 4)]) []
      (s.dropQueues fun k _ => k = queue.toNat)

/-- `Q_QUERY` (R335, R337): a queue that does not exist reads as a state word without VALID. -/
def execQQuery (tag : Word) (queue : Word) (s : State) : Res :=
  runCommand 0x0032 3 tag s fun s =>
    let k := queue.toNat
    if 8191 < k then .refuse 3
    else if k = 0 then
      .ok (leBytes 8 (1 + (if s.sys.cmdErr then 8 else 0)) ++ leBytes 4 s.sys.cmdHead.toNat ++ leBytes 4 s.sys.cmdTail.toNat) s
    else
      let (h, t) : Word × Word := match tget? s.queues k with | some q => (q.head, q.tail) | none => (0, 0)
      .ok (leBytes 8 (queueWord s k) ++ leBytes 4 h.toNat ++ leBytes 4 t.toNat) s

/-- `Q_SUSPEND` (R335, R351). -/
def execQSuspend (tag : Word) (queue : Word) (s : State) : Res :=
  runCommand 0x0033 3 tag s fun s =>
    guardCmd (firstStatus [((tget? s.queues queue.toNat).isNone, 3)]) [] (s.suspendQueue queue.toNat)

/-- `Q_RESUME` (R335). -/
def execQResume (tag : Word) (queue : Word) (s : State) : Res :=
  runCommand 0x0034 3 tag s fun s =>
    guardCmd (firstStatus [((tget? s.queues queue.toNat).isNone, 3)]) [] (s.resumeQueue queue.toNat)

/-- The bind that a record describes. -/
def bindOf (r : List Byte) : Bind :=
  { queue := leAt r 0 2, standing := bitOf (leAt r 2 1) 0, budget := leAt r 4 4, clusters := BitVec.ofNat 64 (leAt r 8 8)
    cores := BitVec.ofNat 16 (leAt r 0x10 2) }

/-- `BIND` (R343): the lowest free of the partition's 512 slots; slots count through the partitions. -/
def execBind (tag : Word) (record : List Byte) (s : State) : Res :=
  runCommand 0x0040 3 tag s fun s =>
    let b := bindOf record
    match tget? s.queues b.queue with
    | none => .refuse 3
    | some q =>
      if 1 < leAt record 2 1 ∨ leAt record 3 1 ≠ 0 ∨ b.budget = 0 ∨ 16384 < b.budget ∨ b.clusters = 0 ∨
          2 ^ partClusters s ≤ b.clusters.toNat ∨ b.cores = 0 ∨ leAt record 0x12 14 ≠ 0 then .refuse 3
      else match (List.range 512).find? fun i => (tget? s.binds (512 * queuePart s q + i)).isNone with
        | none => .refuse 6
        | some i => .ok (leBytes 4 (512 * queuePart s q + i)) { s with binds := tput s.binds (512 * queuePart s q + i) b }

/-- `UNBIND` (R343): what it has placed runs on, and is charged to no bind. -/
def execUnbind (tag : Word) (slot : Word) (s : State) : Res :=
  runCommand 0x0041 3 tag s fun s =>
    guardCmd (firstStatus [((tget? s.binds slot.toNat).isNone, 3)]) []
      { s with
        binds := tdel s.binds slot.toNat
        wgs := tmap s.wgs fun _ W => if W.bind = some slot.toNat then { W with bind := none } else W }

/-! ### Translation, faults and traps (R356, R357) -/

/-- `TLB_INV` (R356, R357): its reply waits. -/
def execTlbInv (tag : Word) (ctx : Word) (va len : DWord) (s : State) : Res :=
  match commandBar s 0x0050 3 with
  | some st => .next (s.hostReply 0x0050 tag st [])
  | none =>
    if (tget? s.ctxs ctx.toNat).isNone ∨ va.toNat % 65536 ≠ 0 ∨ len.toNat % 65536 ≠ 0 then .next (s.hostReply 0x0050 tag 3 [])
    else .next { s with sys := { s.sys with invs := s.sys.invs ++ [(tag, ctx.toNat, va.toNat, len.toNat)] } }

/-- Whether an access translated in a context already meets a range and is still to be performed (R356). -/
def rangeBusy (s : State) (ctx va len : Nat) : Bool :=
  let hit (by_ : Nat) (a : DWord) : Bool :=
    let (k, v) := translatedAt s by_ a
    k = ctx && (len = 0 || (va < v + 8 && v < va + len))
  (s.waves.any fun (id, w) => match waveCtx s id with
    | some (k, _) => (w.loads.any fun p => p.acc.any fun x => !x.remote && hit k x.va) || w.pairs.any fun x => hit k x.va
    | none => false) ||
  s.cores.any fun (_, c) => c.fifo.any fun p => p.lanes.any fun x => !x.acc.remote && hit p.ctx x.acc.va

/-- `TLB_INV reply` (R356): once no access translated before is left, the entries of the range are dropped and the reply is
sent. -/
def execTlbInvReply (tag : Word) (s : State) : Res :=
  match s.sys.invs.find? fun (t, _) => t = tag with
  | none => .next s
  | some (t, ctx, va, len) =>
    if rangeBusy s ctx va len then .next s else
    let s := s.dropTlb ctx va len
    .next ({ s with sys := { s.sys with invs := s.sys.invs.filter fun x => x.1 != t } }.hostReply 0x0050 tag 0 [])

/-- `FAULT_REPLY` (R357, R362). -/
def execFaultReply (tag : Word) (ctx token : Word) (action : Byte) (s : State) : Res :=
  runCommand 0x0051 3 tag s fun s =>
    match s.faultReply ctx.toNat token.toNat action.toNat with
    | none => .refuse 3
    | some s => .ok [] s

/-- `TRAP_REPLY` (R357, R365). -/
def execTrapReply (tag : Word) (ctx token : Word) (value : DWord) (action : Byte) (s : State) : Res :=
  runCommand 0x0052 3 tag s fun s =>
    match s.trapReply ctx.toNat token.toNat value action.toNat with
    | none => .refuse 3
    | some s => .ok [] s

/-! ### Firmware, fabric, display, power (R377) -/

/-- The 512 bytes of a policy image's header that its signature covers: magic, version, length, and the digest of the body (R389). -/
def imageHead (image : List Byte) : List Byte := image.take 512
/-- The body of a policy image: as many bytes after its header as that gives. -/
def imageBody (image : List Byte) : List Byte := (image.drop 1024).take (leAt image 8 4)

/-- Whether a policy image may run (R389): its magic, its length, the signature of its header, and the digest of its body. DESIGN
CHOICE: the places of the fields (log entry 5). -/
def imageGood (image : List Byte) : Bool :=
  image.take 4 == [0x56, 0x50, 0x46, 0x57] && 1024 + leAt image 8 4 ≤ image.length &&
  Config.rootVerifies (imageHead image) ((image.drop 512).take 512) && sha512 (imageBody image) == (image.drop 12).take 64

/-- `FW_LOAD` (R389): an image that verifies is kept; one can be loaded at stage 0 only. -/
def execFwLoad (tag : Word) (addr len : DWord) (s : State) : Res :=
  runCommand 0x0003 0 tag s fun s =>
    if s.sys.stage ≠ 0 then .refuse 4 else
    let image := hostBytes s addr len.toNat
    let hold (n : Nat) : State := { s with sys := { s.sys with hold := n } }
    if len.toNat < 1024 || !imageGood image then .failed 3 (hold 1)
    else .ok [] { s with sys := { s.sys with image := some image, hold := if s.sys.hold = 1 then 0 else s.sys.hold } }

/-- `FABRIC_CFG` (R377): at stage 1; ports at and above the device's degree are disabled (R372, R373). -/
def execFabricCfg (tag : Word) (q : Byte) (index : BitVec 16) (fabricId seed : Word) (threshold : BitVec 16) (s : State) : Res :=
  runCommand 0x0060 1 tag s fun s =>
    if s.sys.stage ≠ 1 then .refuse 4
    else if (q ≠ 0 ∧ !fabricOrders.contains q.toNat) ∨ fabricN q.toNat ≤ index.toNat ∨ threshold = 0 ∨ 512 < threshold.toNat then
      .refuse 3
    else
      let degree := (neighbours q.toNat index.toNat).length
      let ports : Table Port := (List.range 32).map fun k => (k, { reason := if degree ≤ k then 6 else 0 })
      .ok [] { s with
        fabric := { s.fabric with
          configured := true, q := q.toNat, index := index.toNat, fid := fabricId, seed, thresh := threshold.toNat, ports
          members := [] }
        sys := { s.sys with hold := if s.sys.hold = 4 then 0 else s.sys.hold } }

/-- The word of a port (R378). -/
def Port.word (p : Port) : Nat :=
  p.peer % 65536 * 2 ^ 48 + p.major % 256 * 2 ^ 40 + p.minor % 256 * 2 ^ 32 + p.reason % 16 * 16 + (if p.cong then 2 else 0) +
  (if p.up then 1 else 0)

/-- `PORT_QUERY` (R377). -/
def execPortQuery (tag : Word) (port : Word) (s : State) : Res :=
  runCommand 0x0061 2 tag s fun s =>
    guardCmd (firstStatus [(31 < port.toNat, 3)]) (leBytes 8 (s.fabric.port port.toNat).word) s

/-- `DEV_FENCE` (R377, R379). -/
def execDevFence (tag : Word) (dev : Word) (s : State) : Res :=
  runCommand 0x0062 3 tag s fun s =>
    guardCmd (firstStatus [(!namesDevice s dev.toNat || dev.toNat = s.fabric.index, 3)]) [] (s.deviceLost dev.toNat)

/-- Whether a device is JOINING, and the state that has used an open value to know it: a device that is no neighbour trains no
link with this one, which then does not see it join (R380; log entry 3). -/
def joining (s : State) (dev : Nat) : Bool × State :=
  match s.fabric.member dev with
  | .joining => (true, s)
  | .member => (false, s)
  | .absent | .fenced =>
    if !namesDevice s dev || dev = s.fabric.index || isNeighbour s.fabric.q s.fabric.index dev then (false, s) else
    let (n, s) := s.fresh
    (n % 2 = 1, s)

/-- `DEV_ADMIT` (R377, R380). -/
def execDevAdmit (tag : Word) (dev : Word) (s : State) : Res :=
  runCommand 0x0063 3 tag s fun s =>
    let (joins, s) := joining s dev.toNat
    guardCmd (firstStatus [(!joins, 3)]) [] (s.takeIn dev.toNat)

/-- `DISP_CFG` (R381): the head shows the safe frame until a flip. -/
def execDispCfg (tag : Word) (head : Word) (va : DWord) (s : State) : Res :=
  runCommand 0x0070 0 tag s fun s =>
    let h : Head := { cfg := true, data := hostBytes s va 64, rate := (s.head head.toNat).rate }
    guardCmd (firstStatus [(3 < head.toNat || h.bad s, 3)]) [] { s with heads := tput s.heads head.toNat h }

/-- The first 0x300 bytes of an attestation report (R390). -/
def reportBody (s : State) (nonce : DWord) : List Byte :=
  let f := s.fabric
  let config := leBytes 1 f.q ++ leBytes 2 f.index ++ leBytes 4 f.fid.toNat ++ leBytes 4 f.seed.toNat ++ leBytes 2 f.thresh ++
    leBytes 4 s.sys.parts
  let fit (n : Nat) (bs : List Byte) : List Byte := (bs ++ leBytes n 0).take n
  leBytes 4 1 ++ leBytes 4 0x500 ++ hostBytes s nonce 32 ++ fit 64 Config.romDigest ++
  fit 64 (sha512 (s.sys.image.getD [])) ++ fit 64 (sha512 config) ++ leBytes 4 s.sys.stage ++
  leBytes 4 Config.firmwareVersion.toNat ++ leBytes 16 0 ++ fit 512 Config.identityModulus

/-- `ATTEST` (R377, R390). -/
def execAttest (tag : Word) (nonce report : DWord) (s : State) : Res :=
  runCommand 0x0080 1 tag s fun s =>
    if nonce.toNat % 64 ≠ 0 ∨ report.toNat % 64 ≠ 0 then .refuse 3 else
    let body := reportBody s nonce
    let sig := (Config.identitySign body ++ leBytes 512 0).take 512
    .ok (leBytes 4 0x500) (s.writeAt (hostKey report.toNat) (body ++ sig))

/-- `POWER_CAP` (R377, R392). -/
def execPowerCap (tag : Word) (watts : Word) (s : State) : Res :=
  runCommand 0x0090 0 tag s fun s =>
    guardCmd (firstStatus [(watts.toNat < 900 || 1800 < watts.toNat, 3)]) [] { s with sys := { s.sys with cap := watts.toNat } }

/-- `ERR_LOG` (R377, R391): an entry with the count of corrected errors, and the newest entries of the log that 4 KiB hold beside it.
DESIGN CHOICE: log entry 39. -/
def execErrLog (tag : Word) (va : DWord) (s : State) : Res :=
  runCommand 0x0091 0 tag s fun s =>
    if va.toNat % 4096 ≠ 0 then .refuse 3 else
    let s := s.countCorrected
    let es := (leBytes 8 s.sys.corrected ++ leBytes 56 0) :: s.sys.errors.drop (s.sys.errors.length - 63)
    .ok (leBytes 4 es.length) (s.writeAt (hostKey va.toNat) es.flatten)

end Sys2Proof.Machine
end

