-- ==== Sys2Proof/Machine/FloatOps.lean ====
section
/-! DEFINITION. The floating-point instructions (R164 to R169), one meaning each over the operand forms and the
operations of `Float` and `Elementary`. -/

namespace Sys2Proof.Machine

/-- A two-operand floating-point operation per element. -/
def flt2 (o : Alu) (f : FFmt → Rnd → Nat → Nat → Nat × Word) (s : State) : Res :=
  aluElem o true false (fun a b _ => f (tyFmt o.ty) o.rnd a b) s
/-- A one-operand floating-point operation per element. -/
def flt1 (o : Alu) (f : FFmt → Rnd → Nat → Nat × Word) (s : State) : Res :=
  aluElem o false false (fun a _ _ => f (tyFmt o.ty) o.rnd a) s
/-- A three-operand floating-point operation per element. -/
def flt3 (o : Alu) (f : FFmt → Rnd → Nat → Nat → Nat → Nat × Word) (s : State) : Res :=
  aluElem o true true (fun a b c => f (tyFmt o.ty) o.rnd a b c) s

/-- `fadd` (R165). -/
def execFadd (o : Alu) (s : State) : Res := flt2 o FFmt.add s
/-- `fsub` (R165). -/
def execFsub (o : Alu) (s : State) : Res := flt2 o FFmt.sub s
/-- `fmul` (R165). -/
def execFmul (o : Alu) (s : State) : Res := flt2 o FFmt.mul s
/-- `ffma` (R165). -/
def execFfma (o : Alu) (s : State) : Res := flt3 o FFmt.fma s
/-- `fmin` (R166). -/
def execFmin (o : Alu) (s : State) : Res := flt2 o (fun f _ a b => f.fmin a b) s
/-- `fmax` (R166). -/
def execFmax (o : Alu) (s : State) : Res := flt2 o (fun f _ a b => f.fmax a b) s
/-- `fclamp` (R166). -/
def execFclamp (o : Alu) (s : State) : Res := flt3 o (fun f _ a b c => f.clamp a b c) s
/-- `fcmp` (R166). -/
def execFcmp (o : Alu) (cc : FCond) (cmb : Combine) (s : State) : Res :=
  aluCmp o cmb (fun a b => (tyFmt o.ty).cmp cc a b) s
/-- `frcp` (R57, R167). -/
def execFrcp (o : Alu) (s : State) : Res := flt1 o FFmt.rcp s
/-- `frsq` (R57, R167). -/
def execFrsq (o : Alu) (s : State) : Res := flt1 o FFmt.rsq s
/-- `fsqrt` (R57, R167). -/
def execFsqrt (o : Alu) (s : State) : Res := flt1 o FFmt.sqrt s
/-- `fexp2` (R57, R167). -/
def execFexp2 (o : Alu) (s : State) : Res := flt1 o FFmt.exp2 s
/-- `flog2` (R57, R167). -/
def execFlog2 (o : Alu) (s : State) : Res := flt1 o FFmt.log2 s
/-- `fsinpi` (R57, R167). -/
def execFsinpi (o : Alu) (s : State) : Res := flt1 o FFmt.sinpi s
/-- `fcospi` (R57, R167). -/
def execFcospi (o : Alu) (s : State) : Res := flt1 o FFmt.cospi s
/-- `fround` (R167). -/
def execFround (o : Alu) (s : State) : Res := flt1 o FFmt.fround s
/-- `ffract` (R167). -/
def execFfract (o : Alu) (s : State) : Res := flt1 o FFmt.fract s
/-- `fdiv` (R57, R167). -/
def execFdiv (o : Alu) (s : State) : Res := flt2 o FFmt.div s

/-- `fdot2`: packed a and b, c and the result in f32 (R168). -/
def execFdot2 (o : Alu) (s : State) : Res :=
  aluWith o .f32 (tyWidths o.ty true true) (fun a b c =>
    let el (x k : Nat) := (elemsOf o.ty x).getD k 0
    dot2 (tyFmt o.ty) o.rnd (el a 0) (el b 0) (el a 1) (el b 1) c) s

/-- `idot4`: c and the result are i32 (R168). -/
def execIdot4 (o : Alu) (mix sat : Bool) (s : State) : Res :=
  aluWith o .i32 (tyWidths o.ty true true) (fun a b c =>
    let sb := o.ty.signed != mix
    let dot := ((elemsOf o.ty a).zip (elemsOf o.ty b)).foldl (fun (acc : Int) (x, y) =>
      acc + readInt o.ty x * (if sb then sext 8 y else y)) 0
    (narrow .i32 sat (dot + sext 32 c), 0)) s

/-- `fldexp`: n is b from one 32-bit register (R168). -/
def execFldexp (o : Alu) (s : State) : Res :=
  aluWith o o.ty ⟨some o.ty.is64, some o.ty.is64, some false, none⟩
    (fun a b _ => (tyFmt o.ty).ldexp o.rnd a (sext 32 b)) s

/-- `fclass`: a 32-bit mask even for f64 (R168). -/
def execFclass (o : Alu) (s : State) : Res :=
  aluWith o .n32 ⟨some false, some o.ty.is64, none, none⟩ (fun a _ _ => ((tyFmt o.ty).classify a, 0)) s

/-- `fcvt` for a pair of types (R169). -/
def fcvtOp (dst src : AluTy) (rm : Rnd) (elem : Bool) (a b : Nat) : Nat × Word :=
  let cv := (tyFmt src).convert (tyFmt dst) rm
  if dst.elemCount = 2 then
    let x := if src.elemCount = 2 then elemsOf src a else [a, b]
    let (ys, fl) := gatherFlags (x.map cv)
    (joinElems dst ys, fl)
  else if src.elemCount = 2 then cv ((elemsOf src a).getD (if elem then 1 else 0) 0)
  else cv a

/-- `fcvt` (R169). -/
def execFcvt (o : Alu) (src : AluTy) (elem : Bool) (s : State) : Res :=
  let useB := src == .f32 && o.ty.elemCount == 2
  aluWith { o with ty := if useB then src else o.ty } o.ty
    ⟨some o.ty.is64, some src.is64, if useB then some false else none, none⟩
    (fun a b _ => fcvtOp o.ty src o.rnd elem a b) s

/-- `f2i` (R169). -/
def execF2i (o : Alu) (src : AluTy) (s : State) : Res :=
  aluWith o o.ty ⟨some o.ty.is64, some src.is64, none, none⟩
    (fun a _ _ => (tyFmt src).toIntTy o.rnd o.ty.signed o.ty.elemWidth a) s

/-- `i2f` (R169). -/
def execI2f (o : Alu) (src : AluTy) (s : State) : Res :=
  aluWith o o.ty ⟨some o.ty.is64, some src.is64, none, none⟩
    (fun a _ _ => (tyFmt o.ty).roundInt o.rnd (readInt src a) 0 false) s

end Sys2Proof.Machine
end

