-- ==== Sys2Proof/Machine/SystemEvents.lean ====
section
/-! DEFINITION. Reset and start (R388), errors found by the scrubber (R391), and thermal and power protection (R392). -/

namespace Sys2Proof.Machine

/-- `PCIe reset` (R388): the device at stage 0 from ROM. Host memory is the host's and stays; so do what has left the device
and what the outside does next. -/
def execPcieReset (s : State) : Res :=
  .next { State.reset with
    mem := s.mem.filter fun c => isHostKey c.1, agenda := s.agenda, outbox := s.outbox, free := s.free, nextId := s.nextId }

/-- The stage and the reason to hold there. -/
def State.setStage (s : State) (stage hold : Nat) : State := { s with sys := { s.sys with stage, hold } }

/-- What stage 1 waits for, by STAGE_DIAG's reasons: a verified image, then the HBM4 stacks. -/
def holdAt0 (s : State) (hbmTrained : Bool) : Nat := if s.sys.image.isNone then 1 else if !hbmTrained then 2 else 0

/-- What stage 2 waits for: FABRIC_CFG, then the cores. -/
def holdAt1 (s : State) (coresPassed : Nat) : Nat := if !s.fabric.configured then 4 else if coresPassed < 1008 then 3 else 0

/-- Whether every wired port has trained, up or down with a reason (R373, R378). -/
def portsTrained (s : State) : Bool :=
  (List.range s.fabric.degree).all fun k => (s.fabric.port k).up || (s.fabric.port k).reason ≠ 0

/-- `stage advance` (R388, R380): a device of a fabric joins it as it reaches stage 2. -/
def execStageAdvance (hbmTrained : Bool) (coresPassed : Nat) (s : State) : Res :=
  match s.sys.stage with
  | 0 =>
    let h := holdAt0 s hbmTrained
    .next (if h = 0 then { s with sys := { s.sys with stage := 1, hold := 0, hbm := true } } else s.setStage 0 h)
  | 1 =>
    let h := holdAt1 s coresPassed
    if h ≠ 0 then .next (s.setStage 1 h)
    else if !portsTrained s then .next (s.setStage 1 0)
    else
      let s := s.setStage 2 0
      .next (if s.fabric.q = 0 then s else s.setMember s.fabric.index .joining)
  | 2 => .next (s.setStage 3 0)
  | _ => .next s

/-- The clock one step down, to no lower than 800 MHz. -/
def State.clockDown (s : State) : State := { s with sys := { s.sys with clock := max 800 (s.sys.clock - 100) } }

/-- `power limit step` (R392): the power averaged over 1 ms is above the cap. -/
def execPowerLimitStep (milliwatts : Nat) (s : State) : Res :=
  .next (if 1000 * s.sys.cap < milliwatts then s.clockDown else s)

/-- `thermal throttle` (R392). -/
def execThermalThrottle (milliC : Nat) (s : State) : Res := .next (if 95000 < milliC then s.clockDown else s)

/-- `thermal shutdown` (R392): the loss notice floods, the dies are off and every head shows the safe frame. The home slices
reach HBM4, which memory is already. -/
def execThermalShutdown (milliC milliwatts : Nat) (s : State) : Res :=
  if !(110000 < milliC || (1000 * s.sys.cap < milliwatts && s.sys.clock ≤ 800)) || s.sys.off then .next s else
  .next { (if s.fabric.fencedSelf then s else s.emit (.lossNotice s.fabric.index)) with
    sys := { s.sys with off := true }, heads := tmap s.heads fun _ h => { h with scan := .safe } }

/-- `arithmetic clock restore` (R392): power and temperature within limits. -/
def execArithmeticClockRestore (milliC milliwatts : Nat) (s : State) : Res :=
  .next (if milliC ≤ 95000 && milliwatts ≤ 1000 * s.sys.cap then
      { s with sys := { s.sys with clock := min 1600 (s.sys.clock + 100) } }
    else s)

/-- Open bytes of an error log entry, whose layout the spec does not give. -/
def State.openBytes (s : State) : Nat → List Byte × State
  | 0 => ([], s)
  | n + 1 => let (x, s) := s.fresh; let (bs, s) := s.openBytes n; (BitVec.ofNat 8 x :: bs, s)

/-- `patrol scrub` (R391): a line of HBM4 is visited; what is correctable in it is corrected and counted; an uncorrectable one is
logged and stays uncorrectable. A line beyond HBM4 stands for state that no context owns: its error is logged, and the Pilot rebuilds
it as it was. -/
def execPatrolScrub (line : Nat) (bad : Bool) (s : State) : Res :=
  if !(bad || s.sys.bad.contains line) then .next s.countCorrected else
  let (entry, s) := s.openBytes 64
  .next { s with sys := { s.sys with
    bad := if isDevKey (64 * line) then insertNat line s.sys.bad else s.sys.bad, errors := s.sys.errors ++ [entry] } }

end Sys2Proof.Machine
end

