-- ==== Sys2Proof/Machine/WaveOps.lean ====
section
/-! DEFINITION. The wave instructions (R159 to R163) and the fixed reduction orders (R68, R69). -/

namespace Sys2Proof.Machine

/-- The lane that each form of `shfl` reads for lane l (R160). -/
def shflSource (mode : ShflMode) (l b : Nat) : Nat :=
  match mode with
  | .idx => b % 32
  | .up => if b ≤ l then l - b else l
  | .down => if l + b ≤ 31 then l + b else l
  | .xor => Nat.xor l (b % 32)

/-- A value of another lane for every enabled lane; the source lane's class does not matter (R160). -/
def fromLane (o : Alu) (src : Nat → Nat → Nat) (s : State) : Res :=
  issue o.g s fun e =>
    let wide := o.ty.is64
    if !e.regsOk o ⟨some wide, some wide, some false, none⟩ then illegalIssue e s 0x01 else
    let w := (lanesOf e.enabled).foldl (fun w l =>
      writeD w o.ty false wide o.d.toNat l
        (readReg e.w false wide o.a.toNat (src l (readB e.w o.ty false o.b l)))) e.w
    done e (s.modWave e.id fun _ => w)

/-- `shfl` (R160). -/
def execShfl (o : Alu) (mode : ShflMode) (s : State) : Res := fromLane o (shflSource mode) s
/-- `bcast` (R160). -/
def execBcast (o : Alu) (s : State) : Res := fromLane o (fun _ b => b % 32) s

/-- `vote` over the contributing lanes' bits of `pA` (R161). -/
def execVote (g : Guard) (op : VoteOp) (d a : BitVec 8) (s : State) : Res :=
  issue g s fun e =>
    if e.enabled = 0 then done e s else
    let bits := e.w.preg a.toNat &&& e.active
    let put (r : Bool) := done e (s.modWave e.id fun w => w.setP d.toNat e.enabled (if r then 0xFFFFFFFF#32 else 0))
    match op with
    | .some => put (bits != 0)
    | .every => put (bits == e.active)
    | .same => put (bits == 0 || bits == e.active)
    | .mask => done e (s.modWave e.id fun w => w.setS d.toNat (bits.setWidth 64))

/-! ### Reductions -/

/-- The identity of a reduction (R68, R162). -/
def redIdentity (op : RedOp) (ty : AluTy) : Nat :=
  let f := tyFmt ty
  match op with
  | .add => if ty.isFloat then f.signBit else 0
  | .min => if ty.isFloat then f.infBits else ofInt ty.elemWidth (intHi ty)
  | .max => if ty.isFloat then f.withSign true f.infBits else ofInt ty.elemWidth (intLo ty)
  | .and => 2 ^ ty.elemWidth - 1
  | .or | .xor => 0

/-- One step of a reduction and the flags it raises (R68). -/
def redStep (op : RedOp) (ty : AluTy) (rm : Rnd) (x y : Nat) : Nat × Word :=
  let f := tyFmt ty
  match op with
  | .add => if ty.isFloat then f.add rm x y else ((x + y) % 2 ^ ty.elemWidth, 0)
  | .min => if ty.isFloat then f.fmin x y else (if readInt ty x ≤ readInt ty y then x else y, 0)
  | .max => if ty.isFloat then f.fmax x y else (if readInt ty x ≥ readInt ty y then x else y, 0)
  | .and => (x &&& y, 0)
  | .or => (x ||| y, 0)
  | .xor => (x ^^^ y, 0)

/-- One level of the tree of R68: neighbours combined. -/
def treeLevel (f : Nat → Nat → Nat × Word) : List Nat → List (Nat × Word)
  | x :: y :: xs => f x y :: treeLevel f xs
  | [x] => [(x, 0)]
  | [] => []

/-- The tree of R68 over `levels` levels, with the flags of every step. -/
def tree (f : Nat → Nat → Nat × Word) : Nat → List Nat → Nat × Word
  | 0, xs => (xs.headD 0, 0)
  | n + 1, xs =>
    let (ys, fl) := gatherFlags (treeLevel f xs)
    let (r, fl') := tree f n ys
    (r, fl ||| fl')

/-- Every lane's value of a reduction: the identity where the lane does not contribute (R68). -/
def contributions (e : Env) (ty : AluTy) (op : RedOp) (a : Nat) : List Nat :=
  allLanes.map fun l => if e.active.getLsbD l then readReg e.w false ty.is64 a l else redIdentity op ty

/-- `wred`: the reduction to every enabled lane, or once to `sD` (R162). -/
def execWred (o : Alu) (op : RedOp) (s : State) : Res :=
  issue o.g s fun e =>
    let wide := o.ty.is64
    if !(e.vTy wide o.a.toNat && (o.sc || e.vTy wide o.d.toNat)) then illegalIssue e s 0x01 else
    let (r, fl) := tree (redStep op o.ty o.rnd) 5 (contributions e o.ty op o.a.toNat)
    let w := (e.passes o.sc).foldl (fun w l => writeD w o.ty o.sc wide o.d.toNat l r) e.w
    done e (s.modWave e.id fun _ => w.raise (waveFlags e.active fl))

/-- The inclusive prefix within eight lanes from an accumulator: values with the flags each rests on (R69). -/
def runSteps (f : Nat → Nat → Nat × Word) (acc : Nat) (fl : Word) : List Nat → List (Nat × Word)
  | [] => []
  | x :: xs =>
    let (r, g) := f acc x
    (r, fl ||| g) :: runSteps f r (fl ||| g) xs

/-- R69 for the four groups of eight from a carry: every lane's value with the flags of all the steps it rests on.
Group 0's carry is the identity itself; a later group's is `rnd(carry + tot)` of the group before. -/
def scanGroups (f : Nat → Nat → Nat × Word) (ident carry : Nat) (fl : Word) : Nat → List Nat → List (Nat × Word)
  | 0, _ => []
  | n + 1, xs =>
    let loc := runSteps f ident 0 (xs.take 8)
    let tot := loc.getLastD (ident, 0)
    let out := loc.map fun (x, g) => let (r, h) := f carry x; (r, fl ||| g ||| h)
    let (c, h) := f carry tot.1
    out ++ scanGroups f ident c (fl ||| tot.2 ||| h) n (xs.drop 8)

/-- `wscan` (R69, R162): flags only from the steps that reach an active lane. -/
def execWscan (o : Alu) (op : RedOp) (excl : Bool) (s : State) : Res :=
  issue o.g s fun e =>
    let wide := o.ty.is64
    if !(e.vTy wide o.a.toNat && e.vTy wide o.d.toNat) then illegalIssue e s 0x01 else
    let ident := redIdentity op o.ty
    let outs := scanGroups (redStep op o.ty o.rnd) ident ident 0 4 (contributions e o.ty op o.a.toNat)
    let val (l : Nat) : Nat × Word :=
      if excl then (if l = 0 then (ident, 0) else outs.getD (l - 1) (0, 0)) else outs.getD l (0, 0)
    let w := (lanesOf e.enabled).foldl (fun w l =>
      (writeD w o.ty false wide o.d.toNat l (val l).1).raise (laneFlags e.active l (val l).2)) e.w
    done e (s.modWave e.id fun _ => w)

/-- `rdlane` (R163). -/
def execRdlane (o : Alu) (s : State) : Res :=
  issue o.g s fun e =>
    let wide := o.ty.is64
    if !e.vTy wide o.a.toNat then illegalIssue e s 0x01
    else if e.enabled = 0 then done e s else
    let x := readReg e.w false wide o.a.toNat (readB e.w o.ty false o.b 0 % 32)
    done e (s.modWave e.id fun w => writeD w o.ty true wide o.d.toNat 0 x)

/-- `wrlane`: the write lands whatever the lane's class (R163). -/
def execWrlane (o : Alu) (s : State) : Res :=
  issue o.g s fun e =>
    let wide := o.ty.is64
    if !e.vTy wide o.d.toNat then illegalIssue e s 0x01
    else if e.enabled = 0 then done e s else
    let l := readB e.w o.ty false o.b 0 % 32
    done e (s.modWave e.id fun w => writeD w o.ty false wide o.d.toNat l (readReg w true wide o.a.toNat 0))

/-- `match`: for each enabled lane the mask of contributing lanes that hold its value (R161), in a 32-bit register. -/
def execMatchLanes (o : Alu) (s : State) : Res :=
  issue o.g s fun e =>
    let wide := o.ty.is64
    if !(e.vTy wide o.a.toNat && e.vTy false o.d.toNat) then illegalIssue e s 0x01 else
    let v (l : Nat) := readReg e.w false wide o.a.toNat l
    let w := (lanesOf e.enabled).foldl (fun w l =>
      w.setV o.d.toNat l (e.active &&& maskOf fun k => v k == v l)) e.w
    done e (s.modWave e.id fun _ => w)

end Sys2Proof.Machine
end

