-- ==== Sys2Proof/Machine/Dispatch.lean ====
section
/-! DEFINITION. The dispatch of every step to its meaning: one arm per constructor of Instr. -/

namespace Sys2Proof.Machine

def exec (i : Instr) (s : State) : Host.Outcome State Fault Refusal :=
  match i with
  -- integer (R152 to R158)
  | .iadd o sat => Sys2Proof.Machine.execIadd o sat s
  | .isub o sat => Sys2Proof.Machine.execIsub o sat s
  | .imul o => Sys2Proof.Machine.execImul o s
  | .imulhi o => Sys2Proof.Machine.execImulhi o s
  | .imad o sat => Sys2Proof.Machine.execImad o sat s
  | .imin o => Sys2Proof.Machine.execImin o s
  | .imax o => Sys2Proof.Machine.execImax o s
  | .iabs o sat => Sys2Proof.Machine.execIabs o sat s
  | .and o => Sys2Proof.Machine.execAnd o s
  | .or o => Sys2Proof.Machine.execOr o s
  | .xor o => Sys2Proof.Machine.execXor o s
  | .andn o => Sys2Proof.Machine.execAndn o s
  | .shl o => Sys2Proof.Machine.execShl o s
  | .shr o => Sys2Proof.Machine.execShr o s
  | .sar o => Sys2Proof.Machine.execSar o s
  | .rot o => Sys2Proof.Machine.execRot o s
  | .bfe o => Sys2Proof.Machine.execBfe o s
  | .bfi o => Sys2Proof.Machine.execBfi o s
  | .popc o => Sys2Proof.Machine.execPopc o s
  | .clz o => Sys2Proof.Machine.execClz o s
  | .ctz o => Sys2Proof.Machine.execCtz o s
  | .brev o => Sys2Proof.Machine.execBrev o s
  | .perm o => Sys2Proof.Machine.execPerm o s
  | .sel o => Sys2Proof.Machine.execSel o s
  | .icmp o cc cmb => Sys2Proof.Machine.execIcmp o cc cmb s
  | .pset g d op => Sys2Proof.Machine.execPset g d op s
  | .mov o => Sys2Proof.Machine.execMov o s
  | .movToFormat g d b => Sys2Proof.Machine.execMovToFormat g d b s
  | .movFromFormat g d b => Sys2Proof.Machine.execMovFromFormat g d b s
  | .movi g sc ty d w => Sys2Proof.Machine.execMovi g sc ty d w s
  | .lea o shift => Sys2Proof.Machine.execLea o shift s
  -- wave (R159 to R163)
  | .shfl o mode => Sys2Proof.Machine.execShfl o mode s
  | .bcast o => Sys2Proof.Machine.execBcast o s
  | .vote g op d a => Sys2Proof.Machine.execVote g op d a s
  | .wred o op => Sys2Proof.Machine.execWred o op s
  | .wscan o op excl => Sys2Proof.Machine.execWscan o op excl s
  | .rdlane o => Sys2Proof.Machine.execRdlane o s
  | .wrlane o => Sys2Proof.Machine.execWrlane o s
  | .matchLanes o => Sys2Proof.Machine.execMatchLanes o s
  -- floating-point (R164 to R169)
  | .fadd o => Sys2Proof.Machine.execFadd o s
  | .fsub o => Sys2Proof.Machine.execFsub o s
  | .fmul o => Sys2Proof.Machine.execFmul o s
  | .ffma o => Sys2Proof.Machine.execFfma o s
  | .fmin o => Sys2Proof.Machine.execFmin o s
  | .fmax o => Sys2Proof.Machine.execFmax o s
  | .fcmp o cc cmb => Sys2Proof.Machine.execFcmp o cc cmb s
  | .fclamp o => Sys2Proof.Machine.execFclamp o s
  | .frcp o => Sys2Proof.Machine.execFrcp o s
  | .frsq o => Sys2Proof.Machine.execFrsq o s
  | .fsqrt o => Sys2Proof.Machine.execFsqrt o s
  | .fexp2 o => Sys2Proof.Machine.execFexp2 o s
  | .flog2 o => Sys2Proof.Machine.execFlog2 o s
  | .fsinpi o => Sys2Proof.Machine.execFsinpi o s
  | .fcospi o => Sys2Proof.Machine.execFcospi o s
  | .fround o => Sys2Proof.Machine.execFround o s
  | .ffract o => Sys2Proof.Machine.execFfract o s
  | .fdiv o => Sys2Proof.Machine.execFdiv o s
  | .fdot2 o => Sys2Proof.Machine.execFdot2 o s
  | .idot4 o mix sat => Sys2Proof.Machine.execIdot4 o mix sat s
  | .fldexp o => Sys2Proof.Machine.execFldexp o s
  | .fclass o => Sys2Proof.Machine.execFclass o s
  | .fcvt o src elem => Sys2Proof.Machine.execFcvt o src elem s
  | .f2i o src => Sys2Proof.Machine.execF2i o src s
  | .i2f o src => Sys2Proof.Machine.execI2f o src s
  -- narrow formats (R170 to R174); C names the format register
  | .qpack o seed => Sys2Proof.Machine.execQpack o seed s
  | .qunpack o => Sys2Proof.Machine.execQunpack o s
  | .qscale o => Sys2Proof.Machine.execQscale o s
  | .qamax o => Sys2Proof.Machine.execQamax o s
  -- code slots that are no instruction (R129)
  | .zeroSlot => Sys2Proof.Machine.execZeroSlot s
  | .fillSlot => Sys2Proof.Machine.execFillSlot s
  -- control (R175 to R181)
  | .nop g => Sys2Proof.Machine.execNop g s
  | .bra g target => Sys2Proof.Machine.execBra g target s
  | .brx g sc a => Sys2Proof.Machine.execBrx g sc a s
  | .call g target => Sys2Proof.Machine.execCall g target s
  | .callIndirect g sc a => Sys2Proof.Machine.execCallIndirect g sc a s
  | .ret g => Sys2Proof.Machine.execRet g s
  | .exit g => Sys2Proof.Machine.execExit g s
  | .yield g => Sys2Proof.Machine.execYield g s
  | .ipref g target k => Sys2Proof.Machine.execIpref g target k s
  | .ifence g a b => Sys2Proof.Machine.execIfence g a b s
  | .wsync g m => Sys2Proof.Machine.execWsync g m s
  -- memory (R182 to R198)
  | .ld m => Sys2Proof.Machine.execLd m s
  | .st m => Sys2Proof.Machine.execSt m s
  | .ldq m f => Sys2Proof.Machine.execLdq m f s
  | .stq m f => Sys2Proof.Machine.execStq m f s
  | .lds m => Sys2Proof.Machine.execLds m s
  | .atom m op => Sys2Proof.Machine.execAtom m op s
  | .red m op => Sys2Proof.Machine.execRed m op s
  | .bwaddX m => Sys2Proof.Machine.execBwaddX m s
  | .bwaddR m => Sys2Proof.Machine.execBwaddR m s
  | .bwflush g rng => Sys2Proof.Machine.execBwflush g rng s
  | .prefd m => Sys2Proof.Machine.execPrefd m s
  | .cwbInv m => Sys2Proof.Machine.execCwbInv m s
  | .cwbWb m => Sys2Proof.Machine.execCwbWb m s
  | .fence g scope ord => Sys2Proof.Machine.execFence g scope ord s
  | .moor m c => Sys2Proof.Machine.execMoor m c s
  | .moorReread wave lane r => Sys2Proof.Machine.execMoorReread wave lane r s
  | .smap g d a b => Sys2Proof.Machine.execSmap g d a b s
  | .sunmap g a => Sys2Proof.Machine.execSunmap g a s
  | .swb g a => Sys2Proof.Machine.execSwb g a s
  | .stashWriteback wg entry => Sys2Proof.Machine.execStashWriteback wg entry s
  -- barriers, counters, pins, bobbin (R199 to R204)
  | .binit g d a b bar => Sys2Proof.Machine.execBinit g d a b bar s
  | .barrive g d a bar => Sys2Proof.Machine.execBarrive g d a bar s
  | .bwait g d a bar => Sys2Proof.Machine.execBwait g d a bar s
  | .bsync g d a bar => Sys2Proof.Machine.execBsync g d a bar s
  | .binval g bar => Sys2Proof.Machine.execBinval g bar s
  | .wait g ld st cp tl => Sys2Proof.Machine.execWait g ld st cp tl s
  | .pinadd g a pin => Sys2Proof.Machine.execPinadd g a pin s
  | .pinwait g d a pin => Sys2Proof.Machine.execPinwait g d a pin s
  | .pinset g a pin => Sys2Proof.Machine.execPinset g a pin s
  | .bobtake g => Sys2Proof.Machine.execBobtake g s
  | .bobpass g => Sys2Proof.Machine.execBobpass g s
  | .phase g => Sys2Proof.Machine.execPhase g s
  | .phaseComplete queue seq => Sys2Proof.Machine.execPhaseComplete queue seq s
  -- launch and the ebb stack (R205 to R207)
  | .launch g d a q => Sys2Proof.Machine.execLaunch g d a q s
  | .ebbpush g sc a unwind => Sys2Proof.Machine.execEbbpush g sc a unwind s
  | .ebbmarkRecomp g d a b => Sys2Proof.Machine.execEbbmarkRecomp g d a b s
  | .ebbmarkNeeds g d a b n => Sys2Proof.Machine.execEbbmarkNeeds g d a b n s
  -- the shuttle (R214 to R223)
  | .shcopy o wr glb tr => Sys2Proof.Machine.execShcopy o wr glb tr s
  | .shfill o => Sys2Proof.Machine.execShfill o s
  | .shgath o glb => Sys2Proof.Machine.execShgath o glb s
  | .shscat o glb => Sys2Proof.Machine.execShscat o glb s
  | .shuttleChunkDone op chunk => Sys2Proof.Machine.execShuttleChunkDone op chunk s
  | .shuttleTransferError op code addr => Sys2Proof.Machine.execShuttleTransferError op code addr s
  | .bmtest g scope d a b => Sys2Proof.Machine.execBmtest g scope d a b s
  | .bmwait g scope a b => Sys2Proof.Machine.execBmwait g scope a b s
  | .bmclr g a b => Sys2Proof.Machine.execBmclr g a b s
  -- the hoop (R224 to R236)
  | .hres g d a => Sys2Proof.Machine.execHres g d a s
  | .hrel g a => Sys2Proof.Machine.execHrel g a s
  | .hbwr g d a n => Sys2Proof.Machine.execHbwr g d a n s
  | .hbrd g d a n => Sys2Proof.Machine.execHbrd g d a n s
  | .skld g a b c len => Sys2Proof.Machine.execSkld g a b c len s
  | .hcvr g d a => Sys2Proof.Machine.execHcvr g d a s
  | .hmma g src d a b c k rnd => Sys2Proof.Machine.execHmma g src d a b c k rnd s
  | .hoopOpFormation gang => Sys2Proof.Machine.execHoopOpFormation gang s
  | .hcbeg g => Sys2Proof.Machine.execHcbeg g s
  | .hcend g => Sys2Proof.Machine.execHcend g s
  | .hzero g d c n => Sys2Proof.Machine.execHzero g d c n s
  | .hacst g d a b c scr q f rnd ty => Sys2Proof.Machine.execHacst g d a b c scr q f rnd ty s
  | .hacld g d a b c scr ty => Sys2Proof.Machine.execHacld g d a b c scr ty s
  | .hoopTurn cluster pick steps remote err => Sys2Proof.Machine.execHoopTurn cluster pick steps remote err s
  | .hoopEntryComplete cluster => Sys2Proof.Machine.execHoopEntryComplete cluster s
  -- the splat pipeline (R237 to R251)
  | .spkey g d a b c r => Sys2Proof.Machine.execSpkey g d a b c r s
  | .spsort g a r => Sys2Proof.Machine.execSpsort g a r s
  | .sortRun id => Sys2Proof.Machine.execSortRun id s
  | .sortComplete id => Sys2Proof.Machine.execSortComplete id s
  | .spseg g d a r => Sys2Proof.Machine.execSpseg g d a r s
  | .spfetch g d a r => Sys2Proof.Machine.execSpfetch g d a r s
  | .spblend g d a b c => Sys2Proof.Machine.execSpblend g d a b c s
  | .spgrad g d a b c => Sys2Proof.Machine.execSpgrad g d a b c s
  -- curves, triangles, sampling (R252 to R271)
  | .trimit g d a r => Sys2Proof.Machine.execTrimit g d a r s
  | .triangleBin wave => Sys2Proof.Machine.execTriangleBin wave s
  | .vresolve g a b r => Sys2Proof.Machine.execVresolve g a b r s
  | .vresolveComplete id => Sys2Proof.Machine.execVresolveComplete id s
  | .crvemit g kind a b => Sys2Proof.Machine.execCrvemit g kind a b s
  | .slotOpen wave => Sys2Proof.Machine.execSlotOpen wave s
  | .segmentAccept wave => Sys2Proof.Machine.execSegmentAccept wave s
  | .crvres g rule keep d a b c => Sys2Proof.Machine.execCrvres g rule keep d a b c s
  | .crvresComplete r => Sys2Proof.Machine.execCrvresComplete r s
  | .texs g grad d a c r => Sys2Proof.Machine.execTexs g grad d a c r s
  | .texf g d a c r => Sys2Proof.Machine.execTexf g d a c r s
  | .deriv g y fine d a => Sys2Proof.Machine.execDeriv g y fine d a s
  | .quad g a => Sys2Proof.Machine.execQuad g a s
  | .binres g d r => Sys2Proof.Machine.execBinres g d r s
  -- tides and collectives (R273 to R292)
  | .topen g d a b c => Sys2Proof.Machine.execTopen g d a b c s
  | .sttide g d base index off ty c => Sys2Proof.Machine.execSttide g d base index off ty c s
  | .tclose g d a => Sys2Proof.Machine.execTclose g d a s
  | .tideContributionClose gid => Sys2Proof.Machine.execTideContributionClose gid s
  | .tcommit g a b c => Sys2Proof.Machine.execTcommit g a b c s
  | .tabort g d a => Sys2Proof.Machine.execTabort g d a s
  | .tstat g wait d a => Sys2Proof.Machine.execTstat g wait d a s
  | .tideApply gid hsf sincePulse => Sys2Proof.Machine.execTideApply gid hsf sincePulse s
  | .credmx g a b r => Sys2Proof.Machine.execCredmx g a b r s
  | .cover g a b r => Sys2Proof.Machine.execCover g a b r s
  | .collectiveHop id block hop => Sys2Proof.Machine.execCollectiveHop id block hop s
  | .collectiveComplete id => Sys2Proof.Machine.execCollectiveComplete id s
  -- system (R208 to R213, R333)
  | .trap g imm => Sys2Proof.Machine.execTrap g imm s
  | .brkpt g imm => Sys2Proof.Machine.execBrkpt g imm s
  | .rdsr g sc d num => Sys2Proof.Machine.execRdsr g sc d num s
  | .rdsrClr g sc d => Sys2Proof.Machine.execRdsrClr g sc d s
  | .wrsr g a num => Sys2Proof.Machine.execWrsr g a num s
  | .qctlSuspend queue => Sys2Proof.Machine.execQctlSuspend queue s
  | .qctlResume queue => Sys2Proof.Machine.execQctlResume queue s
  | .rdcyc g d => Sys2Proof.Machine.execRdcyc g d s
  -- cores and memory
  | .instructionFetch core ctx line => Sys2Proof.Machine.execInstructionFetch core ctx line s
  | .ldOpComplete wave r => Sys2Proof.Machine.execLdOpComplete wave r s
  | .stOpComplete core r => Sys2Proof.Machine.execStOpComplete core r s
  -- scheduling, graphs, the unwinder (R329 to R352)
  | .launchAccept queue src => Sys2Proof.Machine.execLaunchAccept queue src s
  | .launchEligible queue seq => Sys2Proof.Machine.execLaunchEligible queue seq s
  | .bindGrant queue seq => Sys2Proof.Machine.execBindGrant queue seq s
  | .dispatchRound part => Sys2Proof.Machine.execDispatchRound part s
  | .workgroupRetire wg => Sys2Proof.Machine.execWorkgroupRetire wg s
  | .launchComplete queue seq => Sys2Proof.Machine.execLaunchComplete queue seq s
  | .unwindFrame queue => Sys2Proof.Machine.execUnwindFrame queue s
  | .graphWalkerStart queue seq => Sys2Proof.Machine.execGraphWalkerStart queue seq s
  | .graphNodeEnd walker => Sys2Proof.Machine.execGraphNodeEnd walker s
  | .graphNodeKernel walker => Sys2Proof.Machine.execGraphNodeKernel walker s
  | .graphNodeCopy walker => Sys2Proof.Machine.execGraphNodeCopy walker s
  | .graphNodeCondition walker => Sys2Proof.Machine.execGraphNodeCondition walker s
  | .graphNodeLoop walker => Sys2Proof.Machine.execGraphNodeLoop walker s
  | .graphNodePinWait walker => Sys2Proof.Machine.execGraphNodePinWait walker s
  | .graphNodeTideCommit walker => Sys2Proof.Machine.execGraphNodeTideCommit walker s
  | .graphNodeEbbUnwind walker => Sys2Proof.Machine.execGraphNodeEbbUnwind walker s
  -- translation, rings, pre-emption (R353 to R371)
  | .pageWalk core ctx va => Sys2Proof.Machine.execPageWalk core ctx va s
  | .ringRecordDelivery ctx trap => Sys2Proof.Machine.execRingRecordDelivery ctx trap s
  | .workgroupSave wg => Sys2Proof.Machine.execWorkgroupSave wg s
  | .workgroupRestore wg cluster core => Sys2Proof.Machine.execWorkgroupRestore wg cluster core s
  | .offloadCopyComplete ctx base => Sys2Proof.Machine.execOffloadCopyComplete ctx base s
  | .tlbInvReply tag => Sys2Proof.Machine.execTlbInvReply tag s
  -- host commands (R337, R357, R377)
  | .version tag major minor => Sys2Proof.Machine.execVersion tag major minor s
  | .stage tag => Sys2Proof.Machine.execStage tag s
  | .partSet tag p => Sys2Proof.Machine.execPartSet tag p s
  | .ctxCreate tag va => Sys2Proof.Machine.execCtxCreate tag va s
  | .ctxDestroy tag ctx => Sys2Proof.Machine.execCtxDestroy tag ctx s
  | .exportSync tag ctx => Sys2Proof.Machine.execExportSync tag ctx s
  | .spillSet tag ctx va size => Sys2Proof.Machine.execSpillSet tag ctx va size s
  | .qCreate tag queue va => Sys2Proof.Machine.execQCreate tag queue va s
  | .qDestroy tag queue => Sys2Proof.Machine.execQDestroy tag queue s
  | .qQuery tag queue => Sys2Proof.Machine.execQQuery tag queue s
  | .qSuspend tag queue => Sys2Proof.Machine.execQSuspend tag queue s
  | .qResume tag queue => Sys2Proof.Machine.execQResume tag queue s
  | .bind tag record => Sys2Proof.Machine.execBind tag record s
  | .unbind tag slot => Sys2Proof.Machine.execUnbind tag slot s
  | .tlbInv tag ctx va len => Sys2Proof.Machine.execTlbInv tag ctx va len s
  | .faultReply tag ctx token action => Sys2Proof.Machine.execFaultReply tag ctx token action s
  | .trapReply tag ctx token value action => Sys2Proof.Machine.execTrapReply tag ctx token value action s
  | .fwLoad tag addr len => Sys2Proof.Machine.execFwLoad tag addr len s
  | .stageDiag tag => Sys2Proof.Machine.execStageDiag tag s
  | .fabricCfg tag q index fabricId seed threshold => Sys2Proof.Machine.execFabricCfg tag q index fabricId seed threshold s
  | .portQuery tag port => Sys2Proof.Machine.execPortQuery tag port s
  | .devFence tag dev => Sys2Proof.Machine.execDevFence tag dev s
  | .devAdmit tag dev => Sys2Proof.Machine.execDevAdmit tag dev s
  | .dispCfg tag head va => Sys2Proof.Machine.execDispCfg tag head va s
  | .attest tag nonce report => Sys2Proof.Machine.execAttest tag nonce report s
  | .powerCap tag watts => Sys2Proof.Machine.execPowerCap tag watts s
  | .errLog tag va => Sys2Proof.Machine.execErrLog tag va s
  -- what other devices, the host, scheduling policy and memory pressure bring about
  | .tideWriteStage gid src n wave off bytes => Sys2Proof.Machine.execTideWriteStage gid src n wave off bytes s
  | .tideClosed gid dev sent => Sys2Proof.Machine.execTideClosed gid dev sent s
  | .tideNo gid dev code fc named => Sys2Proof.Machine.execTideNo gid dev code fc named s
  | .tideCount gid => Sys2Proof.Machine.execTideCount gid s
  | .tideInboundCount gid dev count => Sys2Proof.Machine.execTideInboundCount gid dev count s
  | .tideLock gid list => Sys2Proof.Machine.execTideLock gid list s
  | .tideLocked gid m => Sys2Proof.Machine.execTideLocked gid m s
  | .tideApplied gid dev => Sys2Proof.Machine.execTideApplied gid dev s
  | .tideAbort gid code fc named => Sys2Proof.Machine.execTideAbort gid code fc named s
  | .tideAbortAck gid dev => Sys2Proof.Machine.execTideAbortAck gid dev s
  | .ageingOverdue wave => Sys2Proof.Machine.execAgeingOverdue wave s
  | .accumulatorEvict ctx word => Sys2Proof.Machine.execAccumulatorEvict ctx word s
  | .remoteRequestApply src n req => Sys2Proof.Machine.execRemoteRequestApply src n req s
  | .markerAnswer m count => Sys2Proof.Machine.execMarkerAnswer m count s
  | .requestRetransmit src n req => Sys2Proof.Machine.execRequestRetransmit src n req s
  | .hostMemoryWrite host addr bytes => Sys2Proof.Machine.execHostMemoryWrite host addr bytes s
  | .queueTailWrite queue tail => Sys2Proof.Machine.execQueueTailWrite queue tail s
  | .gangStall part cluster => Sys2Proof.Machine.execGangStall part cluster s
  | .swapOut wg stallDev => Sys2Proof.Machine.execSwapOut wg stallDev s
  | .workgroupFlush wg => Sys2Proof.Machine.execWorkgroupFlush wg s
  | .memoryReclaim ctx base => Sys2Proof.Machine.execMemoryReclaim ctx base s
  -- links, display, start, errors, power (R372 to R392)
  | .linkTraining port peer => Sys2Proof.Machine.execLinkTraining port peer s
  | .packetForward port dst => Sys2Proof.Machine.execPacketForward port dst s
  | .flitReplay port => Sys2Proof.Machine.execFlitReplay port s
  | .linkAckTimeout port => Sys2Proof.Machine.execLinkAckTimeout port s
  | .portCongestionMark port depth => Sys2Proof.Machine.execPortCongestionMark port depth s
  | .portCongestionClear port depth => Sys2Proof.Machine.execPortCongestionClear port depth s
  | .deviceLossNotice dev => Sys2Proof.Machine.execDeviceLossNotice dev s
  | .admissionNotice dev => Sys2Proof.Machine.execAdmissionNotice dev s
  | .houseSyncPulse => Sys2Proof.Machine.execHouseSyncPulse s
  | .hsfAlignSample hsf sampleNs ownNs => Sys2Proof.Machine.execHsfAlignSample hsf sampleNs ownNs s
  | .vblank head => Sys2Proof.Machine.execVblank head s
  | .pcieReset => Sys2Proof.Machine.execPcieReset s
  | .stageAdvance hbmTrained coresPassed => Sys2Proof.Machine.execStageAdvance hbmTrained coresPassed s
  | .powerLimitStep milliwatts => Sys2Proof.Machine.execPowerLimitStep milliwatts s
  | .thermalThrottle milliC => Sys2Proof.Machine.execThermalThrottle milliC s
  | .thermalShutdown milliC milliwatts => Sys2Proof.Machine.execThermalShutdown milliC milliwatts s
  | .patrolScrub line bad => Sys2Proof.Machine.execPatrolScrub line bad s
  | .houseSyncInputLost => Sys2Proof.Machine.execHouseSyncInputLost s
  | .displayportLinkTraining head rateKHz => Sys2Proof.Machine.execDisplayportLinkTraining head rateKHz s
  | .rangeReturnComplete ctx base => Sys2Proof.Machine.execRangeReturnComplete ctx base s
  | .arithmeticClockRestore milliC milliwatts => Sys2Proof.Machine.execArithmeticClockRestore milliC milliwatts s

end Sys2Proof.Machine
end

