-- ==== Sys2Proof/Machine/Schedule.lean ====
section
/-! DEFINITION. Which agent moves next: the choice of a wave on a core (R22, R345), the issue of its instruction (R113,
R116), pending host commands (R335, R336) and the events that follow from the state. -/

namespace Sys2Proof.Machine

/-- Whether a wave may issue: its workgroup is resident and neither ended nor leaving, but that a `spkey` begun is
completed (R242, R363, R366), and the wave is ready or its wait is to be tried. -/
def issuable (s : State) (id : Nat) : Bool :=
  (match tget? s.wgs (wgOf id) with
   | some W => W.resident && !W.ended && (W.leaving.isNone || !(s.wave id).pairs.isEmpty)
   | none => false) &&
  (match (s.wave id).status with
   | .ready | .waiting .retry | .waiting (.released _) => true
   | _ => false)

/-- The issue of a wave: its instruction fetched at the issue address, checked and run (R22, R113, R116). -/
def issueWave (id : Nat) (s : State) : Res :=
  let s := { s with cur := id }
  match s.env? noGuard with
  | none => .fault .noIssuingWave
  | some e =>
    match fetch s e.wg.core e.ctx e.c e.pc with
    | .lineFault c => if c = 0 then absorbWait e s [lineOf e.pc] else .next (takeLineFault e s c)
    | .slotFault c => illegalIssue e s c
    | .instr i => exec i s

/-- Whether a waiting wave's instruction would now complete, or go on with what it waits for. -/
def pollDone (s : State) (id : Nat) : Bool :=
  match issueWave id s with
  | .next s' => !isWaiting s' id || { s' with cur := s.cur, free := s.free, nextId := s.nextId } != s
  | _ => true

/-- Whether a wave could issue, a `yield` apart: a waiting wave when what it waits for holds. -/
def awake (s : State) (id : Nat) : Bool :=
  issuable s id && (match (s.wave id).status with | .waiting .retry => pollDone s id | _ => true)

/-- Whether a wave is ready at a decision of a pipe (R179, R345). -/
def ready (s : State) (pipe id : Nat) : Bool := !((s.wave id).yielded && (s.wave id).pipe = pipe) && awake s id

/-- The core of a wave. -/
def coreOf (s : State) (id : Nat) : Nat := match tget? s.wgs (wgOf id) with | some W => W.core | none => 0
/-- The waves of a core in slot order. -/
def coreWaves (s : State) (core : Nat) : List Nat := (s.waves.map (·.1)).filter fun id => coreOf s id = core

/-- The effective priority of a wave (R345). -/
def effPrio (s : State) (id : Nat) : Nat :=
  let base := match (tget? s.wgs (wgOf id)).bind fun W => tget? s.launches W.launch with | some L => L.prio | none => 0
  min 255 (base + (s.wave id).skips / 64)

/-- The wave chosen among ready ones (R345): the overdue one in the lowest slot, else the highest effective priority, ties to the
lower slot. -/
def chooseWave (s : State) (rs : List Nat) : Option Nat :=
  match rs.find? fun id => (s.wave id).skips = 16384 with
  | some id => some id
  | none => rs.foldl (fun best id => match best with
      | none => some id
      | some b => if effPrio s b < effPrio s id then some id else some b) none

/-- An issue decision: its pipe, the wave that pipe 0 has taken in the same cycle, the waves that are ready, and the pipes whose
decisions passed before it without a ready wave. -/
structure Decision where
  pipe   : Nat
  taken  : Option Nat
  rs     : List Nat
  passed : List Nat

/-- The decision of a pipe of a core. -/
def decisionOf (s : State) (core : Nat) (passed : List Nat) (pipe : Nat) (taken : Option Nat) : Decision :=
  ⟨pipe, taken, (coreWaves s core).filter fun id => some id ≠ taken &&
    (ready s pipe id || (passed.contains pipe && awake s id)), passed⟩

/-- The decisions that come next on a core, in order: pipe 1's of the present cycle where pipe 0 has taken a wave, and those of
the cycles after it (R345). -/
def decisions (s : State) (core : Nat) : List Decision :=
  let D := decisionOf s core
  match (s.core core).pipe with
  | some w => [D [] 1 (some w), D [1] 0 none, D [1, 0] 1 none, D [1, 0, 1] 0 none]
  | none => [D [] 0 none, D [0] 1 none, D [0, 1] 0 none]

/-- The next decision of a core with a ready wave, and the wave that it chooses (R345). -/
def nextDecision (s : State) (core : Nat) : Option (Decision × Nat) :=
  (decisions s core).findSome? fun d => (chooseWave s d.rs).map fun id => (d, id)

/-- The next core in turn, after the one that issued last, with a wave to issue, and that wave. -/
def pickWave (s : State) : Option Nat :=
  let last := coreOf s s.cur
  let cs := ((s.waves.map fun x => coreOf s x.1).foldl (fun a c => insertNat c a) [])
  let cs := cs.filter (fun c => last < c) ++ cs.filter (fun c => c ≤ last)
  cs.findSome? fun c => (nextDecision s c).map (·.2)

/-- A decision for a wave: its skips reset, the other ready waves are skipped once more, a wave that yielded to a pipe which has
decided is counted again from the next decision, and with each new cycle the core's clock moves by an open number (R179, R213,
R345). -/
def State.chosen (s : State) (core : Nat) (d : Decision) (id : Nat) : State :=
  let (n, s) := s.fresh
  let s := s.modCore core fun c =>
    { c with cyc := if d.taken.isSome then c.cyc else c.cyc + 1 + n, pipe := if d.pipe = 0 then some id else none }
  (coreWaves s core).foldl (fun s k => s.modWave k fun w =>
    if k = id then { w with skips := 0, yielded := false, pipe := d.pipe }
    else { w with
      yielded := w.yielded && !(d.pipe :: d.passed).contains w.pipe
      skips := if d.rs.contains k then min 16384 (w.skips + 1) else w.skips }) s

/-- A wave issues where the next decision of its core chooses it; any other leaves the state as it is. -/
def runIssue (id : Nat) (s : State) : Res :=
  let core := coreOf s id
  match nextDecision s core with
  | some (d, k) => if k = id then issueWave id (s.chosen core d id) else .next s
  | none => .next s

/-! ### Events that follow from the state -/

/-- One event as the schedule tries it. -/
abbrev Move := State → Res

/-- Counted operations in flight, oldest first, on memory itself and without an error, and requests that were kept. -/
def memoryMoves (s : State) : List Move :=
  (s.waves.filter fun (_, w) => !w.loads.isEmpty).map (fun (k, _) => execLdOpComplete k { fromL1 := false, remote := [], errs := [] }) ++
  (s.cores.filter fun (_, c) => !c.fifo.isEmpty).map (fun (k, _) => execStOpComplete k ⟨[], .perform false⟩) ++
  s.fabric.held.map fun (src, n, prev, req) => execRemoteRequestApply src ⟨n, prev⟩ req

/-- The partition of a context. -/
def partOf (s : State) (ctx : Nat) : Nat := match tget? s.ctxs ctx with | some c => c.part | none => 0
/-- Whether a wave's workgroup waits to leave its core (R366). -/
def leavingWave (s : State) (wave : Nat) : Bool := match tget? s.wgs (wgOf wave) with | some W => W.leaving.isSome | none => false

/-- A piece of work of an engine that all partitions share (R329): the engine's kind as `State.served` numbers it, whether a workgroup
that leaves its core waits for it (R366), and its partition. -/
structure Work where
  kind    : Nat
  leaving : Bool
  part    : Nat
deriving DecidableEq, Repr

/-- The work that a wave has an engine do. -/
def waveWork (s : State) (kind wave : Nat) : Option Work :=
  (waveCtx s wave).map fun (_, c) => ⟨kind, leavingWave s wave, c.part⟩

/-- The work of a shared engine that an event is. -/
def workOf (s : State) (i : Instr) : Option Work :=
  match i with
  | .shuttleChunkDone op _ | .shuttleTransferError op _ _ => (tget? s.shuttles op).map fun o =>
      ⟨0, match o.wave with | some w => leavingWave s w | none => false, partOf s o.ctx⟩
  | .sortRun op | .sortComplete op => (tget? s.sorts op).map fun o => ⟨1, false, partOf s o.ctx⟩
  | .segmentAccept wave | .slotOpen wave => waveWork s 2 wave
  | .crvresComplete r => (tget? s.resolves r.id).map fun o => ⟨2, leavingWave s o.wave, partOf s o.ctx⟩
  | .triangleBin wave => waveWork s 3 wave
  | .vresolveComplete op => (tget? s.vresolves op).map fun o => ⟨4, leavingWave s o.wave, partOf s o.ctx⟩
  | .collectiveHop op _ .start | .collectiveComplete op => (tget? s.colls op).map fun o => ⟨0, false, partOf s o.ctx⟩
  | _ => none

/-- The work that the shared engines have by themselves. -/
def sharedWork (s : State) : List Instr :=
  s.shuttles.flatMap (fun (k, o) => (List.range o.chunks).map fun c => .shuttleChunkDone k c) ++
  s.sorts.flatMap (fun (k, _) => [.sortRun k, .sortComplete k]) ++
  (s.waves.filter fun (_, w) => !w.tris.isEmpty).map (fun (k, _) => .triangleBin k) ++
  s.vresolves.map (fun (k, _) => .vresolveComplete k) ++
  (s.waves.filter fun (_, w) => !w.segs.isEmpty).flatMap (fun (k, _) => [.segmentAccept k, .slotOpen k]) ++
  s.resolves.map (fun (k, _) => .crvresComplete ⟨k, 0⟩) ++
  s.colls.flatMap fun (k, o) => (List.range o.blocks).map (fun b => .collectiveHop k b .start) ++ [.collectiveComplete k]

/-- Whether a step has moved the machine, the bookkeeping of the schedule apart. -/
def moved (s s' : State) : Bool := { s' with free := s.free } != s

/-- Whether an event would now move the machine. -/
def moves (s : State) (i : Instr) : Bool := match exec i s with | .next s' => moved s s' | _ => false

/-- How far a partition is from the one that engines of a kind served last. -/
def turnPlace (s : State) (kind part : Nat) : Nat :=
  (part + s.sys.parts - 1 - tgetD s.served kind 0 % s.sys.parts) % s.sys.parts

/-- Whether it is an event's turn at its engine: what a workgroup that leaves its core waits for comes first (R366), and then the
partitions take turns (R329). -/
def inTurn (s : State) (i : Instr) : Bool :=
  match workOf s i with
  | none => true
  | some w => w.leaving || (sharedWork s).all fun j => match workOf s j with
    | some v => v.kind ≠ w.kind || !(v.leaving || turnPlace s v.kind v.part < turnPlace s w.kind w.part) || !moves s j
    | none => true

/-- An event run; where it is work of a shared engine, the engine has then served its partition. -/
def execServed (i : Instr) (s : State) : Res :=
  match workOf s i with
  | none => exec i s
  | some w => andThen (exec i s) fun s' => if s' = s then s else { s' with served := tput s'.served w.kind w.part }

/-- The work of engines: what a workgroup that leaves waits for first, then that of the partitions in turn, then the hoops'. -/
def engineMoves (s : State) : List Move :=
  let ws := (sharedWork s).filterMap fun i => (workOf s i).map fun w => (w, i)
  let of (p : Work → Bool) : List Move := (ws.filter fun (w, _) => p w).map fun (_, i) => execServed i
  of (·.leaving) ++
  (List.range 5).flatMap (fun k => (List.range s.sys.parts).flatMap fun d =>
    of fun w => !w.leaving && w.kind = k && turnPlace s k w.part = d) ++
  s.gangs.map (fun (k, _) => execHoopOpFormation k) ++
  (s.wgs.filter fun (_, W) => !W.hq.isEmpty).flatMap fun (_, W) =>
    execHoopEntryComplete (W.core / 16) :: (List.range W.hq.length).map fun k => execHoopTurn (W.core / 16) k 256 [] 0

/-- What the device says to itself about its tide groups (R275 to R285). -/
def tideMoves (s : State) : List Move :=
  let me := s.fabric.index
  let ids := (s.tides.map (·.1) ++ s.coords.map (·.1)).eraseDups
  ids.flatMap fun g =>
    let gid : Word := BitVec.ofNat 32 g
    let r? := tget? s.tides g
    let asRecord : List Move := match r? with
      | none => []
      | some r => [execTideContributionClose gid, execTideClosed gid me r.sent, execTideNo gid me (BitVec.ofNat 8 r.code) r.fc r.dev,
          execTideInboundCount gid me r.inbound, execTideLocked gid ⟨me, .locked⟩] ++
          (if ownGroup s gid then [execTideApply gid s.sys.hsf 0] else [])
    let asCoord : List Move := match tget? s.coords g with
      | none => []
      | some c => [execTideLock gid c.parts, execTideApplied gid me, execTideAbortAck gid me] ++
          (match c.phase with
           | .abort code dev fc => [execTideAbort gid (BitVec.ofNat 8 code) fc dev]
           | _ => [])
    asRecord ++ asCoord

/-- Records, invalidations and ranges that firmware brings to an end. -/
def firmwareMoves (s : State) : List Move :=
  s.ctxs.flatMap (fun (k, c) => [execRingRecordDelivery k false, execRingRecordDelivery k true] ++
    c.ranges.flatMap fun (b, _) => [execOffloadCopyComplete k (BitVec.ofNat 64 b), execRangeReturnComplete k (BitVec.ofNat 64 b)]) ++
  s.sys.invs.map fun (t, _) => execTlbInvReply t

/-- Whether a wave cannot go on by itself, wherever its workgroup is. -/
def stuck (s : State) (id : Nat) : Bool :=
  match (s.wave id).status with
  | .ready | .waiting (.released _) => false
  | .waiting .retry => !pollDone s id
  | _ => true

/-- Whether every wave of a workgroup is blocked, so that it may be swapped out to make room (R28). -/
def blockedWg (s : State) (id : Nat) (W : Workgroup) : Bool :=
  !W.ended && ((List.range W.waves).all fun f => stuck s (id * 32 + f)) &&
  (List.range W.waves).any fun f => (s.wave (id * 32 + f)).status != .retired

/-- The state with every blocked workgroup gone from its core, to ask what would then fit. -/
def State.withoutBlocked (s : State) : State :=
  { s with wgs := tmap s.wgs fun id W => if W.held && blockedWg s id W then { W with resident := false } else W }

/-- The candidates of every partition that wait for a place. -/
def waitingCands (s : State) : List (Nat × Cand) :=
  (List.range s.sys.parts).flatMap fun p => ((candidatesOf s p).filter fun c => c.place.isNone).map fun c => (p, c)

/-- The cores of a module. -/
def allCores : List (Nat × Nat) := (List.range 64).flatMap fun cl => (List.range 16).map fun c => (cl, c)

/-- The blocked workgroups on the cores that a waiting gang, or a workgroup that could go on, would then have (R28). -/
def roomMakers (s : State) : List Nat :=
  let t := s.withoutBlocked
  let on (cores : List Nat) : List Nat := (s.wgs.filter fun (id, W) =>
    W.held && W.leaving.isNone && cores.contains W.core && blockedWg s id W).map (·.1)
  let gangs := (waitingCands s).flatMap fun (p, c) =>
    match (tget? s.queues c.L.queue).bind fun q => placeOf t p c.key q c.L c.H with
    | some pl => on pl.cores
    | none => []
  let outs := (s.wgs.filter fun (id, W) => !W.resident && !W.retired && !blockedWg s id W).flatMap fun (id, W) =>
    match (tget? s.launches W.launch).bind fun L => L.header.map fun H => (L, H), tget? s.gangs W.gang with
    | some (L, H), some G =>
      let fits (s : State) (c : Nat) : Bool := coreTakes s id W L H G.cluster c && (restoreBind s L G.cluster c).isSome
      if (List.range 16).any (fits s) then [] else
      match (List.range 16).find? (fits t) with | some c => on [16 * G.cluster + c] | none => []
    | _, _ => []
  (gangs ++ outs).eraseDups

/-- The workgroups that the schedule restores: while a gang of their partition waits for a place, only those that can go on. -/
def restorable (s : State) : List Nat :=
  let waits := (waitingCands s).map (·.1)
  (s.wgs.filter fun (id, W) => !W.resident && !W.retired &&
    !(blockedWg s id W && waits.contains (match tget? s.launches W.launch with | some L => partOf s L.ctx | none => 0))).map (·.1)

/-- Launches, retirement, pre-emption and unwinding. -/
def launchMoves (s : State) : List Move :=
  s.wgs.flatMap (fun (k, _) => [execWorkgroupRetire k, execWorkgroupSave k]) ++
  (s.launches.filter fun (_, L) => L.state != .complete).flatMap (fun (_, L) =>
    [execPhaseComplete L.queue L.seq, execLaunchComplete L.queue L.seq, execLaunchEligible L.queue L.seq, execBindGrant L.queue L.seq]) ++
  s.queues.flatMap (fun (k, _) => [execLaunchAccept k .ring, execLaunchAccept k .launch, execUnwindFrame k, execLaunchAccept k .unwinder,
    execLaunchAccept k .graph] ++ s.walkers.map fun (w, _) => execLaunchAccept k (.walker w)) ++
  (restorable s).flatMap (fun k => allCores.map fun (cl, c) => execWorkgroupRestore k cl c) ++
  (roomMakers s).map (fun k => execSwapOut k none) ++
  (List.range s.sys.parts).flatMap fun p => (List.range 64).map fun cl => execGangStall p cl

/-- Graph walkers (R42, R43, R349). -/
def walkerMoves (s : State) : List Move :=
  (s.launches.filter fun (_, L) => L.state == .eligible).map (fun (_, L) => execGraphWalkerStart L.queue L.seq) ++
  s.walkers.flatMap fun (w, _) => [execGraphNodeEnd w, execGraphNodeKernel w, execGraphNodeCopy w, execGraphNodeCondition w,
    execGraphNodeLoop w, execGraphNodePinWait w, execGraphNodeTideCommit w, execGraphNodeEbbUnwind w]

/-- One dispatch round of each partition (R344). -/
def State.rounds (s : State) : State :=
  (List.range s.sys.parts).foldl (fun s p => match execDispatchRound p s with | .next s' => s' | _ => s) s

/-- The first event that follows from the state and moves it. -/
def autoEvent (s : State) : Option State :=
  (memoryMoves s ++ engineMoves s ++ tideMoves s ++ firmwareMoves s ++ launchMoves s ++ walkerMoves s).findSome? fun m =>
    match m s with
    | .next s' => if moved s s' then some s' else none
    | _ => none

/-! ### Host commands (R334 to R336) -/

/-- Whether a command of the ring is to be executed: firmware runs one at a time, so none before a reply that waits. -/
def commandPending (s : State) : Bool := s.sys.cmdHead != s.sys.cmdTail && !s.sys.cmdErr && s.sys.invs.isEmpty && !s.sys.off

/-- The oldest record of the command ring, and the state in which it is accepted. -/
def State.takeCommand (s : State) : List Byte × State :=
  let r := s.bytesAt (barKey (64 * (s.sys.cmdHead.toNat % 64))) 64
  let h := s.sys.cmdHead + 1
  (r, { s with sys := { s.sys with cmdHead := h } }.setNat (barKey 0x120000) 4 h.toNat)

/-- The oldest command executed. -/
def runPending (s : State) : Res :=
  match s.takeCommand with
  | (r, s) => match decodeCommand r with
    | some i => exec i s
    | none => .next (s.unknownCommand (leAt r 0 2) (BitVec.ofNat 32 (leAt r 4 4)))

/-! ### Choices -/

/-- Whether an instruction is run by a wave or comes from the command ring, so that no event of its own brings it. -/
def notAnEvent (i : Instr) : Bool := (encode i).isSome || (commandHead i).isSome

/-- Whether an event reaches a device that has powered off (R392): only a reset does. -/
def reaches (s : State) (i : Instr) : Bool := match i with | .pcieReset => true | _ => !s.sys.off

/-- A choice of the outside run. -/
def runChoice (c : Choice) (s : State) : Res :=
  match c with
  | .issue id refused answers =>
    if s.sys.off then .next s else
    andThen (runIssue id { s with refused, answers }) fun s => { s with refused := [], answers := [] }
  | .event i => if notAnEvent i || !reaches s i || !inTurn s i then .next s else execServed i s

/-- A wave issues, and the events have the next turn. -/
def issueTurn (s : State) : Option Res := (pickWave s).map fun id => runIssue id { s with turn := false }

/-- The dispatchers make their rounds; where they place nothing an event happens; and the waves have the next turn. -/
def eventTurn (s : State) : Option Res :=
  let t := s.rounds
  if { t with stalls := s.stalls } != s then some (.next { t with turn := true })
  else match autoEvent t with
    | some s' => some (.next { s' with turn := true })
    | none => if t = s then none else some (.next { t with turn := true })

/-- What the schedule chooses by itself: a pending command, else waves and events by turns. -/
def runSchedule (s : State) : Res :=
  if s.sys.off then .next s
  else if commandPending s then runPending s
  else if s.turn then ((issueTurn s <|> eventTurn s).getD (.next s))
  else ((eventTurn s <|> issueTurn s).getD (.next s))

end Sys2Proof.Machine
end

