-- ==== Sys2Proof/Machine/Boot.lean ====
section
/-! DEFINITION. What placing one instruction where the next step fetches it takes: a line with its parity, and, where no
wave stands ready, the least machine in which one does (log entry 7). -/

namespace Sys2Proof.Machine

/-- A line with one instruction in a slot and fill slots around it, every slot a legal target, with its parity. -/
def lineWith (slot : Nat) (i : BitVec 96) : List Byte :=
  let payload := (List.range 5).flatMap fun k => leBytes 12 (if k = slot then i.toNat else 2 ^ 96 - 1)
  payload ++ [0x1F#8, 0#8, 0#8, BitVec.ofNat 8 (linePar payload)]

/-- Where the loaded code, page tables and kernel header stand, VA and physical address alike. -/
def bootCode : Nat := 0x10000
/-- The kernel header's VA. -/
def bootHeader : Nat := 0x20000

/-- The header of the loaded kernel. -/
def bootKernel : Header :=
  { entry := BitVec.ofNat 64 bootCode, widths := [5, 5, 4, 10, 10, 10], vregs := 256, waves := 1, hres := 64, scratch := 65536,
    priv := 256, splits := [], shared := [], quad := true, determ := false, idemp := false }

/-- One context, queue, launch, gang, workgroup and wave with all lanes at the code, on page tables that map the first
512 MiB onto themselves. -/
def State.boot (s : State) : State :=
  let mem := memWrite s.mem 0x100000 (leBytes 8 0x200001)
  let mem := memWrite mem 0x200000 (leBytes 8 0x3D)
  { s with
    mem
    ctxs := tput s.ctxs 0
      { part := 0, priv := false, slotq := 32, ptroot := 0x100000, spill := 0, spillsize := 0, trapring := none,
        faultring := none, watermark := 0, staging := 0, nexport := 0, exports := 0, pinpage := 0 }
    queues := tput s.queues 1
      { ring := 0, entries := 1, ctx := 0, prio := 0, det := false, always := false, gang := 16, headwb := 0, ebb := 0x40000,
        ebbsize := 0x10000, rejlog := 0, seq := 1 }
    launches := tput s.launches (launchKey 1 0)
      { ctx := 0, queue := 1, seq := 0, recVa := 0, target := BitVec.ofNat 64 bootHeader, counts := [1, 1, 1, 1, 1], prio := 0,
        relSys := false, flags := 0, args := 0, pin := 0, pininc := 0, deps := [], hdrVa := BitVec.ofNat 64 bootHeader,
        header := some bootKernel, state := .eligible, granted := true, nextWg := 1, wgs := [1], live := 1 }
    gangs := tput s.gangs 1 { cluster := 0, launch := launchKey 1 0, wgs := [1] }
    wgs := tput s.wgs 1
      { launch := launchKey 1 0, gang := 1, index := 0, f2 := 0, core := 0, lcore := 0, waves := 1, started := true }
    waves := tput s.waves 32
      { vpc := allLanes.map fun l => (l, BitVec.ofNat 64 bootCode), status := .ready }
    nextId := max s.nextId 2 }

/-- An instruction put into the slot that a wave fetches next: its line's slot and parity, the core's copy of the line
and its update mark gone. -/
def State.placeAt (s : State) (id : Nat) (i : BitVec 96) : State :=
  let s' := { s with cur := id }
  match s'.env? noGuard with
  | none => s
  | some e =>
    match translate s (some e.wg.core) e.ctx e.c (lineOf e.pc).toNat .fetch with
    | .error _ => s
    | .ok p =>
      let bs := lineWith (e.pc &&& 7#64).toNat i
      let s := { s with mem := memWrite s.mem p.key bs, marks := tdel s.marks (p.key / 64), agenda := .issue id [] [] :: s.agenda }
      s.modCore e.wg.core fun c => { c with lines := tdel c.lines (lineKey e.ctx (lineOf e.pc)) }

end Sys2Proof.Machine
end

