-- ==== Sys2Proof/Machine/Step.lean ====
section
/-! DEFINITION. The step of the device, and the placing of an instruction where it fetches next. -/

namespace Sys2Proof.Machine

/-- One step: the outside's next choice; without one, what the schedule chooses. -/
def step (s : State) : Host.Outcome State Fault Refusal :=
  match s.agenda with
  | c :: rest => runChoice c { s with agenda := rest }
  | [] => runSchedule s

/-- The bits of an instruction stored where the next step fetches, in a loaded machine where none runs yet. -/
def State.withFetchWord (s : State) (nbits w : Nat) : State :=
  let i := BitVec.ofNat 96 (w % 2 ^ (min nbits 96))
  match pickWave s with
  | some id => s.placeAt id i
  | none => s.boot.placeAt 32 i

end Sys2Proof.Machine
end

