-- ==== Sys2Proof/Safety.lean ====
section
/-! DEFINITION. The words that statements use: tidy states, what an issue that completes leaves unchanged, and the
spec's per-lane functions of the ALU class in one table. -/

namespace Sys2Proof.Machine

/-! ### Tidy states -/

/-- Keys strictly rise. -/
def rising {α : Type} (t : Table α) : Prop := t.Pairwise fun a b => a.1 < b.1

/-- The register tables of a wave are in their form. -/
def Wave.tidy (w : Wave) : Prop :=
  rising w.v ∧ rising w.s ∧ rising w.p ∧ rising w.f ∧ rising w.vpc ∧ rising w.ret ∧ rising w.depth

/-- Memory is canonical, and the table of waves, every wave's registers, every cluster's pins, every queue's frames and
every gang's reservations are in their form. -/
def Tidy (s : State) : Prop :=
  Memory.wf s.mem = true ∧ rising s.waves ∧ (∀ x ∈ s.waves, x.2.tidy) ∧ (∀ x ∈ s.clusters, rising x.2.pins) ∧
  (∀ x ∈ s.queues, rising x.2.frames) ∧ ∀ x ∈ s.gangs, rising x.2.res

/-! ### What an issue leaves -/

/-- The machine is as before but for the issuing wave. -/
def waveOnly (e : Env) (s t : State) : Prop := t = { s with waves := tput s.waves e.id (t.wave e.id) }

/-- The machine is as before but for the issuing wave, and every byte of memory reads as before. -/
def memKept (s t : State) : Prop := ∀ a, memGet t.mem a = memGet s.mem a

/-- Every issuing lane of the wave stands at the next instruction, every other lane where it stood (R9, R113). -/
def passed (e : Env) (t : State) : Prop :=
  ∀ l, l < 32 → (t.wave e.id).pc l = if e.issuing.getLsbD l then nextPc e.pc else e.w.pc l

/-- The `v` registers are as before, but for those that a test names by register and lane. -/
def vKept (w w' : Wave) (d : Nat → Nat → Bool) : Prop := ∀ n l, l < 32 → d n l = false → w'.vreg n l = w.vreg n l
/-- The `s` registers but for those that a test names. -/
def sKept (w w' : Wave) (d : Nat → Bool) : Prop := ∀ n, d n = false → w'.sreg n = w.sreg n
/-- The predicates but for those that a test names. -/
def pKept (w w' : Wave) (d : Nat → Bool) : Prop := ∀ n, d n = false → w'.preg n = w.preg n
/-- The format registers but for those that a test names. -/
def fKept (w w' : Wave) (d : Nat → Bool) : Prop := ∀ n, d n = false → w'.freg n = w.freg n

/-- Everything of a wave but its registers, flags, PCs and status: counters, operations in flight, reports, tokens, return
stacks, pairs, the engines' progress. -/
def restKept (w w' : Wave) : Prop :=
  w' = { w with v := w'.v, s := w'.s, p := w'.p, f := w'.f, fflags := w'.fflags, vpc := w'.vpc, status := w'.status }

/-- No register and no flag of a wave has changed. -/
def regsKept (w w' : Wave) : Prop := w'.v = w.v ∧ w'.s = w.s ∧ w'.p = w.p ∧ w'.f = w.f ∧ w'.fflags = w.fflags

/-- An issue that is over: lanes past it, only the wave changed, and of the wave only registers, flags, PCs and status. -/
def isOver (e : Env) (s t : State) : Prop := waveOnly e s t ∧ passed e t ∧ restKept e.w (t.wave e.id)

/-- Every enabled lane stands at its target, every other issuing lane at the next instruction, the rest where they stood. -/
def went (e : Env) (t : State) (target : Nat → DWord) : Prop :=
  ∀ l, l < 32 → (t.wave e.id).pc l =
    if e.enabled.getLsbD l then target l else if e.issuing.getLsbD l then nextPc e.pc else e.w.pc l

/-- The machine is as before but for the issuing wave and its core. -/
def coreOnly (e : Env) (s t : State) : Prop :=
  t = { s with waves := tput s.waves e.id (t.wave e.id), cores := tput s.cores e.wg.core (t.core e.wg.core) }

/-- A register or pair that an instruction writes for its enabled lanes. -/
def isDst (e : Env) (wide : Bool) (d : Nat) (n l : Nat) : Bool := e.enabled.getLsbD l && (n == d || (wide && n == d + 1))

/-- Only `v` registers have changed, and of them only those of enabled lanes that `d` names. -/
def vOnly (e : Env) (wide : Bool) (d : Nat) (w' : Wave) : Prop :=
  vKept e.w w' (isDst e wide d) ∧ w'.s = e.w.s ∧ w'.p = e.w.p ∧ w'.f = e.w.f

/-- Only `s`n has changed, if that. -/
def sOnly (e : Env) (n : Nat) (w' : Wave) : Prop :=
  w'.v = e.w.v ∧ sKept e.w w' (· == n) ∧ w'.p = e.w.p ∧ w'.f = e.w.f

/-- Only `p`n has changed, and of it only the enabled lanes' bits, which are as a test says; a write to `p15` is discarded
(R52). -/
def pOnly (e : Env) (n : Nat) (b : Nat → Bool) (w' : Wave) : Prop :=
  w'.v = e.w.v ∧ w'.s = e.w.s ∧ w'.f = e.w.f ∧ pKept e.w w' (· == n) ∧ (n = 15 → w'.p = e.w.p) ∧
  (n ≠ 15 → ∀ l, l < 32 → (w'.preg n).getLsbD l = if e.enabled.getLsbD l then b l else (e.w.preg n).getLsbD l)

/-- `s`n alone of the registers and flags has changed: it holds a value. -/
def sGets (e : Env) (t : State) (n : BitVec 8) (x : DWord) : Prop :=
  sOnly e n.toNat (t.wave e.id) ∧ (t.wave e.id).fflags = e.w.fflags ∧ (t.wave e.id).sreg n.toNat = x

/-- `p`n alone of the registers and flags has changed: every enabled lane's bit holds a result (R52). -/
def pGets (e : Env) (t : State) (n : BitVec 8) (b : Bool) : Prop :=
  pOnly e n.toNat (fun _ => b) (t.wave e.id) ∧ (t.wave e.id).fflags = e.w.fflags

/-- A release at a scope meets no report of an enabled lane and is over, and leaves a state: what came before it is performed, the
stash written back, and at `.sys` the markers are answered (R82, R95, R104, R393). -/
def released (s s' : State) (e : Env) (sc : Scope) : Prop :=
  e.reportsAt (fallsAt sc) = [] ∧ s.releaseAt e sc = .done s'

/-! ### Counted operations -/

/-- The lanes' accesses resolve, none of them to a stash line that is to be filled (R82, R183). -/
def accessed (s : State) (e : Env) (kind : AccKind) (m : Mem) (size : Nat) (three : Bool) (lanes : List Nat) (T : Nat → Target) :
    Prop :=
  ∀ l ∈ lanes, (if three then resolve3 s e kind m.space l (e.ea m l) else resolve s e kind m.space size true l (e.ea m l)) = .ok (T l) ∧
    fillFor s size (T l) = none

/-- A load-class operation has been issued: it joins the wave's pending ones and holds the ld counter; no register and no
byte of memory has changed yet (R130). -/
def loadIssued (e : Env) (s t : State) (op : LoadOp) (acc : List LaneAcc) (zeros : LaneMask) : Prop :=
  passed e t ∧ regsKept e.w (t.wave e.id) ∧ t.mem = s.mem ∧ (t.wave e.id).ldCnt = e.w.ldCnt + 1 ∧
  ∃ p, (t.wave e.id).loads = e.w.loads ++ [p] ∧ p.op = op ∧ p.pc = e.pc ∧ p.lanes = e.active ∧ p.acc = acc ∧ p.zeros = zeros

/-- A store-class operation has been issued: it joins its core's store order and holds the st counter (R92, R130). -/
def storeIssued (e : Env) (s t : State) (ls : List LaneStore) : Prop :=
  passed e t ∧ (t.wave e.id).v = e.w.v ∧ (t.wave e.id).s = e.w.s ∧ (t.wave e.id).p = e.w.p ∧ (t.wave e.id).f = e.w.f ∧
  t.mem = s.mem ∧ (t.wave e.id).stCnt = e.w.stCnt + 1 ∧
  ∃ p, (t.core e.wg.core).fifo = (s.core e.wg.core).fifo ++ [p] ∧ p.wave = e.id ∧ p.pc = e.pc ∧ p.counted = true ∧ p.lanes = ls

/-- The wave's oldest load-class operation, all of it on bytes of this device, is performed and meets nothing: no error, no stash line
to be filled (R82, R130, R183). -/
def landsHere (s : State) (wave core : Nat) (p : PendingLoad) (r : LdReply) : Prop :=
  loadReady s wave core p r = true ∧ r.part = none ∧ r.errs = [] ∧ r.fromL1 = false ∧ p.zeros = 0 ∧
  s.fillAccs (waveCtxId s wave) core (p.op.size p.acc) p.acc = (s, []) ∧
  ∀ x ∈ p.acc, x.remote = false ∧ badLine s x.key = false ∧ x.lane < 32

/-- What operations at keys give in their order, each with its two values: what each reads, and memory after them (R87, R188). -/
def atomsDone (op : AtomOp) (ty : AluTy) : Memory → List (Nat × DWord × DWord) → List Nat × Memory
  | m, [] => ([], m)
  | m, (k, v, w1) :: xs =>
    let old := leNat (memRead m k (atomBytes ty))
    let new := match atomNew op ty old v.toNat w1.toNat with
      | some y => memWrite m k (leBytes (atomBytes ty) y)
      | none => m
    let rest := atomsDone op ty new xs
    (old :: rest.1, rest.2)

/-- Memory after the reductions, or the backwash adds to memory itself, of a store's lanes in their order (R73, R87, R190). -/
def redsDone (m : Memory) (xs : List LaneStore) : Memory :=
  xs.foldl (fun m x => match x.op with
    | .red op ty v => (atomsDone op ty m [(x.acc.key, v, 0)]).2
    | .bwadd false c => memWrite m x.acc.key (leBytes 4 (fmt32.add .rne (leNat (memRead m x.acc.key 4)) c.toNat).1)
    | _ => m) m

/-- Messages have gone out and nothing else has happened: besides the outbox only what the links carry has changed (R375). -/
def sentOnly (s t : State) : Prop :=
  t = { s with outbox := t.outbox, fabric := { s.fabric with ports := t.fabric.ports }, free := t.free }

/-- A release meets nothing to take or to write back, or the instruction is no release (R198, R393). -/
def relEasy (e : Env) (ord : Order) : Prop := isRelease ord = false ∨ (e.w.reports = [] ∧ e.wg.stash = [])

/-! ### Memory that engines and queues write -/

/-- Every byte but those of the ebb region that a frame, a record or a mark of `n` bytes takes reads as before (R350). -/
def ebbOnly (s t : State) (q : Queue) (n : Nat) : Prop := ∀ a, tget? (ebbCells s q n) a = none → memGet t.mem a = memGet s.mem a

/-- Whether `w` bits at a bit offset have a bit in the byte at a key of this device. -/
def bitsAt (place : Nat → Except (Byte × DWord) EngineByte) (bit w a : Nat) : Prop :=
  ∃ i, i < spanBytes (bit % 8) w ∧ place (bit / 8 + i) = .ok (.key a)

/-- Whether the byte at a key is one of the destination that a chunk of a shuttle operation writes (R42, R220, R221). -/
def destByte (s : State) (o : ShuttleOp) (chunk a : Nat) : Prop :=
  let w := ewBits o.tensor.ew
  match o.kind with
  | .flat => bitsAt (vaPlace s o o.tensor.base .write) (4096 * chunk) (8 * min 512 (o.len - 512 * chunk)) a
  | .read | .gather => ∃ n ∈ o.chunkElems chunk, bitsAt (densePlace s o .write) (o.element n).1 w a
  | .write | .scatter | .fill => ∃ n ∈ o.chunkElems chunk, ∃ va bit, (o.element n).2 = some (va, bit) ∧ bitsAt (vaPlace s o va .write) bit w a

/-! ### Graphs -/

/-- A walker that waits for nothing stands at a well-formed node of a kind whose gate is open (R42, R349). -/
def standsAt (s : State) (kind : Nat) (x : AtNode) : Prop :=
  tget? s.walkers x.id = some x.w ∧ tget? s.launches x.w.launch = some x.L ∧ tget? s.queues x.L.queue = some x.q ∧
  x.w.ended = false ∧ x.w.unwind = false ∧ x.w.broken = false ∧ x.w.pending = 0 ∧ x.w.node.toNat % 64 = 0 ∧ s.readCtx x.L.ctx x.w.node.toNat 64 = .ok x.r ∧
  nodeBad s x.q.det x.r = false ∧ leAt x.r 0 1 = kind ∧ x.gateOpen s = true

/-! ### Host commands -/

/-- The stage that the device must have reached for a command (R337, R377). -/
def commandStage : Instr → Nat
  | .partSet .. | .portQuery .. => 2
  | .fabricCfg .. | .attest .. => 1
  | .ctxCreate .. | .ctxDestroy .. | .exportSync .. | .spillSet .. | .qCreate .. | .qDestroy .. | .qQuery .. | .qSuspend ..
  | .qResume .. | .bind .. | .unbind .. | .tlbInv .. | .faultReply .. | .trapReply .. | .devFence .. | .devAdmit .. => 3
  | _ => 0

/-- A command executed: whatever bars it is absent, and its reply of status 0 follows what it did (R336, R338). -/
def answers (i : Instr) (s u : State) (results : List Byte) : Prop :=
  ∃ op tag, commandHead i = some (op, tag) ∧ exec i s = .next (u.hostReply op tag 0 results)

/-! ### The ALU class -/

/-- What an ALU instruction computes per lane: its operands' form, the type of D, which operands are read and how wide,
and the value with its flags (R151). -/
structure AluRule where
  o   : Alu
  dty : AluTy
  W   : Widths
  f   : Nat → Nat → Nat → Nat × Word

/-- A rule per element of one type. -/
def elemRule (o : Alu) (b c : Bool) (f : Nat → Nat → Nat → Nat × Word) : AluRule := ⟨o, o.ty, tyWidths o.ty b c, perElem o.ty f⟩

/-- The rules of R152 to R157 for the integer instructions that compute per lane from A, B and C. -/
def intRule : Instr → Option AluRule
  | .iadd o sat => some (elemRule o true false fun a b _ => (narrow o.ty sat (readInt o.ty a + readInt o.ty b), 0))
  | .isub o sat => some (elemRule o true false fun a b _ => (narrow o.ty sat (readInt o.ty a - readInt o.ty b), 0))
  | .imul o => some (elemRule o true false fun a b _ => (narrow o.ty false (readInt o.ty a * readInt o.ty b), 0))
  | .imulhi o => some (elemRule o true false fun a b _ =>
      (narrow o.ty false (readInt o.ty a * readInt o.ty b / (2 ^ o.ty.elemWidth : Int)), 0))
  | .imad o sat => some (elemRule o true true fun a b c =>
      (narrow o.ty sat (readInt o.ty a * readInt o.ty b + readInt o.ty c), 0))
  | .imin o => some (elemRule o true false fun a b _ => (narrow o.ty false (min (readInt o.ty a) (readInt o.ty b)), 0))
  | .imax o => some (elemRule o true false fun a b _ => (narrow o.ty false (max (readInt o.ty a) (readInt o.ty b)), 0))
  | .iabs o sat => some (elemRule o false false fun a _ _ => (narrow o.ty sat (readInt o.ty a).natAbs, 0))
  | .and o => some (elemRule o true false fun a b _ => (a &&& b, 0))
  | .or o => some (elemRule o true false fun a b _ => (a ||| b, 0))
  | .xor o => some (elemRule o true false fun a b _ => (a ^^^ b, 0))
  | .andn o => some (elemRule o true false fun a b _ => (a &&& (2 ^ o.ty.elemWidth - 1 - b), 0))
  | .popc o => some (elemRule o false false fun a _ _ => (popcNat o.ty.elemWidth a, 0))
  | .clz o => some (elemRule o false false fun a _ _ => (clzNat o.ty.elemWidth a, 0))
  | .ctz o => some (elemRule o false false fun a _ _ => (ctzNat o.ty.elemWidth a, 0))
  | .brev o => some (elemRule o false false fun a _ _ => (brevNat o.ty.elemWidth a, 0))
  | .perm o => some (elemRule o true true fun a b c => (permNat a b c, 0))
  | .mov o => some ⟨o, o.ty, ⟨some o.ty.is64, none, some o.ty.is64, none⟩, fun _ b _ => (b, 0)⟩
  | _ => none

/-- The rules of R154 for the instructions that take a count or a field from b, one 32-bit register. -/
def shiftRule : Instr → Option AluRule
  | .shl o => some ⟨o, o.ty, countWidths o.ty false, fun a b _ => packedCount o.ty shlNat a b⟩
  | .shr o => some ⟨o, o.ty, countWidths o.ty false, fun a b _ => packedCount o.ty shrNat a b⟩
  | .sar o => some ⟨o, o.ty, countWidths o.ty false, fun a b _ => packedCount o.ty sarNat a b⟩
  | .rot o => some ⟨o, o.ty, countWidths o.ty false, fun a b _ => packedCount o.ty rotNat a b⟩
  | .bfe o => some ⟨o, o.ty, countWidths o.ty false, fun a b _ =>
      match fieldOf o.ty.elemWidth b with
      | none => (0, 0)
      | some (off, len) =>
        let x := bitsOf a (off + len - 1) off
        (if o.ty.signed then ofInt o.ty.elemWidth (sext len x) else x, 0)⟩
  | .bfi o => some ⟨o, o.ty, countWidths o.ty true, fun a b c =>
      match fieldOf o.ty.elemWidth b with
      | none => (c, 0)
      | some (off, len) => (c - bitsOf c (off + len - 1) off * 2 ^ off + (a % 2 ^ len) * 2 ^ off, 0)⟩
  | _ => none
where
  /-- One count for a 32- or 64-bit value, a count of its own for each packed element. -/
  packedCount (ty : AluTy) (f : Nat → Nat → Nat → Nat) (a b : Nat) : Nat × Word :=
    if ty.elemCount = 1 then (f ty.elemWidth a b, 0) else perElem ty (fun a b _ => (f ty.elemWidth a b, 0)) a b 0

/-- The rules of R57 and R164 to R169 for the floating-point instructions that compute per lane. -/
def fltRule : Instr → Option AluRule
  | .fadd o => some (elemRule o true false fun a b _ => (tyFmt o.ty).add o.rnd a b)
  | .fsub o => some (elemRule o true false fun a b _ => (tyFmt o.ty).sub o.rnd a b)
  | .fmul o => some (elemRule o true false fun a b _ => (tyFmt o.ty).mul o.rnd a b)
  | .ffma o => some (elemRule o true true fun a b c => (tyFmt o.ty).fma o.rnd a b c)
  | .fmin o => some (elemRule o true false fun a b _ => (tyFmt o.ty).fmin a b)
  | .fmax o => some (elemRule o true false fun a b _ => (tyFmt o.ty).fmax a b)
  | .fclamp o => some (elemRule o true true fun a b c => (tyFmt o.ty).clamp a b c)
  | .frcp o => some (elemRule o false false fun a _ _ => (tyFmt o.ty).rcp o.rnd a)
  | .frsq o => some (elemRule o false false fun a _ _ => (tyFmt o.ty).rsq o.rnd a)
  | .fsqrt o => some (elemRule o false false fun a _ _ => (tyFmt o.ty).sqrt o.rnd a)
  | .fexp2 o => some (elemRule o false false fun a _ _ => (tyFmt o.ty).exp2 o.rnd a)
  | .flog2 o => some (elemRule o false false fun a _ _ => (tyFmt o.ty).log2 o.rnd a)
  | .fsinpi o => some (elemRule o false false fun a _ _ => (tyFmt o.ty).sinpi o.rnd a)
  | .fcospi o => some (elemRule o false false fun a _ _ => (tyFmt o.ty).cospi o.rnd a)
  | .fround o => some (elemRule o false false fun a _ _ => (tyFmt o.ty).fround o.rnd a)
  | .ffract o => some (elemRule o false false fun a _ _ => (tyFmt o.ty).fract o.rnd a)
  | .fdiv o => some (elemRule o true false fun a b _ => (tyFmt o.ty).div o.rnd a b)
  | .fdot2 o => some ⟨o, .f32, tyWidths o.ty true true, fun a b c =>
      dot2 (tyFmt o.ty) o.rnd ((elemsOf o.ty a).getD 0 0) ((elemsOf o.ty b).getD 0 0) ((elemsOf o.ty a).getD 1 0)
        ((elemsOf o.ty b).getD 1 0) c⟩
  | .idot4 o mix sat => some ⟨o, .i32, tyWidths o.ty true true, fun a b c =>
      (narrow .i32 sat (((elemsOf o.ty a).zip (elemsOf o.ty b)).foldl (fun (acc : Int) (x, y) =>
        acc + readInt o.ty x * (if o.ty.signed != mix then sext 8 y else y)) 0 + sext 32 c), 0)⟩
  | .fldexp o => some ⟨o, o.ty, ⟨some o.ty.is64, some o.ty.is64, some false, none⟩, fun a b _ => (tyFmt o.ty).ldexp o.rnd a (sext 32 b)⟩
  | .fclass o => some ⟨o, .n32, ⟨some false, some o.ty.is64, none, none⟩, fun a _ _ => ((tyFmt o.ty).classify a, 0)⟩
  | .fcvt o src elem =>
    let useB := src == .f32 && o.ty.elemCount == 2
    some ⟨{ o with ty := if useB then src else o.ty }, o.ty, ⟨some o.ty.is64, some src.is64, if useB then some false else none, none⟩,
      fun a b _ => fcvtOp o.ty src o.rnd elem a b⟩
  | .f2i o src => some ⟨o, o.ty, ⟨some o.ty.is64, some src.is64, none, none⟩, fun a _ _ =>
      (tyFmt src).toIntTy o.rnd o.ty.signed o.ty.elemWidth a⟩
  | .i2f o src => some ⟨o, o.ty, ⟨some o.ty.is64, some src.is64, none, none⟩, fun a _ _ =>
      (tyFmt o.ty).roundInt o.rnd (readInt src a) 0 false⟩
  | _ => none

/-- The value and flags that a rule gives for a lane of an issue. -/
def AluRule.at (r : AluRule) (e : Env) (l : Nat) : Nat × Word :=
  r.f (readReg e.w r.o.sc (r.W.a.getD false) r.o.a.toNat l) (readB e.w r.o.ty (r.W.b.getD false) r.o.b l)
    (readReg e.w r.o.sc (r.W.c.getD false) r.o.c.toNat l)

/-- Whether D is a pair. -/
def AluRule.wide (r : AluRule) : Bool := r.W.d.getD false

/-- What D holds of a value for a lane: one `s` register in the scalar form, else the lane's `v` register or pair (R51, R52). -/
def dHolds (w : Wave) (ty : AluTy) (sc wide : Bool) (d l x : Nat) : Prop :=
  if sc then w.sreg d = (if wide then BitVec.ofNat 64 x else extS ty x)
  else if wide then w.vreg64 d l = BitVec.ofNat 64 x else w.vreg d l = BitVec.ofNat 32 x

/-- Whether a `v` register of a lane belongs to D. -/
def AluRule.isD (r : AluRule) (e : Env) (n l : Nat) : Bool :=
  !r.o.sc && e.enabled.getLsbD l && (n == r.o.d.toNat || (r.wide && n == r.o.d.toNat + 1))

/-- An ALU instruction that is over by its rule: D holds the value of every lane computed, every other register is as
before, and exactly the flags of the lanes that count are raised (R51, R52, R59, R151). -/
def AluRule.ran (r : AluRule) (e : Env) (w' : Wave) : Prop :=
  (∀ l ∈ e.passes r.o.sc, dHolds w' r.dty r.o.sc r.wide r.o.d.toNat l (r.at e l).1) ∧
  vKept e.w w' (r.isD e) ∧
  sKept e.w w' (fun n => r.o.sc && e.enabled != 0 && n == r.o.d.toNat) ∧ w'.p = e.w.p ∧ w'.f = e.w.f ∧
  w'.fflags = (e.passes r.o.sc).foldl (fun a l => a ||| (if r.o.sc then waveFlags e.active (r.at e l).2
    else laneFlags e.active l (r.at e l).2)) e.w.fflags

end Sys2Proof.Machine
end

