-- ==== Sys2Proof/Certificates/Slice0/Obligations.lean ====
section
/-! DEFINITION. The statements for the provers, family by family. An environment `e` with `s.env? g = some e` is the issue of
a wave of `s` under the guard `g`; the conditions beside it are those under which the spec has the instruction complete. -/

open Sys2Proof Sys2Proof.Machine

/-! ### Computation (R151 to R174) -/

/-- R151 to R157: an integer instruction that computes per lane gives D the rule's value in every lane it computes, raises no
flag but its own, and leaves every other register and all of the machine as they were. -/
def Obligations.IntegerRuns : Prop :=
  ∀ (i : Instr) (r : AluRule) (s : State) (e : Env), intRule i = some r ∨ shiftRule i = some r → Tidy s →
    s.env? r.o.g = some e → e.regsOk r.o r.W = true →
    ∃ t, exec i s = .next t ∧ isOver e s t ∧ r.ran e (t.wave e.id)

/-- R57, R59, R164 to R169: a floating-point instruction that computes per lane gives D the rule's value in every lane it computes, raises
the flags of those lanes that count, and leaves every other register and all of the machine as they were.
(The values of `fexp2`, `flog2`, `fsinpi` and `fcospi` are as correct as log entry 17 says; `ffract` of an integer and the flags of a
signalling f64 immediate are the model's choices, log entry 57.) -/
def Obligations.FloatRuns : Prop :=
  ∀ (i : Instr) (r : AluRule) (s : State) (e : Env), fltRule i = some r → Tidy s →
    s.env? r.o.g = some e → e.regsOk r.o r.W = true →
    ∃ t, exec i s = .next t ∧ isOver e s t ∧ r.ran e (t.wave e.id)

/-- R158, R166: `icmp` and `fcmp` write the enabled lanes' bits of `pD` from the comparison, combined with `pC`; `fcmp`
raises its flags. R158: `pset` writes the enabled lanes' bits of `pD`. -/
def Obligations.PredicatesRun : Prop :=
  (∀ (o : Alu) (cmb : Combine) (s : State) (e : Env), Tidy s → s.env? o.g = some e →
    e.regsOk o ⟨none, some o.ty.is64, some o.ty.is64, none⟩ = true →
    let a := fun l => readReg e.w false o.ty.is64 o.a.toNat l
    let b := fun l => readB e.w o.ty o.ty.is64 o.b l
    let old := fun l => (e.w.preg o.c.toNat).getLsbD l
    (∀ cc : Cond, ∃ t, exec (.icmp o cc cmb) s = .next t ∧ isOver e s t ∧ (t.wave e.id).fflags = e.w.fflags ∧
      pOnly e o.d.toNat (fun l => combineBit cmb (old l) (condInt cc (readInt o.ty (a l)) (readInt o.ty (b l)))) (t.wave e.id)) ∧
    (∀ cc : FCond, ∃ t, exec (.fcmp o cc cmb) s = .next t ∧ isOver e s t ∧
      (t.wave e.id).fflags = e.w.fflags ||| (lanesOf e.enabled).foldl (fun x l =>
        x ||| laneFlags e.active l ((tyFmt o.ty).cmp cc (a l) (b l)).2) 0 ∧
      pOnly e o.d.toNat (fun l => combineBit cmb (old l) ((tyFmt o.ty).cmp cc (a l) (b l)).1) (t.wave e.id))) ∧
  (∀ (g : Guard) (d : BitVec 8) (op : PsetOp) (s : State) (e : Env), Tidy s → s.env? g = some e →
    (∀ a, op = .nz a → e.vTy false a.toNat = true) →
    ∃ t, exec (.pset g d op) s = .next t ∧ isOver e s t ∧ (t.wave e.id).fflags = e.w.fflags ∧
      pOnly e d.toNat (fun l =>
        let p := fun (n : BitVec 8) => (e.w.preg n.toNat).getLsbD l
        match op with
        | .and a b => p a && p b
        | .or a b => p a || p b
        | .xor a b => p a != p b
        | .andn a b => p a && !p b
        | .not a => !p a
        | .imm w => w.getLsbD l
        | .nz a => e.w.vreg a.toNat l != 0) (t.wave e.id))

/-- R157: `sel`, `lea`, the two moves of format registers and `movi`. -/
def Obligations.MovesRun : Prop :=
  (∀ (o : Alu) (s : State) (e : Env), Tidy s → s.env? o.g = some e → e.regsOk o (tyWidths o.ty true false) = true →
    ∃ t, exec (.sel o) s = .next t ∧ isOver e s t ∧ (t.wave e.id).fflags = e.w.fflags ∧
      vOnly e o.ty.is64 o.d.toNat (t.wave e.id) ∧
      ∀ l ∈ lanesOf e.enabled, dHolds (t.wave e.id) o.ty false o.ty.is64 o.d.toNat l
        (if (e.w.preg o.c.toNat).getLsbD l then readReg e.w false o.ty.is64 o.a.toNat l else readB e.w o.ty o.ty.is64 o.b l)) ∧
  (∀ (o : Alu) (k : BitVec 2) (s : State) (e : Env), Tidy s → s.env? o.g = some e →
    e.regsOk o ⟨some true, none, some false, none⟩ = true →
    ∃ t, exec (.lea o k) s = .next t ∧ isOver e s t ∧ (t.wave e.id).fflags = e.w.fflags ∧
      (if o.sc then sOnly e o.d.toNat (t.wave e.id) else vOnly e true o.d.toNat (t.wave e.id)) ∧
      ∀ l ∈ e.passes o.sc, dHolds (t.wave e.id) o.ty o.sc true o.d.toNat l
        (e.w.sreg o.a.toNat + ((BitVec.ofNat 32 (readB e.w o.ty false o.b l)).signExtend 64 <<< k.toNat)).toNat) ∧
  (∀ (g : Guard) (d : BitVec 8) (b : SrcB) (s : State) (e : Env), Tidy s → s.env? g = some e →
    ∃ t, exec (.movToFormat g d b) s = .next t ∧ isOver e s t ∧ (t.wave e.id).fflags = e.w.fflags ∧
      (t.wave e.id).v = e.w.v ∧ (t.wave e.id).s = e.w.s ∧ (t.wave e.id).p = e.w.p ∧ fKept e.w (t.wave e.id) (· == d.toNat) ∧
      (t.wave e.id).freg d.toNat = if e.enabled = 0 then e.w.freg d.toNat else BitVec.ofNat 32 (readB e.w .n32 false b 0)) ∧
  (∀ (g : Guard) (d b : BitVec 8) (s : State) (e : Env), Tidy s → s.env? g = some e →
    ∃ t, exec (.movFromFormat g d b) s = .next t ∧ isOver e s t ∧ (t.wave e.id).fflags = e.w.fflags ∧ sOnly e d.toNat (t.wave e.id) ∧
      (t.wave e.id).sreg d.toNat = if e.enabled = 0 then e.w.sreg d.toNat else (e.w.freg b.toNat).setWidth 64) ∧
  (∀ (g : Guard) (ty : AluTy) (d : BitVec 8) (x : Word) (s : State) (e : Env), Tidy s → s.env? g = some e →
    (∃ t, exec (.movi g true ty d x) s = .next t ∧ isOver e s t ∧ (t.wave e.id).fflags = e.w.fflags ∧ sOnly e d.toNat (t.wave e.id) ∧
      (t.wave e.id).sreg d.toNat = if e.enabled = 0 then e.w.sreg d.toNat else x ++ (e.w.sreg d.toNat).setWidth 32) ∧
    (e.vTy true d.toNat = true →
      ∃ t, exec (.movi g false ty d x) s = .next t ∧ isOver e s t ∧ (t.wave e.id).fflags = e.w.fflags ∧
        vOnly e false (d.toNat + 1) (t.wave e.id) ∧ ∀ l ∈ lanesOf e.enabled, (t.wave e.id).vreg (d.toNat + 1) l = x))

/-- R160, R161, R163: lanes give their values to others.
(That B is one 32-bit register or immediate whatever the type, and that `match` writes a 32-bit D, are the model's readings, log
entry 51.) -/
def Obligations.LaneMovesRun : Prop :=
  ∀ (o : Alu) (s : State) (e : Env), Tidy s → s.env? o.g = some e →
    let wide := o.ty.is64
    let b := fun l => readB e.w o.ty false o.b l
    let a := fun l => readReg e.w false wide o.a.toNat l
    let gives := fun (i : Instr) (src : Nat → Nat → Nat) =>
      ∃ t, exec i s = .next t ∧ isOver e s t ∧ (t.wave e.id).fflags = e.w.fflags ∧ vOnly e wide o.d.toNat (t.wave e.id) ∧
        ∀ l ∈ lanesOf e.enabled, dHolds (t.wave e.id) o.ty false wide o.d.toNat l (a (src l (b l)))
    (e.regsOk o ⟨some wide, some wide, some false, none⟩ = true →
      (∀ mode, gives (.shfl o mode) (shflSource mode)) ∧ gives (.bcast o) (fun _ x => x % 32)) ∧
    (e.vTy wide o.a.toNat = true → e.vTy false o.d.toNat = true →
      ∃ t, exec (.matchLanes o) s = .next t ∧ isOver e s t ∧ (t.wave e.id).fflags = e.w.fflags ∧
        vOnly e false o.d.toNat (t.wave e.id) ∧ ∀ l ∈ lanesOf e.enabled, ∀ k, k < 32 →
          ((t.wave e.id).vreg o.d.toNat l).getLsbD k = (e.active.getLsbD k && (a k == a l))) ∧
    (e.vTy wide o.a.toNat = true → e.enabled ≠ 0 →
      ∃ t, exec (.rdlane o) s = .next t ∧ isOver e s t ∧ (t.wave e.id).fflags = e.w.fflags ∧ sOnly e o.d.toNat (t.wave e.id) ∧
        dHolds (t.wave e.id) o.ty true wide o.d.toNat 0 (a (b 0 % 32))) ∧
    (e.vTy wide o.d.toNat = true → e.enabled ≠ 0 →
      ∃ t, exec (.wrlane o) s = .next t ∧ isOver e s t ∧ (t.wave e.id).fflags = e.w.fflags ∧
        vKept e.w (t.wave e.id) (fun n l => l == b 0 % 32 && (n == o.d.toNat || (wide && n == o.d.toNat + 1))) ∧
        (t.wave e.id).s = e.w.s ∧ (t.wave e.id).p = e.w.p ∧ (t.wave e.id).f = e.w.f ∧
        dHolds (t.wave e.id) o.ty false wide o.d.toNat (b 0 % 32) (readReg e.w true wide o.a.toNat 0))

/-- R68, R69, R161, R162: votes and reductions over the contributing lanes.
(That the scalar form of `wred` reads a vector register A is the model's reading, log entry 51.) -/
def Obligations.ReductionsRun : Prop :=
  (∀ (g : Guard) (op : VoteOp) (d a : BitVec 8) (s : State) (e : Env), Tidy s → s.env? g = some e → e.enabled ≠ 0 →
    let bits := e.w.preg a.toNat &&& e.active
    ∃ t, exec (.vote g op d a) s = .next t ∧ isOver e s t ∧ (t.wave e.id).fflags = e.w.fflags ∧
      (match op with
       | .some => pOnly e d.toNat (fun _ => bits != 0) (t.wave e.id)
       | .every => pOnly e d.toNat (fun _ => bits == e.active) (t.wave e.id)
       | .same => pOnly e d.toNat (fun _ => bits == 0 || bits == e.active) (t.wave e.id)
       | .mask => sOnly e d.toNat (t.wave e.id) ∧ (t.wave e.id).sreg d.toNat = bits.setWidth 64)) ∧
  (∀ (o : Alu) (op : RedOp) (s : State) (e : Env), Tidy s → s.env? o.g = some e → e.vTy o.ty.is64 o.a.toNat = true →
    e.vTy o.ty.is64 o.d.toNat = true ∨ o.sc = true →
    let r := tree (redStep op o.ty o.rnd) 5 (contributions e o.ty op o.a.toNat)
    ∃ t, exec (.wred o op) s = .next t ∧ isOver e s t ∧ (t.wave e.id).fflags = e.w.fflags ||| waveFlags e.active r.2 ∧
      (if o.sc then sOnly e o.d.toNat (t.wave e.id) else vOnly e o.ty.is64 o.d.toNat (t.wave e.id)) ∧
      ∀ l ∈ e.passes o.sc, dHolds (t.wave e.id) o.ty o.sc o.ty.is64 o.d.toNat l r.1) ∧
  (∀ (o : Alu) (op : RedOp) (excl : Bool) (s : State) (e : Env), Tidy s → s.env? o.g = some e →
    e.vTy o.ty.is64 o.a.toNat = true → e.vTy o.ty.is64 o.d.toNat = true →
    let ident := redIdentity op o.ty
    let sums := scanGroups (redStep op o.ty o.rnd) ident ident 0 4 (contributions e o.ty op o.a.toNat)
    let at_ := fun l => if excl then (if l = 0 then (ident, 0) else sums.getD (l - 1) (0, 0)) else sums.getD l (0, 0)
    ∃ t, exec (.wscan o op excl) s = .next t ∧ isOver e s t ∧ vOnly e o.ty.is64 o.d.toNat (t.wave e.id) ∧
      (t.wave e.id).fflags = (lanesOf e.enabled).foldl (fun x l => x ||| laneFlags e.active l (at_ l).2) e.w.fflags ∧
      ∀ l ∈ lanesOf e.enabled, dHolds (t.wave e.id) o.ty false o.ty.is64 o.d.toNat l (at_ l).1)

/-- R61, R170 to R174: the narrow-format instructions under a valid format register.
(The corners of log entries 16 and 23 are the model's readings; that `qscale` and `qamax` raise no flag, and the positive NaN pattern
of `qpack` under a NaN scale, are its choices, log entry 57.) -/
def Obligations.NarrowRuns : Prop :=
  ∀ (o : Alu) (s : State) (e : Env), Tidy s → s.env? o.g = some e → e.vTy false o.d.toNat = true → e.vTy false o.a.toNat = true →
    e.bOk o.b = true → NFmt.valid (e.w.freg o.c.toNat) = true →
    let f := NFmt.ofWord (e.w.freg o.c.toNat)
    let b := fun l => readB e.w o.ty false o.b l
    (∃ t, exec (.qscale o) s = .next t ∧ isOver e s t ∧ (t.wave e.id).fflags = e.w.fflags ∧ vOnly e false o.d.toNat (t.wave e.id) ∧
      ∀ l ∈ lanesOf e.enabled, (t.wave e.id).vreg o.d.toNat l = BitVec.ofNat 32 (scaleOf f (e.w.vreg o.a.toNat l).toNat)) ∧
    (e.vOk o.a.toNat f.count = true →
      (∃ t, exec (.qamax o) s = .next t ∧ isOver e s t ∧ (t.wave e.id).fflags = e.w.fflags ∧ vOnly e false o.d.toNat (t.wave e.id) ∧
        ∀ l ∈ lanesOf e.enabled, (t.wave e.id).vreg o.d.toNat l = BitVec.ofNat 32 (blockMax e f o.a.toNat l)) ∧
      ∀ seed : Word,
        let q := fun l => packLane f o.rnd (match o.b with | .imm _ => 0 | _ => seed.toNat) (e.wid l).toNat (b l)
          ((List.range f.count).map fun j => (e.w.vreg (o.a.toNat + j) l).toNat)
        ∃ t, exec (.qpack o seed) s = .next t ∧ isOver e s t ∧ vOnly e false o.d.toNat (t.wave e.id) ∧
          (t.wave e.id).fflags = (lanesOf e.enabled).foldl (fun x l => x ||| laneFlags e.active l (q l).2) e.w.fflags ∧
          ∀ l ∈ lanesOf e.enabled, (t.wave e.id).vreg o.d.toNat l = BitVec.ofNat 32 (q l).1) ∧
    (e.vOk o.d.toNat f.count = true →
      let u := fun l j => unpackElem f o.rnd (e.w.vreg o.a.toNat l).toNat (b l) j
      ∃ t, exec (.qunpack o) s = .next t ∧ isOver e s t ∧
        (t.wave e.id).fflags = (lanesOf e.enabled).foldl (fun x l =>
          (List.range f.count).foldl (fun x j => x ||| laneFlags e.active l (u l j).2) x) e.w.fflags ∧
        vKept e.w (t.wave e.id) (fun n l => e.enabled.getLsbD l && (decide (o.d.toNat ≤ n) && decide (n < o.d.toNat + f.count))) ∧
        (t.wave e.id).s = e.w.s ∧ (t.wave e.id).p = e.w.p ∧ (t.wave e.id).f = e.w.f ∧
        ∀ l ∈ lanesOf e.enabled, ∀ j, j < f.count → (t.wave e.id).vreg (o.d.toNat + j) l =
          BitVec.ofNat 32 (u l j).1)

/-! ### Control (R129, R176 to R181) -/

/-- R179, R181: `nop`, `yield`, `ipref`, `ifence`, and `wsync` on the mask of live lanes, go on to the next instruction. -/
def Obligations.StraightRuns : Prop :=
  ∀ (g : Guard) (s : State) (e : Env), Tidy s → s.env? g = some e →
    (∃ t, exec (.nop g) s = .next t ∧ isOver e s t ∧ regsKept e.w (t.wave e.id)) ∧
    (∃ t, exec (.yield g) s = .next t ∧ waveOnly e s t ∧ passed e t ∧ regsKept e.w (t.wave e.id) ∧
      (t.wave e.id).yielded = (e.w.yielded || e.enabled != 0)) ∧
    (∀ x k, ∃ t, exec (.ipref g x k) s = .next t ∧ passed e t ∧ regsKept e.w (t.wave e.id) ∧ t.mem = s.mem) ∧
    (∀ a b, e.enabled ≠ 0 → ∃ t, exec (.ifence g a b) s = .next t ∧ coreOnly e s t ∧ passed e t ∧ regsKept e.w (t.wave e.id) ∧
      (t.core e.wg.core).lines =
        dropLines (s.core e.wg.core).lines e.ctx (e.w.sreg a.toNat).toNat (e.w.sreg b.toNat).toNat) ∧
    (∀ x : Word, e.enabled = (x &&& e.w.liveMask) →
      ∃ t, exec (.wsync g (.imm x)) s = .next t ∧ isOver e s t ∧ regsKept e.w (t.wave e.id)) ∧
    (∀ n : BitVec 8, e.enabled = ((e.w.sreg n.toNat).setWidth 32 &&& e.w.liveMask) →
      ∃ t, exec (.wsync g (.s n)) s = .next t ∧ isOver e s t ∧ regsKept e.w (t.wave e.id))

/-- R114, R127, R176, R177: enabled lanes go to a target that R114 allows; a call pushes the next PC, a return pops it. -/
def Obligations.TransfersRun : Prop :=
  ∀ (g : Guard) (s : State) (e : Env), Tidy s → s.env? g = some e →
    let ok := fun (x : Nat → DWord) => ∀ l ∈ lanesOf e.enabled, checkTarget s e (x l) = .ok ()
    let bra := fun (i : Instr) (x : Nat → DWord) => ok x →
      ∃ t, exec i s = .next t ∧ waveOnly e s t ∧ went e t x ∧ regsKept e.w (t.wave e.id) ∧
        restKept e.w (t.wave e.id)
    let call := fun (i : Instr) (x : Nat → DWord) => ok x → (∀ l ∈ lanesOf e.enabled, tgetD e.w.depth l 0 < 16) →
      ∃ t, exec i s = .next t ∧ waveOnly e s t ∧ went e t x ∧ regsKept e.w (t.wave e.id) ∧
        ∀ l ∈ lanesOf e.enabled, tgetD (t.wave e.id).depth l 0 = tgetD e.w.depth l 0 + 1 ∧
          tgetD (t.wave e.id).ret (l * 16 + tgetD e.w.depth l 0) 0 = nextPc e.pc
    (∀ x, bra (.bra g x) fun _ => directTarget e.pc x) ∧
    (∀ a, bra (.brx g true a) fun l => registerTarget e.w true a.toNat l) ∧
    (∀ a, e.vTy true a.toNat = true → bra (.brx g false a) fun l => registerTarget e.w false a.toNat l) ∧
    (∀ x, call (.call g x) fun _ => directTarget e.pc x) ∧
    (∀ a, call (.callIndirect g true a) fun l => registerTarget e.w true a.toNat l) ∧
    (∀ a, e.vTy true a.toNat = true → call (.callIndirect g false a) fun l => registerTarget e.w false a.toNat l) ∧
    (let back := fun l => tgetD e.w.ret (l * 16 + (tgetD e.w.depth l 0 - 1)) 0
     ok back → (∀ l ∈ lanesOf e.enabled, tgetD e.w.depth l 0 ≠ 0) →
      ∃ t, exec (.ret g) s = .next t ∧ waveOnly e s t ∧ went e t back ∧ regsKept e.w (t.wave e.id) ∧
        ∀ l ∈ lanesOf e.enabled, tgetD (t.wave e.id).depth l 0 = tgetD e.w.depth l 0 - 1)

/-- R25, R178: enabled lanes without held reports leave for good; with the last one of a wave, whose stores have been
performed where it passes the bobbin and whose workgroup maps no range, the wave retires.
(That a wave which passes the bobbin waits for its stores is the model's reading, log entry 12.) -/
def Obligations.ExitRuns : Prop :=
  ∀ (g : Guard) (s : State) (e : Env), Tidy s → s.env? g = some e → e.enabled ≠ 0 → (∀ r ∈ e.w.reports, e.enabled.getLsbD r.lane = false) →
    ((e.w.liveMask &&& ~~~e.enabled) ≠ 0 ∨ (e.wg.stash = [] ∧ (e.det = true → releaseReady s e .dev = true))) →
    ∃ t, exec (.exit g) s = .next t ∧ went e t (fun _ => exitedPc) ∧ regsKept e.w (t.wave e.id) ∧ t.mem = s.mem ∧
      ((e.w.liveMask &&& ~~~e.enabled) = 0 → (t.wave e.id).status = .retired)

/-! ### Memory at issue (R182 to R198) -/

/-- R90, R185 to R187, R189: `ld`, `ldq`, `lds` and `atom` join the wave's operations in flight, every lane's access with the scope that
it executes at. -/
def Obligations.LoadsIssue : Prop :=
  ∀ (m : Mem) (s : State) (e : Env) (T : Nat → Target), Tidy s → s.env? m.g = some e → e.enabled ≠ 0 → e.w.ldCnt ≠ 63 →
    e.memOk m = true →
    (e.vTy m.ty.is64 m.d.toNat = true → accessed s e .load m m.ty.bytes false (lanesOf e.enabled) T →
      ∃ t, exec (.ld m) s = .next t ∧
        loadIssued e s t (.ld m.d.toNat m.ty) ((lanesOf e.enabled).map fun l => (T l).at m.space m.scope false) 0) ∧
    (∀ f : BitVec 4, let w := e.w.freg f.toNat
      NFmt.valid w = true → e.vTy false m.d.toNat = true → e.vOk m.d.toNat (NFmt.ofWord w).count = true →
      accessed s e .load m (narrowBytes (NFmt.ofWord w)) ((NFmt.ofWord w).ct = 1) (lanesOf e.enabled) T →
      ∃ t, exec (.ldq m f) s = .next t ∧
        loadIssued e s t (.ldq m.d.toNat w m.rnd)
          ((lanesOf e.enabled).flatMap fun l => lanesAcc s e .load m.space m.scope ((NFmt.ofWord w).ct = 1) (T l)) 0) ∧
    (accessed s e .load m m.ty.bytes false [lowLane e.enabled] T →
      ∃ t, exec (.lds m) s = .next t ∧ loadIssued e s t (.lds m.d.toNat m.ty e.enabled)
        [(T (lowLane e.enabled)).at m.space m.scope false] 0) ∧
    (∀ op, atomRegs e m op = true → relEasy e m.ord → accessed s e (.atom op) m m.ty.bytes false (lanesOf e.active) T →
      ∃ t vs, exec (.atom m op) s = .next t ∧
        loadIssued e s t (.atom m.d.toNat op m.ty vs) ((lanesOf e.active).map fun l => (T l).at m.space m.scope true)
          (e.enabled &&& e.w.helpers) ∧
        vs.map (·.1) = lanesOf e.active ∧
        ∀ x ∈ vs, x.2.1 = BitVec.ofNat 64 (storeValue e.w m.ty m.d.toNat x.1))

/-- R90, R185, R186, R189, R190: `st`, `stq`, `red` and the backwash adds join their core's store order, each active lane's write
with its value and the scope that it executes at; a backwash add puts its word among those that the launch has targeted. -/
def Obligations.StoresIssue : Prop :=
  ∀ (m : Mem) (s : State) (e : Env) (T : Nat → Target), Tidy s → s.env? m.g = some e → e.active ≠ 0 → e.w.stCnt ≠ 63 →
    e.memOk m = true →
    let plain := fun (atomic : Bool) (f : Nat → StoreOp) =>
      (lanesOf e.active).map fun l => (⟨(T l).at m.space m.scope atomic, f l⟩ : LaneStore)
    (e.vTy m.ty.is64 m.d.toNat = true → (m.space ≠ .prv → relEasy e m.ord) →
      accessed s e .store m m.ty.bytes false (lanesOf e.active) T →
      ∃ t, exec (.st m) s = .next t ∧ regsKept e.w (t.wave e.id) ∧
        storeIssued e s t (plain false fun l => .plain (leBytes m.ty.bytes (storeValue e.w m.ty m.d.toNat l)))) ∧
    (∀ f : BitVec 4, let w := e.w.freg f.toNat
      NFmt.valid w = true → e.vTy false m.d.toNat = true → e.vOk m.d.toNat (NFmt.ofWord w).count = true →
      (m.space ≠ .prv → relEasy e m.ord) →
      accessed s e .store m (narrowBytes (NFmt.ofWord w)) ((NFmt.ofWord w).ct = 1) (lanesOf e.active) T →
      ∃ t, exec (.stq m f) s = .next t ∧ storeIssued e s t ((lanesOf e.active).flatMap fun l =>
        laneStores (lanesAcc s e .store m.space m.scope ((NFmt.ofWord w).ct = 1) (T l))
          (.plain (leBytes (narrowBytes (NFmt.ofWord w)) (stqLane e (NFmt.ofWord w) m.rnd m.d.toNat l).1)))) ∧
    (∀ op, e.vTy m.ty.is64 m.d.toNat = true → relEasy e m.ord → accessed s e .red m m.ty.bytes false (lanesOf e.active) T →
      ∃ t, exec (.red m op) s = .next t ∧ regsKept e.w (t.wave e.id) ∧
        storeIssued e s t (plain true fun l => .red op (aluOf m.ty) (BitVec.ofNat 64 (storeValue e.w m.ty m.d.toNat l)))) ∧
    (e.vTy false m.d.toNat = true → accessed s e .bw m 4 false (lanesOf e.active) T →
      ∀ x : Bool, ∃ t, exec (if x then .bwaddX m else .bwaddR m) s = .next t ∧ regsKept e.w (t.wave e.id) ∧
        storeIssued e s t (plain false fun l => .bwadd (x || e.det) (e.w.vreg m.d.toNat l)) ∧
        ∀ l ∈ lanesOf e.active, ∃ L, tget? t.launches e.wg.launch = some L ∧ (T l).acc.va.toNat ∈ L.targeted)

/-- R74, R193: a flush whose words all take their sums is over, the machine as the flush leaves it. A word flushed holds its old value
plus all that was accumulated for it, rounded once, a NaN or an infinity by R74's order; what was accumulated is gone, and every other
byte is as before. -/
def Obligations.BackwashFlushRuns : Prop :=
  ∀ (g : Guard) (s s' : State) (e : Env), Tidy s → s.env? g = some e → e.active ≠ 0 → releaseReady s e .dev = true →
    (s.flushWords e.L (some e.wg.core) e.L.targeted = (s', none) →
      ∃ t, exec (.bwflush g none) s = .next t ∧ passed e t ∧ regsKept e.w (t.wave e.id) ∧ t.mem = s'.mem) ∧
    (∀ d a off, let base := e.w.sreg a.toNat + off.signExtend 64
      let n := (e.w.sreg d.toNat).toNat
      base.toNat % 4 = 0 → n % 4 = 0 →
      s.flushWords e.L (some e.wg.core) (e.L.targeted.filter fun va => base.toNat ≤ va && va + 4 ≤ base.toNat + n) = (s', none) →
      ∃ t, exec (.bwflush g (some (d, a, off))) s = .next t ∧ passed e t ∧ regsKept e.w (t.wave e.id) ∧ t.mem = s'.mem) ∧
    (∀ va c a p, e.L.targeted = [va] → tget? s.ctxs e.ctx = some c → accumOf c va = some a →
      translate s (some e.wg.core) e.ctx (c.seenBy s e.L) va .write = .ok p → tideLocked s p.key 4 = false → badLine s p.key = false →
      let old := s.natAt p.key 4
      let nan := fmt32.isNaN old = true
      let sum := sext 324 a.sum
      ∃ t, exec (.bwflush g none) s = .next t ∧ passed e t ∧ regsKept e.w (t.wave e.id) ∧
        tget? t.ctxs e.ctx = some { c with accums := tdel c.accums va, spills := tdel c.spills va } ∧
        (∀ k, k < p.key ∨ p.key + 4 ≤ k → memGet t.mem k = memGet s.mem k) ∧
        let new : Word := BitVec.ofNat 32 (t.natAt p.key 4)
        (∀ x, a.nan = some x → new = BitVec.ofNat 32 (fmt32.nanrule (if nan then [old, x.toNat] else [x.toNat]))) ∧
        (a.nan = none → nan → new = BitVec.ofNat 32 (fmt32.nanrule [old])) ∧
        (a.nan = none → ¬ nan →
          let up := a.pinf = true ∨ fmt32.value old = .inf false
          let down := a.ninf = true ∨ fmt32.value old = .inf true
          (up → down → new = 0x7FC00000) ∧ (up → ¬ down → new = 0x7F800000) ∧ (¬ up → down → new = 0xFF800000) ∧
          (¬ up → ¬ down → sum = 0 → new = BitVec.ofNat 32 old) ∧
          ∀ neg m x, ¬ up → ¬ down → sum ≠ 0 → fmt32.value old = .fin neg m x →
            new = BitVec.ofNat 32 (fmt32.roundInt .rne (bwUnits neg m x + sum) (-149) false).1))

/-- R95, R194, R195: hints change no register and no byte of memory; a fence with nothing left to wait for, to take or to
write back is over, and as an acquire at `.gng` or wider it has dropped its core's copies. -/
def Obligations.HintsAndFencesRun : Prop :=
  (∀ (m : Mem) (s : State) (e : Env), Tidy s → s.env? m.g = some e → e.memOk m = true → ∀ i, i = .prefd m ∨ i = .cwbInv m ∨ i = .cwbWb m →
    ∃ t, exec i s = .next t ∧ passed e t ∧ regsKept e.w (t.wave e.id) ∧ t.mem = s.mem) ∧
  (∀ (g : Guard) (sc : Scope) (ord : Order) (s : State) (e : Env), Tidy s → s.env? g = some e → e.enabled ≠ 0 →
    e.w.reports = [] → e.w.loads = [] → (s.core e.wg.core).fifo = [] → (s.core e.wg.core).arrived = true → e.wg.stash = [] →
    e.w.marked = none → s.unanswered e.wg.core = [] →
    ∃ t, exec (.fence g sc ord) s = .next t ∧ passed e t ∧ regsKept e.w (t.wave e.id) ∧ t.mem = s.mem ∧
      (isAcquire ord = true → atLeast sc .gng = true → (t.core e.wg.core).copies = []))

/-- R196, R364: a `moor` all of whose lanes find their condition met at once gives each lane the value it read, and where a RETRY
has continued it clears `sr.prog`; a further read of a
waiting lane that finds it marks the lane done with its value. R82, R197, R198: `smap` maps a range, `sunmap` and `swb` write
dirty bytes back, `sunmap` then removes the entry, and the device writes an entry back at any other time.
(What `sr.prog` holds meanwhile is the model's reading, log entry 14.) -/
def Obligations.MoorAndStashRun : Prop :=
  ((∀ (m : Mem) (c : MoorCond) (s : State) (e : Env) (T : Nat → Target), Tidy s → s.env? m.g = some e → e.enabled ≠ 0 →
    e.vTy m.ty.is64 m.d.toNat = true → e.memOk m = true → settled s e = true → e.w.done = 0 → e.w.emitBad = [] →
    accessed s e .load m m.ty.bytes false (lanesOf e.enabled) T →
    let v := fun l => s.numAt (T l).acc.key m.ty.bytes
    (∀ l ∈ lanesOf e.enabled, (T l).acc.remote = false ∧ badLine s (T l).acc.key = false ∧
      moorMet c (aluOf m.ty) (v l) (storeValue e.w m.ty m.d.toNat l) = true) →
    ∃ t, exec (.moor m c) s = .next t ∧ passed e t ∧ t.mem = s.mem ∧ vOnly e m.ty.is64 m.d.toNat (t.wave e.id) ∧
      moorOver (t.wave e.id) = 0 ∧ (t.wave e.id).prog = (if e.w.redo then 0 else e.w.prog) ∧
      ∀ l ∈ lanesOf e.enabled, dHolds (t.wave e.id) .n32 false m.ty.is64 m.d.toNat l
        (if m.ty.is64 then v l else extendLoad m.ty (v l))) ∧
  (∀ (wave l : Nat) (r : MoorReply) (m : Mem) (c : MoorCond) (s : State) (e0 e : Env) (x : Target),
    ({ s with cur := wave } : State).env? noGuard = some e0 →
    fetch { s with cur := wave } e0.wg.core e0.ctx e0.c e0.pc = .instr (.moor m c) →
    ({ s with cur := wave } : State).env? m.g = some e → (s.wave wave).status = .waiting .retry →
    e.wg.resident = true → e.wg.retired = false → e.wg.leaving = none → e.enabled.getLsbD l = true → (moorOver e.w).getLsbD l = false → isAcquire m.ord = false →
    resolve { s with cur := wave } e .load m.space m.ty.bytes true l (e.ea m l) = .ok x →
    (if x.acc.remote then r.err ≠ 0x40 ∧ r.err ≠ 0x41 else badLine s x.acc.key = false) →
    let v := if x.acc.remote then r.value.toNat % 2 ^ (8 * m.ty.bytes) else s.numAt x.acc.key m.ty.bytes
    moorMet c (aluOf m.ty) v (storeValue e.w m.ty m.d.toNat l) = true →
    ∃ t, exec (.moorReread wave l r) s = .next t ∧ t.mem = s.mem ∧ t.waves = (s.modWave wave fun w => moorDone w m.ty m.d.toNat l v).waves)) ∧
  ((∀ (g : Guard) (s : State) (e : Env), Tidy s → s.env? g = some e → e.active ≠ 0 → settled s e = true →
    (∀ d a b : BitVec 8,
      let off := (e.w.sreg d.toNat).toNat
      let va := e.w.sreg a.toNat
      let n := (e.w.sreg b.toNat).toNat
      off < 2 ^ 18 → isLocalVa va = true → off % 128 = 0 → va.toNat % 128 = 0 → n % 128 = 0 → n ≠ 0 → e.wg.stash.length < 8 →
      off + n ≤ e.H.scratch → (∀ st ∈ e.wg.stash, rangesMeet st.off st.len off n = false) →
      ∃ t W, exec (.smap g d a b) s = .next t ∧ passed e t ∧ regsKept e.w (t.wave e.id) ∧ t.mem = s.mem ∧
        tget? t.wgs e.wgId = some W ∧ W.stash = e.wg.stash ++ [{ off, va, len := n }]) ∧
    (∀ a : BitVec 8,
      let off := (e.w.sreg a.toNat).toNat
      e.wg.stash.any (fun st => st.off = off) = true → ∀ s', s.stashBack e.wgId (fun _ st => st.off = off) = (s', none) →
      (∃ t, exec (.swb g (some a)) s = .next t ∧ passed e t ∧ regsKept e.w (t.wave e.id) ∧ t.mem = s'.mem) ∧
      ∃ t W, exec (.sunmap g a) s = .next t ∧ passed e t ∧ regsKept e.w (t.wave e.id) ∧ t.mem = s'.mem ∧
        tget? t.wgs e.wgId = some W ∧ ∀ st ∈ W.stash, st.off ≠ off) ∧
    (∀ s', s.stashBack e.wgId (fun _ _ => true) = (s', none) →
      ∃ t, exec (.swb g none) s = .next t ∧ passed e t ∧ regsKept e.w (t.wave e.id) ∧ t.mem = s'.mem)) ∧
  (∀ (wg n : Nat) (s : State), exec (.stashWriteback wg n) s = .next (s.stashBack wg fun i _ => i = n).1))

/-! ### Waiting and synchronisation (R132, R199 to R204) -/

/-- R132: a `wait` whose counters are at or below its arguments, with no report that it takes, is over. R200, R201: `binit`,
`barrive`, `bsync`, `bwait` and `binval` at a barrier of the wave's own workgroup or of a peer that exists and has not
retired: the barrier's new state, the wave's result, and the waiters that go on.
(Where a workgroup's save area stands, and how a barrier's first word is packed there while the workgroup is out, are the model's,
log entries 4 and 42.) -/
def Obligations.BarriersRun : Prop :=
  (∀ (g : Guard) (ld st cp tl : BitVec 6) (s : State) (e : Env), Tidy s → s.env? g = some e →
    (∀ r ∈ e.w.reports, e.enabled.getLsbD r.lane = false ∨
      ¬ ((r.kind = 0 ∧ ld ≠ 63) ∨ (r.kind = 1 ∧ st ≠ 63) ∨ (r.kind = 2 ∧ cp ≠ 63) ∨ (r.kind = 3 ∧ tl ≠ 63))) →
    e.w.ldCnt ≤ ld → e.w.stCnt ≤ st → e.w.cpCnt ≤ cp → e.w.tlCnt ≤ tl →
    ∃ t, exec (.wait g ld st cp tl) s = .next t ∧ isOver e s t ∧ regsKept e.w (t.wave e.id)) ∧
  (∀ (g : Guard) (d a b : BitVec 8) (r : BarRef) (s : State) (e : Env) (wg : Nat), Tidy s → s.env? g = some e → e.enabled ≠ 0 →
    barOwner s e r = some wg →
    let i := r.index.toNat
    let x := barAt s wg i
    let mask := (e.w.sreg a.toNat).setWidth 32
    let place := devKey (Config.saveArea wg + 0x40 + 32 * i)
    let out := (tget? s.wgs wg).any (·.saved)
    let kept := fun (t u : State) => (∀ k, out = false ∨ k < place ∨ place + 32 ≤ k → memGet t.mem k = memGet u.mem k) ∧
      (out = true → memRead t.mem place 32 = barrierBytes (barAt t wg i))
    let freed := fun (t : State) (v : Bool) => ∀ w gen, w ≠ e.id → (s.wave w).status = .waiting (.barrier (barId wg i) gen) →
      (t.wave w).status = .waiting (.released v)
    (hasWaiters s wg i = false → ∃ t, exec (.binit g d a b r) s = .next t ∧ passed e t ∧ kept t s ∧
      sGets e t d (x.dropped.setWidth 64) ∧
      let n := (e.w.sreg a.toNat).toNat % 65536
      barAt t wg i = { x with dropped := 0, valid := true, expected := if n = 0 then 65536 else n
                              mask := (e.w.sreg b.toNat).setWidth 32, arrived := 0 }) ∧
    (∃ t, exec (.binval g r) s = .next t ∧ passed e t ∧ kept t s ∧ regsKept e.w (t.wave e.id) ∧
      barAt t wg i = { x with valid := false, arrived := 0 } ∧ freed t false) ∧
    (∀ s', released s s' e .gng →
      let arrives := fun (run : Instr) (own : State → Prop) =>
        (x.valid = false → ∃ t, exec run s = .next t ∧ passed e t ∧ kept t s' ∧ own t ∧
          barAt t wg i = { x with dropped := x.dropped + 1 }) ∧
        (x.valid = true → mask = x.mask → x.arrived + 1 = x.expected →
          ∃ t, exec run s = .next t ∧ passed e t ∧ kept t s' ∧ own t ∧
            barAt t wg i = { x with gen := x.gen + 1, arrived := 0 } ∧ freed t true)
      arrives (.barrive g d a r) (fun t => sGets e t d (x.gen.setWidth 64)) ∧
      (x.valid = true → mask = x.mask → x.arrived + 1 ≠ x.expected →
        ∃ t, exec (.barrive g d a r) s = .next t ∧ passed e t ∧ kept t s' ∧ sGets e t d (x.gen.setWidth 64) ∧
          barAt t wg i = { x with arrived := x.arrived + 1 }) ∧
      ((∀ v, e.w.status ≠ .waiting (.released v)) →
        arrives (.bsync g d a r) (fun t => pGets e t d x.valid))) ∧
    (∀ v, e.w.status = .waiting (.released v) → ∀ run, run = .bwait g d a r ∨ run = .bsync g d a r →
      ∃ t, exec run s = .next t ∧ passed e t ∧ t.mem = s.mem ∧ pGets e t d v) ∧
    ((∀ v, e.w.status ≠ .waiting (.released v)) → 0 < (x.gen - mask).toInt ∨ x.valid = false →
      ∃ t, exec (.bwait g d a r) s = .next t ∧ passed e t ∧ t.mem = s.mem ∧ pGets e t d (decide (0 < (x.gen - mask).toInt))))

/-- R202, R348: `pinadd`, `pinset` and `pinwait` on a pin that the launch may use. -/
def Obligations.PinsRun : Prop :=
  ∀ (g : Guard) (d a : BitVec 8) (pin : PinSrc) (s : State) (e : Env) (q : PinPlace), Tidy s → s.env? g = some e →
    pinOk s e.det (pinOf e.w pin) = true → pinPlace s e.det e.ctx (pinOf e.w pin) = .ok q →
    let x := (e.w.sreg a.toNat).setWidth 32
    (∀ s', e.active ≠ 0 → released s s' e .dev →
      (∃ t, exec (.pinadd g a pin) s = .next t ∧ passed e t ∧ regsKept e.w (t.wave e.id) ∧ pinValue t q = pinValue s' q + x ∧
        t.mem = (s'.setPin q (pinValue s' q + x)).mem) ∧
      (∃ t, exec (.pinset g a pin) s = .next t ∧ passed e t ∧ regsKept e.w (t.wave e.id) ∧ pinValue t q = x ∧
        t.mem = (s'.setPin q x).mem)) ∧
    (e.enabled ≠ 0 → 0 ≤ (pinValue s q - x).toInt →
      ∃ t, exec (.pinwait g d a pin) s = .next t ∧ passed e t ∧ t.mem = s.mem ∧ sGets e t d ((pinValue s q).setWidth 64))

/-- R48, R203: outside deterministic mode `bobtake` and `bobpass` change nothing; in it the holder takes at once, and a wave
that passes is passed for the round. R39, R40, R48, R204: a wave whose stores have been performed arrives at `phase` and
parks; when every workgroup has arrived, the launch's words are flushed, the parked waves are ready again and the launch's
next phase begins.
(Where the release of a pass stands, and that the stash is written back at each arrival and again at the phase's end, are the model's
readings, log entries 12 and 63.) -/
def Obligations.BobbinsAndPhasesRun : Prop :=
  (∀ (g : Guard) (s : State) (e : Env), Tidy s → s.env? g = some e → e.enabled ≠ 0 →
    (e.det = false ∨ e.w.hold = true → ∃ t, exec (.bobtake g) s = .next t ∧ isOver e s t ∧ regsKept e.w (t.wave e.id)) ∧
    (e.det = false → ∃ t, exec (.bobpass g) s = .next t ∧ isOver e s t ∧ regsKept e.w (t.wave e.id)) ∧
    (e.det = true → e.L.bobDone.contains (bobIndex e.L e.wg.index (e.id % 32)) = false →
      0 < e.L.counts.headD 1 → e.L.counts.headD 1 ≤ 32 →
      (∀ s', e.w.hold = true → released s s' e .dev →
        ∃ t, exec (.bobpass g) s = .next t ∧ passed e t ∧ regsKept e.w (t.wave e.id) ∧ t.mem = s'.mem ∧
          (t.wave e.id).hold = false ∧ (t.wave e.id).passed = true) ∧
      (e.w.hold = false → e.w.passed = false → releaseReady s e .dev = true → e.wg.stash = [] →
        ∃ t L', exec (.bobpass g) s = .next t ∧ passed e t ∧ regsKept e.w (t.wave e.id) ∧ t.mem = s.mem ∧
          (t.wave e.id).passed = true ∧ tget? t.launches e.wg.launch = some L' ∧ L'.bobbin = e.L.bobbin ∧
          L'.bobDone.contains (bobIndex e.L e.wg.index (e.id % 32)) = true))) ∧
  ((∀ (g : Guard) (s s' : State) (e : Env), Tidy s → s.env? g = some e → e.enabled ≠ 0 → e.w.stCnt = 0 →
    (e.det = true ∧ e.w.hold = true ∧ released s s' e .dev) ∨ (e.det = false ∧ s.stashBack e.wgId (fun _ _ => true) = (s', none)) ∨
      (s' = s ∧ e.det = true ∧ e.w.hold = false ∧ e.wg.stash = [] ∧ releaseReady s e .dev = true) →
    ∃ t, exec (.phase g) s = .next t ∧ passed e t ∧ regsKept e.w (t.wave e.id) ∧ t.mem = s'.mem ∧
      (t.wave e.id).status = .phased) ∧
  (∀ (queue seq : Nat) (s s1 s2 s' : State) (L : Launch), tget? s.launches (launchKey queue seq) = some L →
    phaseReady s L = true → s.flushWords L none L.targeted = (s1, none) → s1.stashAll L.wgs = (s2, none) →
    s2.launchRelease (launchKey queue seq) L = (s', true) →
    ∃ t L', exec (.phaseComplete queue seq) s = .next t ∧ t.mem = s'.mem ∧ tget? t.launches (launchKey queue seq) = some L' ∧
      L'.phase = L.phase + 1 ∧
      ∀ id, L.wgs.contains (wgOf id) = true → (s'.wave id).status = .phased → (t.wave id).status = .ready))

/-! ### Launches and the ebb stack (R205 to R207) -/

/-- R205, R340: `launch` answers the sequence of the launch that the queue accepts, and otherwise the reason why none is. R206,
R207, R350: `ebbpush` copies each active lane's record with its identifier and push count to the launch's frame; `ebbmark`
adds a mark to it. What each takes of the ebb region is all of memory that changes.
(That the bytes which a frame, a record or a mark takes of the region are open is the model's choice, log entries 3 and 64; a record at a
remote VA is log entry 65.) -/
def Obligations.LaunchAndEbbRun : Prop :=
  (∀ (g : Guard) (d a : BitVec 8) (q : Option (BitVec 8)) (s s' : State) (e : Env) (r : List Byte), Tidy s → s.env? g = some e →
    e.active ≠ 0 → readRecord s e (e.w.sreg a.toNat) = .ok r → (e.det = true → e.w.hold = true) → released s s' e .dev →
    (launchTarget s' e q = none →
      ∃ t, exec (.launch g d a q) s = .next t ∧ passed e t ∧ t.mem = s'.mem ∧ sGets e t d 0x8000000000000001#64) ∧
    (∀ id Q, launchTarget s' e q = some (id, Q) →
      (Q.susp = true → ∃ t, exec (.launch g d a q) s = .next t ∧ passed e t ∧ t.mem = s'.mem ∧ sGets e t d 0x8000000000000002#64) ∧
      (∀ r' Q1, Q.susp = false → readRecord s' e (e.w.sreg a.toNat) = .ok r' → depsAbsorb s' Q (some r') = none →
        let s1 := s'.joinLaunch id e.id e.pc
        tget? s1.queues id = some Q1 → launchGoes s1 id Q1 e.id = true →
        ∃ t Q', exec (.launch g d a q) s = .next t ∧ passed e t ∧ ebbOnly s' t Q 64 ∧ sGets e t d (BitVec.ofNat 64 (Q.seq % 2 ^ 63)) ∧
          tget? t.launches (launchKey id Q.seq) = some (launchOf s' id Q (e.w.sreg a.toNat) (some r') none false) ∧
          tget? t.queues id = some Q' ∧ Q'.seq = Q.seq + 1 ∧ (∀ x ∈ Q'.launchers, x.1 ≠ e.id)))) ∧
  (∀ (g : Guard) (a : BitVec 8) (s : State) (e : Env) (Q : Queue) (F : Frame), Tidy s → s.env? g = some e → e.active ≠ 0 →
    tget? s.queues e.L.queue = some Q → tget? Q.frames e.L.seq = some F →
    (∀ (sc unwind : Bool) (r : Nat → List Byte), (sc = true ∨ e.vTy true a.toNat = true) → settled s e = true →
      let va := fun l => if sc then e.w.sreg a.toNat else e.w.vreg64 a.toNat l
      let before := fun l => ((lanesOf e.active).filter (· < l)).foldl (pushLane e va) (s, [])
      (∀ l ∈ lanesOf e.active, readRecord (before l).1 e (va l) = .ok (r l)) →
      ebbUsed Q + 128 * (lanesOf e.active).length ≤ Q.ebbsize →
      ∃ t Q' F', exec (.ebbpush g sc a unwind) s = .next t ∧ passed e t ∧ regsKept e.w (t.wave e.id) ∧ t.mem = (before 32).1.mem ∧
        (∀ l, e.active = laneBit l → ebbOnly s t Q 128) ∧
        tget? t.queues e.L.queue = some Q' ∧ tget? Q'.frames e.L.seq = some F' ∧ F'.marks = F.marks ∧
        F'.recs = F.recs ++ (lanesOf e.active).map (fun l => ⟨e.wid l, tgetD e.w.pushes l 0, r l⟩) ∧
        (∀ l ∈ lanesOf e.active, tgetD (t.wave e.id).pushes l 0 = tgetD e.w.pushes l 0 + 1) ∧
        (unwind = true → (tget? t.launches e.wg.launch).map (·.unwind) = some true)) ∧
    (∀ (b d : BitVec 8) (n : Word),
      let base := (e.w.sreg a.toNat).toNat
      let len := (e.w.sreg b.toNat).toNat
      base % 65536 = 0 → len % 65536 = 0 → base ≠ 0 → len ≠ 0 → F.marks.length < 4096 → ebbUsed Q + 64 ≤ Q.ebbsize →
      ∀ i m, (i = .ebbmarkRecomp g d a b ∧ m = .recomp base len (e.w.sreg d.toNat)) ∨
          (i = .ebbmarkNeeds g d a b n ∧ m = .needs base len (e.w.sreg d.toNat) n.toNat) →
        ∃ t Q', exec i s = .next t ∧ passed e t ∧ regsKept e.w (t.wave e.id) ∧ ebbOnly s t Q 64 ∧ tget? t.queues e.L.queue = some Q' ∧
          tget? Q'.frames e.L.seq = some { F with marks := F.marks ++ [m] }))

/-! ### System (R209 to R213, R332, R333) -/

/-- R209, R365: `trap` with a trap ring parks its wave, lanes at their PCs, with a record that holds the context, the
immediate, the token, the PC, the sequence and `s0` to `s7`. R210, R24, R360: `brkpt` faults 0x51 in every enabled lane that
is no helper, in one record whose address is the immediate; those lanes keep their PC, the other issuing lanes go on, and the
wave stops. -/
def Obligations.TrapsRun : Prop :=
  (∀ (g : Guard) (imm : BitVec 16) (s s' : State) (e : Env), Tidy s → s.env? g = some e → e.active ≠ 0 →
    e.c.trapring.isSome = true → released s s' e .sys →
    ∃ t r tok, exec (.trap g imm) s = .next t ∧ (t.wave e.id).status = .trapped tok ∧ regsKept e.w (t.wave e.id) ∧
      (∀ l, (t.wave e.id).pc l = e.w.pc l) ∧ t.mem = s'.mem ∧ (tget? t.ctxs e.ctx).map (·.traps) = some (e.c.traps ++ [r]) ∧
      r.bytes.length = 64 ∧ leAt r.bytes 0 2 = e.ctx % 2 ^ 16 ∧ leAt r.bytes 2 2 = imm.toNat ∧ leAt r.bytes 4 4 = tok % 2 ^ 32 ∧
      leAt r.bytes 8 8 = e.pc.toNat ∧ leAt r.bytes 0x18 8 = e.L.seq % 2 ^ 64 ∧
      ∀ k, k < 8 → leAt r.bytes (0x20 + 4 * k) 4 = (e.w.sreg k).toNat % 2 ^ 32) ∧
  (∀ (g : Guard) (imm : BitVec 16) (s : State) (e : Env), Tidy s → s.env? g = some e → e.active ≠ 0 →
    ∃ t r, exec (.brkpt g imm) s = .next t ∧ (t.wave e.id).status = .stopped ∧ regsKept e.w (t.wave e.id) ∧ t.mem = s.mem ∧
      (∀ l, l < 32 → (t.wave e.id).pc l =
        if e.issuing.getLsbD l && !e.active.getLsbD l then nextPc e.pc else e.w.pc l) ∧
      (tget? t.ctxs e.ctx).map (·.faults) = some (e.c.faults ++ [r]) ∧ r.code = 0x51 ∧ leAt r.bytes 4 4 = e.active.toNat ∧
      leAt r.bytes 8 8 = imm.toNat ∧ leAt r.bytes 0x10 8 = e.pc.toNat)

/-- R129: the zero slot and the fill slot are no instruction: every issuing lane faults 0x01, keeps its PC, and the wave
stops with one record for them all. R211, R332, R333: in a context that is not privileged the registers from 0x800 up and
`wrsr` fault 0x60 in every issuing lane, and nothing is read or written. -/
def Obligations.ChecksHold : Prop :=
  (∀ (s : State) (e : Env), Tidy s → s.env? noGuard = some e → ∀ i, i = .zeroSlot ∨ i = .fillSlot →
    ∃ t r, exec i s = .next t ∧ (t.wave e.id).status = .stopped ∧ (∀ l, (t.wave e.id).pc l = e.w.pc l) ∧
      (tget? t.ctxs e.ctx).map (·.faults) = some (e.c.faults ++ [r]) ∧ r.code = 0x01 ∧ r.wave = some e.id ∧
      leAt r.bytes 4 4 = e.issuing.toNat ∧ leAt r.bytes 0x10 8 = e.pc.toNat ∧ t.mem = s.mem) ∧
  (∀ (g : Guard) (s : State) (e : Env), Tidy s → s.env? g = some e → e.c.priv = false →
    ∀ i, (∃ sc d num, (0x800#12) ≤ num ∧ (sc = true ∨ e.vTy (((privReg num.toNat).map (·.wide)).getD false) d.toNat = true) ∧
        i = .rdsr g sc d num) ∨ (∃ a num, i = .wrsr g a num) →
      ∃ t r, exec i s = .next t ∧ (t.wave e.id).status = .stopped ∧ regsKept e.w (t.wave e.id) ∧
        (∀ l, (t.wave e.id).pc l = e.w.pc l) ∧ t.mem = s.mem ∧ t.queues = s.queues ∧
        (tget? t.ctxs e.ctx).map (·.faults) = some (e.c.faults ++ [r]) ∧ r.code = 0x60 ∧ leAt r.bytes 4 4 = e.issuing.toNat)

/-- R211 to R213, R332, R333: special registers read, `sr.fflags` cleared, and the two that privileged code writes. R333:
what each bit of `sr.qctl` does to its queue. -/
def Obligations.SpecialRegistersRun : Prop :=
  (∀ (g : Guard) (sc : Bool) (d a : BitVec 8) (s : State) (e : Env), Tidy s → s.env? g = some e →
    let reads := fun (t : State) (r : SpecialReg) (n : Nat) =>
      waveOnly e s t ∧ passed e t ∧ restKept e.w (t.wave e.id) ∧ (if sc then sOnly e d.toNat (t.wave e.id) else vOnly e r.wide d.toNat (t.wave e.id)) ∧
      ∀ l ∈ e.passes sc, let x := readSpecial s e n l
        if sc then (t.wave e.id).sreg d.toNat = BitVec.ofNat 64 x
        else if r.wide then (t.wave e.id).vreg64 d.toNat l = BitVec.ofNat 64 x else (t.wave e.id).vreg d.toNat l = BitVec.ofNat 32 x
    (∀ (num : BitVec 12) r, (num < 0x800 ∧ userReg num.toNat = some r) ∨ (0x800 ≤ num ∧ e.c.priv = true ∧ privReg num.toNat = some r) →
      (sc = false → e.vTy r.wide d.toNat = true) →
      ∃ t, exec (.rdsr g sc d num) s = .next t ∧ reads t r num.toNat ∧ (t.wave e.id).fflags = e.w.fflags) ∧
    ((sc = false → e.vTy false d.toNat = true) →
      ∃ t, exec (.rdsrClr g sc d) s = .next t ∧ reads t ⟨false, false⟩ 0x19 ∧
        (t.wave e.id).fflags = if e.enabled = 0 then e.w.fflags else 0) ∧
    (e.c.priv = true → e.active ≠ 0 →
      (∃ t, exec (.wrsr g a 0x808) s = .next t ∧ waveOnly e s t ∧ passed e t ∧ regsKept e.w (t.wave e.id) ∧
        (t.wave e.id).qsel = (e.w.sreg a.toNat).setWidth 13) ∧
      ∀ s' Q, released s s' e .dev → partQueue s e e.w.qsel.toNat = true → tget? s.queues e.w.qsel.toNat = some Q → e.w.sreg a.toNat < 3 →
        ∃ t, exec (.wrsr g a 0x809) s = .next t ∧ passed e t ∧ regsKept e.w (t.wave e.id) ∧ t.mem = s'.mem ∧
          tget? t.queues e.w.qsel.toNat = some (if e.w.sreg a.toNat = 1 then { Q with susp := true }
            else if e.w.sreg a.toNat = 2 then { Q with susp := false, err := false } else Q)) ∧
    (e.enabled ≠ 0 → ∃ t, exec (.rdcyc g d) s = .next t ∧ isOver e s t ∧ sGets e t d (BitVec.ofNat 64 (s.core e.wg.core).cyc))) ∧
  (∀ (q : Nat) (Q : Queue) (s : State), tget? s.queues q = some Q →
    exec (.qctlSuspend q) s = .next { s with queues := tput s.queues q { Q with susp := true } } ∧
    exec (.qctlResume q) s = .next { s with queues := tput s.queues q { Q with susp := false, err := false } })

/-! ### The shuttle (R217 to R223) -/

/-- R217, R218, R221: a shuttle instruction whose checks pass has its operation in flight under a range-lock entry of its
own, cp raised and its bits of the bitmap cleared; every other byte is as before. -/
def Obligations.ShuttleIssues : Prop :=
  ∀ (x : Shuttle) (s : State) (e : Env) (r : List Byte) (o : ShuttleOp), Tidy s → s.env? x.g = some e → e.active ≠ 0 →
    e.w.cpCnt ≠ 63 → (s.cluster e.cluster).locks.length < 64 → settled s e = true → readPool s e x.pool = .ok r →
    let sreg := fun (n : Nat) => e.w.sreg n
    let lands := fun (i : Instr) (op : ShuttleOp) (dense : DWord) =>
      shuttleCheck s e ⟨op, r, sreg x.d.toNat, dense⟩ = .ok o → ∀ s1, s.fillKeys e.ctx e.wg.core [o.bitmap] = .ok s1 →
      ∃ t id, exec i s = .next t ∧ passed e t ∧ regsKept e.w (t.wave e.id) ∧ (t.wave e.id).cpCnt = e.w.cpCnt + 1 ∧
        tget? t.shuttles id = some o ∧ o.bitmap = scrKey e.wgId (sreg x.d.toNat).toNat ∧
        (∃ k, (t.cluster e.cluster).locks = (s.cluster e.cluster).locks ++ [k] ∧ k.op = id ∧ k.gang = e.wg.gang) ∧
        (∀ n, n < 256 → (t.natAt o.bitmap 32).testBit n = ((s1.natAt o.bitmap 32).testBit n && decide (o.chunks ≤ n))) ∧
        ∀ a, a < o.bitmap ∨ o.bitmap + 32 ≤ a → memGet t.mem a = memGet s1.mem a
    (∀ wr glb tr, lands (.shcopy x wr glb tr)
      { shuttleOp e x r (if wr then .write else .read) (originOf e.w x.a.toNat) with glb, tr, dense := sreg x.b.toNat } (sreg x.b.toNat)) ∧
    lands (.shfill x) { shuttleOp e x r .fill (originOf e.w x.a.toNat) with pattern := sreg x.b.toNat } 0 ∧
    (e.vTy false x.b.toNat = true → ∀ glb,
      let rows := (lanesOf e.active).map fun l => (e.w.vreg x.b.toNat l).toNat
      let o0 := [coord (sreg x.a.toNat).toNat]
      let dense := sreg (x.a.toNat + 1)
      lands (.shgath x glb) { shuttleOp e x r .gather o0 with glb, rows, dense } dense ∧
      lands (.shscat x glb) { shuttleOp e x r .scatter o0 with glb, rows, dense } dense)

/-- R102, R220: a chunk's bytes move, its bit is set, its pin rises where the word asks for it, and after the last one the operation's
lock entry goes, its pin rises and cp falls; an agent that does not synchronise may see some of a chunk's bytes ahead of the rest. R222:
a fault of a transfer pauses the operation with a record under 0x10 and 0x70, and otherwise aborts it: its lock entry goes, cp
falls, and its leader lane holds a report, or a graph's copy leaves a record; no byte changes but those of its destination in chunks that are not complete.
(Which side's WRITE a record carries is the model's reading, log entry 15; that the bytes of an aborted operation are open is log
entry 3.) -/
def Obligations.ShuttleEventsRun : Prop :=
  (∀ (op place : Nat) (s : State) (o : ShuttleOp), Tidy s → tget? s.shuttles op = some o →
    let chunk := place % 2 ^ 64
    chunkReady s op chunk = true →
    let bit := o.bitmap + chunk / 8
    let last := o.done.length + 1 = o.chunks
    let lands := fun (sent : List (Nat × List (Nat × Nat × Nat))) (u : State) => ∃ t, exec (.shuttleChunkDone op place) s = .next t ∧
      let marked := if o.kind = .flat then u else u.setNat bit 1 (u.natAt bit 1 ||| 2 ^ (chunk % 8))
      let raise : Word := if compPv o.comp = false then 0 else if compPer o.comp then 1 else if last then o.inc else 0
      (compBarv o.comp = false ∨ ¬ last →
        (compPv o.comp = false → ∀ a, memGet t.mem a = memGet marked.mem a) ∧
        (o.kind ≠ .flat → compPv o.comp = false → (memGet t.mem bit).getLsbD (chunk % 8) = true) ∧
        (compPv o.comp = true → ∀ q, pinPlace marked o.det o.ctx (compPin o.comp) = .ok q → pinValue t q = pinValue marked q + raise)) ∧
      (¬ last → tget? t.shuttles op = some { o with done := insertNat chunk o.done, sent }) ∧
      (last → (∀ k ∈ (t.cluster o.cluster).locks, k.op ≠ op) ∧
        ∀ w, o.wave = some w → (tget? s.waves w).isSome = true → (t.wave w).cpCnt = (s.wave w).cpCnt - 1)
    (∀ (s1 s' : State) (W : EngineWrites), o.awaits chunk = none → fillDense s o chunk = .ok s1 → moveChunk s1 o chunk = .ok (W, s') →
      writesLocked s W = false →
      let u := s'.writeCells W.cells
      (place < 2 ^ 64 → W.remote = [] → lands o.sent u) ∧
      (place < 2 ^ 64 → W.remote ≠ [] → ∃ t ws, exec (.shuttleChunkDone op place) s = .next t ∧ t.mem = u.mem ∧
        tget? t.shuttles op = some { o with sent := o.sent ++ [(chunk, ws)] }) ∧
      (2 ^ 64 ≤ place → ∃ t, exec (.shuttleChunkDone op place) s = .next t ∧
        (∀ a, memGet t.mem a = (tget? (W.only (place / 2 ^ 64)).cells a).getD (memGet s'.mem a)) ∧
        t.shuttles = s'.shuttles ∧ t.waves = s'.waves)) ∧
    (∀ ws, o.awaits chunk = some ws → (∀ x ∈ ws, s.fabric.member x.2.1 ≠ .fenced) → lands (o.sent.filter fun x => x.1 ≠ chunk) s)) ∧
  (∀ (op : Nat) (code : Byte) (addr : DWord) (s : State) (o : ShuttleOp) (c : Context), Tidy s → tget? s.shuttles op = some o →
    tget? s.ctxs o.ctx = some c → o.aborted = none → o.paused = none →
    o.done.length < o.chunks → code = 0x40 ∨ (remoteEnd o = true ∧ (code = 0x10 ∨ code = 0x11 ∨ code = 0x16 ∨ code = 0x41 ∨ code = 0x70)) →
    let notices := fun (own : List RingRec) => addr.getLsbD 63 = false ∨ remoteDev addr ≠ s.fabric.index → own = []
    let tells := fun (t : State) (r : RingRec) => (∃ own, (tget? t.ctxs o.ctx).map (·.faults) = some (c.faults ++ own ++ [r]) ∧ notices own) ∧
      r.code = code ∧ leAt r.bytes 8 8 = addr.toNat
    (code = 0x10 ∨ code = 0x70 → ∃ t tok r, exec (.shuttleTransferError op code addr) s = .next t ∧ t.mem = s.mem ∧ t.waves = s.waves ∧
      tget? t.shuttles op = some { o with paused := some tok, sent := [] } ∧ tells t r) ∧
    (code ≠ 0x10 → code ≠ 0x70 → ∃ t, exec (.shuttleTransferError op code addr) s = .next t ∧
      (∀ a, (∀ chunk, chunk < o.chunks → chunk ∉ o.done → ¬ destByte s o chunk a) → memGet t.mem a = memGet s.mem a) ∧
      (∀ k ∈ (t.cluster o.cluster).locks, k.op ≠ op) ∧
      (o.wave = none → t.shuttles = tdel s.shuttles op ∧ t.waves = s.waves ∧ ∃ r, tells t r) ∧
      ∀ w, o.wave = some w → (tget? s.waves w).isSome = true →
        tget? t.shuttles op = some { o with aborted := some (code, addr), paused := none } ∧ (t.wave w).cpCnt = (s.wave w).cpCnt - 1 ∧
        ((s.wave w).pc o.lane ≠ exitedPc → ∃ r, (t.wave w).reports = (s.wave w).reports ++ [r] ∧
          r.code = code ∧ r.addr = addr ∧ r.lane = o.lane ∧ r.kind = 2)))

/-- R223: `bmtest` answers whether every masked bit is set, `bmwait` goes on when they are, and `bmclr` clears them where no
operation in flight has one of them. -/
def Obligations.BitmapsRun : Prop :=
  ∀ (g : Guard) (sc : Scope) (d a b : BitVec 8) (s : State) (e : Env) (wg off : Nat), Tidy s → s.env? g = some e → e.enabled ≠ 0 →
    (e.w.sreg a.toNat).toNat % 8 = 0 → resolveScr s e 8 (e.w.sreg a.toNat) = some (wg, off) → settled s e = true →
    let key := scrKey wg off
    ∀ s1, s.fillKeys e.ctx e.wg.core [key] = .ok s1 →
    let word : DWord := BitVec.ofNat 64 (s1.natAt key 8)
    let m := e.w.sreg b.toNat
    (∃ t, exec (.bmtest g sc d a b) s = .next t ∧ passed e t ∧ t.mem = s1.mem ∧ pGets e t d (decide (word &&& m = m))) ∧
    (word &&& m = m → ∃ t, exec (.bmwait g sc a b) s = .next t ∧ passed e t ∧ t.mem = s1.mem ∧ regsKept e.w (t.wave e.id)) ∧
    ((∀ x ∈ s.shuttles, x.2.kind = .flat ∨ x.2.aborted ≠ none ∨ key < x.2.bitmap ∨ x.2.bitmap + 32 ≤ key ∨
        ∀ i, i < 64 → m.getLsbD i = true → x.2.chunks ≤ (key - x.2.bitmap) * 8 + i) →
      ∃ t, exec (.bmclr g a b) s = .next t ∧ passed e t ∧ regsKept e.w (t.wave e.id) ∧
        BitVec.ofNat 64 (t.natAt key 8) = word &&& ~~~m ∧ ∀ x, x < key ∨ key + 8 ≤ x → memGet t.mem x = memGet s1.mem x)

/-! ### The hoop (R224 to R236) -/

/-- R226, R227, R232: reservations made and given up, and a convergence register's count. R230: `hbwr` writes each enabled
lane's words to the buffer; `hbrd` joins the wave's operations in flight. -/
def Obligations.BuffersRun : Prop :=
  (∀ (g : Guard) (d a : BitVec 8) (s : State) (e : Env) (G : Gang), Tidy s → s.env? g = some e → e.active ≠ 0 →
    e.reportsAt (fun r => r.kind = 4) = [] → tget? s.gangs e.wg.gang = some G →
    let x := e.w.sreg a.toNat
    let r := resOf e.w e.wgId x (e.w.sreg (a.toNat + 1))
    let gang := fun (t : State) => tget? t.gangs e.wg.gang
    (resFault r x = none → G.res.length < e.H.hres → (∃ h, h < 64 ∧ tget? G.res h = none) → (∀ o ∈ G.res, r.meets o.2 = false) →
      (∀ o ∈ s.gangs, o.1 = e.wg.gang ∨ o.2.cluster ≠ e.cluster ∨ ∀ p ∈ o.2.res, r.meets p.2 = false) →
      ∃ t h, exec (.hres g d a) s = .next t ∧ passed e t ∧ sGets e t d (BitVec.ofNat 64 h) ∧ h < 64 ∧ tget? G.res h = none ∧
        gang t = some { G with res := tput G.res h r } ∧
        let tiles := fun k => r.kind = 2 ∧ tileKey e.cluster r.base 0 0 ≤ k ∧ k < tileKey e.cluster r.base 0 0 + 4096 * r.len
        ∀ k, (tiles k → memGet t.mem k = 0) ∧ (¬ tiles k → memGet t.mem k = memGet s.mem k)) ∧
    (∀ q, tget? G.res x.toNat = some q → x.toNat < 64 → handleBusy s e.wg.gang G x.toNat q = false →
      ∃ t G', exec (.hrel g a) s = .next t ∧ passed e t ∧ t.mem = s.mem ∧ regsKept e.w (t.wave e.id) ∧ gang t = some G' ∧
        tget? G'.res x.toNat = none ∧ ∀ h, h ≠ x.toNat → tget? G'.res h = tget? G.res h) ∧
    (x ≠ 0 → x ≤ 16384 → (convOf G d.toNat).count = 0 →
      ∃ t, exec (.hcvr g d a) s = .next t ∧ passed e t ∧ t.mem = s.mem ∧ regsKept e.w (t.wave e.id) ∧
        gang t = some { G with conv := tput G.conv d.toNat { (convOf G d.toNat) with expected := x.toNat } })) ∧
  (∀ (g : Guard) (d a : BitVec 8) (n : BitVec 3) (s : State) (e : Env) (G : Gang) (r : Reservation), Tidy s → s.env? g = some e →
    e.reportsAt (fun r => r.kind = 4) = [] → e.vOk d.toNat (n.toNat + 1) = true → tget? s.gangs e.wg.gang = some G →
    let w := e.w.sreg a.toNat
    tget? G.res (opRes w) = some r → r.kind = 0 → r.remote = none → opStride w = 0 → opSo w = 0 → opOff w % 4 = 0 →
    opOff w + 128 * (n.toNat + 1) ≤ r.bytes →
    let key := hoopKey e.cluster (256 * r.base + opOff w)
    (∃ t, exec (.hbwr g d a n) s = .next t ∧ passed e t ∧ regsKept e.w (t.wave e.id) ∧
      (∀ j l, j ≤ n.toNat → l < 32 → t.natAt (key + 128 * j + 4 * l) 4 =
        if e.enabled.getLsbD l then (e.w.vreg (d.toNat + j) l).toNat else s.natAt (key + 128 * j + 4 * l) 4) ∧
      ∀ x, x < key ∨ key + 128 * (n.toNat + 1) ≤ x → memGet t.mem x = memGet s.mem x) ∧
    (e.enabled ≠ 0 → e.w.ldCnt ≠ 63 →
      ∃ t p, exec (.hbrd g d a n) s = .next t ∧ passed e t ∧ regsKept e.w (t.wave e.id) ∧ t.mem = s.mem ∧
        (t.wave e.id).ldCnt = e.w.ldCnt + 1 ∧ (t.wave e.id).loads = e.w.loads ++ [p] ∧ p.pc = e.pc ∧ p.lanes = e.enabled ∧
        p.op = .hbrd d.toNat (n.toNat + 1) key))

/-- R231, R234, R236: `skld`, the chain's ends, `hzero`, `hacst` and `hacld` join a hoop queue that has room: the workgroup's
own, or for a tile the queue that R233 names. R232, R233: the active lanes of an `hmma` whose checks pass sign; the signature
that reaches the count forms the operation, its wave waits, and goes on when the operation has its place in a queue. -/
def Obligations.HoopOperationsForm : Prop :=
  (∀ (g : Guard) (d a b c : BitVec 8) (s : State) (e : Env) (G : Gang), Tidy s → s.env? g = some e → e.active ≠ 0 →
    e.reportsAt (fun r => r.kind = 4) = [] → tget? s.gangs e.wg.gang = some G →
    let va := fun (n : BitVec 8) => e.w.sreg n.toNat
    let joins := fun (i : Instr) (wg : Nat) (op : HoopOp) (comp : DWord) (chain : Bool) => ∀ W, tget? s.wgs wg = some W → W.hq.length < 64 →
      ∃ t W', exec i s = .next t ∧ passed e t ∧ regsKept e.w (t.wave e.id) ∧ t.mem = s.mem ∧ tget? t.wgs wg = some W' ∧
        W'.hq = W.hq ++ [{ op, comp, wave := e.id, lanes := laneBit (lowLane e.active), wg := e.wgId, gang := e.wg.gang, pc := e.pc }] ∧
        (wg = e.wgId → W'.chain = chain)
    (e.wg.chain = false → joins (.hcbeg g) e.wgId .chainBegin 0 true) ∧
    (e.wg.chain = true → joins (.hcend g) e.wgId .chainEnd 0 false) ∧
    (compFault s e.det (va c) = none →
      (∀ (len : Word) r, tget? G.res (opRes (va a)) = some r → r.kind = 1 → opStride (va a) = 0 → opSo (va a) = 0 →
        opOff (va a) % (if r.elt = 1 then 8 else 4) = 0 → len ≠ 0 → len.toNat % 4 = 0 → len.toNat ≤ 2 ^ 21 →
        opOff (va a) + len.toNat ≤ r.bytes → (va b).toNat % 4 = 0 →
        joins (.skld g a b c len) e.wgId (.skld (va a) (va b) len.toNat) (va c) e.wg.chain) ∧
      (∀ (n : BitVec 9) wg, tilesHeld G d.toNat n.toNat = true → queueOf s G d.toNat = some wg →
        joins (.hzero g d c n) wg (.zero d.toNat n.toNat) (va c) e.wg.chain) ∧
      ∀ (ty : AluTy) (scr : Bool) wg, (ty.is64 = true → d.toNat % 2 = 0) → tilesHeld G d.toNat (if ty.is64 then 2 else 1) = true →
        (va a).toNat % (if ty.is64 then 8 else 4) = 0 → (va b).toNat % (if ty.is64 then 8 else 4) = 0 →
        queueOf s G d.toNat = some wg →
        joins (.hacld g d a b c scr ty) wg (.acld d.toNat (va a) (va b) scr ty) (va c) e.wg.chain ∧
        ∀ (q : Bool) (f : BitVec 4) (rnd : Rnd), (q = true → ty = .f32 ∧ NFmt.valid (e.w.freg f.toNat) = true ∧
            (NFmt.ofWord (e.w.freg f.toNat)).sk = 0) →
          joins (.hacst g d a b c scr q f rnd ty) wg (.acst d.toNat (va a) (va b) scr q (e.w.freg f.toNat) rnd ty) (va c) e.wg.chain)) ∧
  ((∀ (g : Guard) (src : HoopSrc) (d a b c : BitVec 8) (k : BitVec 9) (rnd : BitVec 2) (s : State) (e : Env) (G : Gang), Tidy s →
    s.env? g = some e → e.active ≠ 0 → e.reportsAt (fun r => r.kind = 4) = [] → e.w.tlCnt ≠ 63 → tget? s.gangs e.wg.gang = some G →
    let x := convOf G c.toNat
    let op := HoopOp.mma src d.toNat (e.w.sreg a.toNat) (e.w.sreg b.toNat) k.toNat c.toNat []
    mmaFault G src d.toNat (e.w.sreg a.toNat) (e.w.sreg b.toNat) k.toNat x op = none →
    let n := (lanesOf e.active).length
    x.count + n ≤ x.expected →
    ∃ t G', exec (.hmma g src d a b c k rnd) s = .next t ∧ passed e t ∧ regsKept e.w (t.wave e.id) ∧ t.mem = s.mem ∧
      (t.wave e.id).tlCnt = e.w.tlCnt + 1 ∧ tget? t.gangs e.wg.gang = some G' ∧ G'.res = G.res ∧
      (x.count + n < x.expected → (convOf G' c.toNat).count = x.count + n ∧ (convOf G' c.toNat).formed = x.formed ∧
        (t.wave e.id).status ≠ .waiting .forming) ∧
      (x.count + n = x.expected → (convOf G' c.toNat).count = 0 ∧ (t.wave e.id).status = .waiting .forming ∧
        ∃ en signers, (convOf G' c.toNat).formed = x.formed ++ [en] ∧ en.wave = e.id ∧ en.gang = e.wg.gang ∧
          en.op = .mma src d.toNat (e.w.sreg a.toNat) (e.w.sreg b.toNat) k.toNat c.toNat signers)) ∧
  (∀ (gang i wg : Nat) (s : State) (G : Gang) (c : Conv) (en : HoopEntry) (rest : List HoopEntry) (W : Workgroup)
      (before after : Table Conv), tget? s.gangs gang = some G → G.conv = before ++ (i, c) :: after →
    (∀ x ∈ before, formingAt s G x.1 x.2 = none) → c.formed = en :: rest →
    queueOf s G (match en.op with | .mma _ d .. => d | _ => 0) = some wg → tget? s.wgs wg = some W → W.hq.length < 64 →
    ∃ t, exec (.hoopOpFormation gang) s = .next t ∧ t.mem = s.mem ∧
      tget? t.gangs gang = some { G with conv := tput G.conv i { c with formed := rest } } ∧
      tget? t.wgs wg = some { W with hq := W.hq ++ [en] } ∧
      ((∀ x ∈ tput G.conv i { c with formed := rest }, ∀ y ∈ x.2.formed, y.wave ≠ en.wave) →
        (s.wave en.wave).status = .waiting .forming → (t.wave en.wave).status = .ready)))

/-- R70, R231, R233, R234, R236: the engine's work on the entry that it may run: tiles set to zero, k-steps applied to the
accumulator, a skein written, a tile read from memory or written to it; and the end of an entry: it leaves its queue, its pin
rises, its signer's tl falls. -/
def Obligations.HoopWorks : Prop :=
  (∀ (cl pick steps wg : Nat) (remote : List Byte) (s : State) (W : Workgroup) (en : HoopEntry) (L : Launch) (c : Context)
      (det : Bool) (G : Gang), Tidy s → tget? s.wgs wg = some W → turnOf s cl = some (wg, W) → W.hq[pick]? = some en →
    entryLaunch s en = some (L, c, det) → tget? s.gangs en.gang = some G → mayRun W det pick = true → en.paused = none →
    en.step < entrySteps G en.op →
    let ends := fun (m : Memory) (step : Nat) => ∃ t W', exec (.hoopTurn cl pick steps remote 0) s = .next t ∧ t.mem = m ∧
      t.waves = s.waves ∧ tget? t.wgs wg = some W' ∧ W'.hq = W.hq.set pick { en with step } ∧
      (t.cluster cl).held = true ∧ (t.cluster cl).last = turnKey wg W
    match en.op with
    | .zero d n => ends (memClear s.mem (tileKey cl d 0 0) (4096 * n)) 1
    | .chainBegin | .chainEnd => ends s.mem 1
    | .mma src d a b k _ _ => ∀ ra rb s' st, tget? G.res (opRes a) = some ra → tget? G.res (opRes b) = some rb →
        let x : MmaCtx := ⟨src, d, a, b, k, ra, rb, rangeReader s cl L remote ra, rangeReader s cl L [] rb⟩
        mmaSteps x cl (stepFault s L x) s en.step (min (entrySteps G en.op - en.step) (max 1 steps)) = (s', st, none) → ends s'.mem st
    | .skld dst src len => ∀ r bs, tget? G.res (opRes dst) = some r → isLocalVa src = true → hoopRead s L remote src len = .ok bs →
        ends (memWrite s.mem (skeinKey cl (256 * r.base + opOff dst)) bs) 1
    | .acld d base stride scr ty => ∀ xs s', scr = true ∨ rowsAway s base stride = false → readRows s en L c remote scr base stride ty = .ok (xs, s') → ends (s'.writeTile cl d ty.is64 xs).mem 1
    | .acst d base stride scr q fmt rnd ty => ∀ s', scr = true ∨ rowsAway s base stride = false →
        storeRows en L W.core scr base stride s 0 ((List.range 32).map fun r =>
          storeRow ty q fmt rnd (en.comp.toNat / 2 ^ 32) r (((s.readTile cl d ty.is64).drop (32 * r)).take 32)) = (s', none) → ends s'.mem 1) ∧
  (∀ (cl wg i : Nat) (s : State) (W : Workgroup) (en : HoopEntry) (L : Launch) (c : Context) (det : Bool), Tidy s →
    doneQueue s cl = some (wg, W, i, en) → en.lost s = false → tget? s.wgs wg = some W → entryLaunch s en = some (L, c, det) →
    ∃ t W', exec (.hoopEntryComplete cl) s = .next t ∧ tget? t.wgs wg = some W' ∧ W'.hq = W.hq.eraseIdx i ∧
      (t.cluster cl).held = ((s.cluster cl).held && decide ((s.cluster cl).last ≠ turnKey wg W)) ∧
      (compPv en.comp = false → t.mem = s.mem) ∧
      (compPv en.comp = true → ∀ q, pinPlace s det L.ctx (compPin en.comp) = .ok q → pinValue t q = pinValue s q + 1) ∧
      ∀ w id m, en.op.signers = [(w, id, m)] → (tget? s.waves w).isSome = true → (s.wave w).signs = [(id, 1)] → (t.wave w).tlCnt = 0)

/-! ### The splat pipeline (R237 to R251) -/

/-- R240 to R242: `spkey` counts each active lane's tiles, takes as many slots at the cursor at once, and its pairs within
the capacity join the store order of its core. -/
def Obligations.KeysEmitted : Prop :=
  ∀ (g : Guard) (d a b c : BitVec 8) (r : RecRef) (s : State) (e : Env) (bs : List Byte), Tidy s → s.env? g = some e →
    e.vOk d.toNat 1 = true → e.vOk a.toNat 1 = true → e.vOk b.toNat 1 = true → e.vOk c.toNat 2 = true → e.active ≠ 0 →
    e.w.pairs = [] → e.w.emitBad = [] → settled s e = true → readRec s e r = .ok bs →
    let f := frmOf bs
    misField [(f.keys, 16), (f.cursor, 8)] = none → badCapacity f = false → badTiles f = false →
    let n := fun l => (laneTiles e.w a.toNat c.toNat l f).length
    let total := (lanesOf e.active).foldl (fun t l => t + n l) 0
    let counts := fun (t : State) => passed e t ∧ vOnly e false d.toNat (t.wave e.id) ∧ (t.wave e.id).fflags = e.w.fflags ∧
      ∀ l ∈ lanesOf e.enabled, (t.wave e.id).vreg d.toNat l = BitVec.ofNat 32 (if e.active.getLsbD l then n l else 0)
    (total = 0 → ∃ t, exec (.spkey g d a b c r) s = .next t ∧ counts t ∧ t.mem = s.mem) ∧
    (total ≠ 0 → (e.det = true → e.w.hold = true) → ∀ x s2,
      let sr := s.readDone e (recVa e r) 64
      resolveLocal sr e (.atom .add) 8 (lowLane e.active) f.cursor = .ok x → badLine sr x.acc.key = false →
      let s1 := (sr.rmw e.wg.core false .l1 (x.at .glb .dev true) .add .n64 total 0).2
      let ps := issuePairs e f a.toNat b.toNat c.toNat (s.natAt x.acc.key 8)
      emitPairs e ((s1.modWave e.id fun w => { w with pairs := ps, counts := (lanesOf e.active).map fun l => (l, n l) }).sideEffect e.wgId)
        ps = (s2, [], none) →
      (s2.wave e.id).emitBad = [] →
      ∃ t qs, exec (.spkey g d a b c r) s = .next t ∧ counts t ∧ t.mem = s1.mem ∧
        t.natAt x.acc.key 8 = (s.natAt x.acc.key 8 + total) % 2 ^ 64 ∧
        (t.core e.wg.core).fifo = (s.core e.wg.core).fifo ++ qs ∧
        qs.map (fun q => q.lanes.map (·.op)) = ps.map fun p => [StoreOp.plain (pairBytes p.key p.val)])

/-- R243 to R245: `spsort` starts a sort; its run, which reads the cursor and the pairs once, writes the sorted pairs; its end writes
the segment table, once, and the status word, frees the engine and raises the pin. R243: eight passes of the counting sort put composites in ascending order and lose
none. -/
def Obligations.SortsRun : Prop :=
  ((∀ (g : Guard) (a : BitVec 8) (r : RecRef) (s : State) (e : Env) (bs : List Byte), Tidy s → s.env? g = some e → e.active ≠ 0 →
    settled s e = true → readRec s e r = .ok bs → sortFault s e (e.w.sreg a.toNat) (frmOf bs) = none →
    ∃ t id o, exec (.spsort g a r) s = .next t ∧ passed e t ∧ regsKept e.w (t.wave e.id) ∧ t.mem = s.mem ∧
      tget? t.sorts id = some o ∧ o.data = bs ∧ o.comp = e.w.sreg a.toNat ∧ o.ctx = e.ctx ∧ o.cursor = none ∧ o.ran = none ∧
      o.paused = none) ∧
  (∀ (id n0 : Nat) (s : State) (o : SortOp) (xs : List Nat) (t u : Table Byte), Tidy s → tget? s.sorts id = some o → o.paused = none →
    o.ran = none →
    let f := frmOf o.data
    let L := opLaunch s o.queue o.seq
    o.cursor = some n0 ∨ (o.cursor = none ∧ ∃ cb, localRead s o.ctx L f.cursor 8 = .ok cb ∧ leNat cb = n0) →
    let n := min n0 f.capacity
    o.pairs = some xs ∨ (o.pairs = none ∧ ∃ bs, localRead s o.ctx L f.keys (16 * n) = .ok bs ∧ xs = (List.range n).map (composite bs)) →
    let b7 := [1, 2, 3, 4, 5, 6, 7].foldl (fun xs q => sortPass q xs) xs
    localWrite s o.ctx L f.temp (sortedBytes b7) = .ok t → localWrite s o.ctx L f.out (sortedBytes (sortPass 8 b7)) = .ok u →
    ∃ s', exec (.sortRun id) s = .next s' ∧ tget? s'.sorts id = some { o with
        cursor := some n0, pairs := some xs, ran := some (n, decide (f.capacity < n0), 0) } ∧
      s'.waves = s.waves ∧ ∀ k, memGet s'.mem k = (tget? u k).getD ((tget? t k).getD (memGet s.mem k))) ∧
  (∀ (id n : Nat) (lost : Bool) (s : State) (o : SortOp) (t u : Table Byte), Tidy s → tget? s.sorts id = some o →
    o.paused = none → o.ran = some (n, lost, 0) →
    let f := frmOf o.data
    let L := opLaunch s o.queue o.seq
    (o.segs = true ∧ t = []) ∨ (o.segs = false ∧ ∃ bs, localRead s o.ctx L f.out (16 * n) = .ok bs ∧
      localWrite s o.ctx L f.seg (segTable f ((List.range n).map fun i => leAt bs (16 * i + 4) 3)) = .ok t) →
    localWrite s o.ctx L f.status (leBytes 1 (if lost then 1 else 0) ++ leBytes 1 0 ++ leBytes 2 0 ++ leBytes 4 n) = .ok u →
    let s1 := (s.writeCells t).writeCells u
    ∃ s', exec (.sortComplete id) s = .next s' ∧ s'.sorts = tdel s.sorts id ∧ s'.waves = s.waves ∧
      (compPv o.comp = false → ∀ k, memGet s'.mem k = (tget? u k).getD ((tget? t k).getD (memGet s.mem k))) ∧
      (compPv o.comp = true → ∀ q, pinPlace s1 o.det o.ctx (compPin o.comp) = .ok q → pinValue s' q = pinValue s1 q + 1))) ∧
  (∀ xs : List Nat, (∀ x ∈ xs, x < 2 ^ 88) →
    let ys := [1, 2, 3, 4, 5, 6, 7, 8].foldl (fun xs q => sortPass q xs) xs
    ys.Pairwise (· ≤ ·) ∧ ys.Perm xs)

/-- R247, R249: `spseg` gives a tile's start and count; `spfetch` joins the wave's operations in flight with the pair's
splat. -/
def Obligations.SplatReadsRun : Prop :=
  ∀ (g : Guard) (d a : BitVec 8) (r : RecRef) (s : State) (e : Env) (bs : List Byte) (q : Target), Tidy s → s.env? g = some e →
    e.enabled ≠ 0 → settled s e = true → readRec s e r = .ok bs →
    let f := frmOf bs
    let x := e.w.sreg a.toNat
    let sr := s.readDone e (recVa e r) 64
    (f.seg.toNat % 8 = 0 → badTiles f = false → x.toNat < f.tw * f.th →
      resolveLocal sr e .load 8 (lowLane e.enabled) (f.seg + BitVec.ofNat 64 (8 * x.toNat)) = .ok q → badLine sr q.acc.key = false →
      ∃ t, exec (.spseg g d a r) s = .next t ∧ waveOnly e (sr.takeCopy e.wg.core .hs q.acc.key 8) t ∧ passed e t ∧
        restKept (sr.wave e.id) (t.wave e.id) ∧ (t.wave e.id).fflags = e.w.fflags ∧ (t.wave e.id).v = e.w.v ∧
        (t.wave e.id).p = e.w.p ∧ (t.wave e.id).f = e.w.f ∧ sKept e.w (t.wave e.id) (fun n => n == d.toNat || n == d.toNat + 1) ∧
        (t.wave e.id).sreg d.toNat = BitVec.ofNat 64 (s.natAt q.acc.key 4) ∧
        (t.wave e.id).sreg (d.toNat + 1) = BitVec.ofNat 64 (s.natAt (q.acc.key + 4) 4)) ∧
    (e.vOk d.toNat 14 = true → e.w.ldCnt ≠ 63 → misField [(f.out, 16), (f.splats, 16)] = none → badCapacity f = false →
      let j : Word := x.setWidth 32
      j.toNat < f.capacity →
      resolveLocal sr e .load 4 (lowLane e.enabled) (f.out + BitVec.ofNat 64 (16 * j.toNat + 8)) = .ok q → badLine sr q.acc.key = false →
      ∀ ts, splatAccesses sr e f.splats (s.natAt q.acc.key 4) (lowLane e.enabled) = .ok ts →
      ∃ t p, exec (.spfetch g d a r) s = .next t ∧ passed e t ∧ regsKept e.w (t.wave e.id) ∧ t.mem = s.mem ∧
        (t.wave e.id).ldCnt = e.w.ldCnt + 1 ∧ (t.wave e.id).loads = e.w.loads ++ [p] ∧ p.pc = e.pc ∧ p.lanes = e.enabled ∧
        p.op = .spfetch d.toNat j (BitVec.ofNat 32 (s.natAt q.acc.key 4)) ∧
        p.acc = (lanesOf e.enabled).flatMap fun l => ts.map fun t => { (t.at .glb .dev false) with lane := l })

/-- R250, R251: `spblend` and `spgrad` on splats that are well formed: each enabled lane's state, live bit and gradients. -/
def Obligations.BlendingRuns : Prop :=
  ∀ (g : Guard) (d a b c : BitVec 8) (s : State) (e : Env), Tidy s → s.env? g = some e → e.vOk a.toNat 14 = true → e.vOk b.toNat 2 = true →
    let px := fun l => (e.w.vreg b.toNat l).toNat
    let py := fun l => (e.w.vreg (b.toNat + 1) l).toNat
    let sp := fun l => group e.w a.toNat 14 l
    let inGroup := fun (n0 cnt n : Nat) => decide (n0 ≤ n) && decide (n < n0 + cnt)
    let holds := fun (t : State) (n l : Nat) (xs : List Nat) (k : Nat) => (t.wave e.id).vreg (n + k) l = BitVec.ofNat 32 (xs.getD k 0)
    (e.vOk d.toNat 5 = true → ∀ res : Nat → List Nat × Bool, (∀ l ∈ lanesOf e.enabled, blendLane (group e.w d.toNat 5 l) (sp l) (px l) (py l) = some (res l)) →
      ∃ t, exec (.spblend g d a b c) s = .next t ∧ isOver e s t ∧ (t.wave e.id).fflags = e.w.fflags ∧
        (t.wave e.id).s = e.w.s ∧ (t.wave e.id).f = e.w.f ∧ pKept e.w (t.wave e.id) (· == c.toNat) ∧
        (c.toNat ≠ 15 → ∀ l, l < 32 → ((t.wave e.id).preg c.toNat).getLsbD l =
          if e.enabled.getLsbD l then (res l).2 else (e.w.preg c.toNat).getLsbD l) ∧
        vKept e.w (t.wave e.id) (fun n l => e.enabled.getLsbD l && inGroup d.toNat 5 n) ∧
        ∀ l ∈ lanesOf e.enabled, ∀ k, k < 5 → holds t d.toNat l (res l).1 k) ∧
    (e.vOk d.toNat 10 = true → e.vOk c.toNat 9 = true →
      ∀ res : Nat → List Nat × List Nat, (∀ l ∈ lanesOf e.enabled, gradLane (group e.w d.toNat 10 l) (sp l) (px l) (py l) = some (res l)) →
      ∃ t, exec (.spgrad g d a b c) s = .next t ∧ isOver e s t ∧ (t.wave e.id).fflags = e.w.fflags ∧
        (t.wave e.id).s = e.w.s ∧ (t.wave e.id).p = e.w.p ∧ (t.wave e.id).f = e.w.f ∧
        vKept e.w (t.wave e.id) (fun n l => e.enabled.getLsbD l && (inGroup d.toNat 10 n || inGroup c.toNat 9 n)) ∧
        ∀ l ∈ lanesOf e.enabled, (∀ k, k < 9 → holds t c.toNat l (res l).2 k) ∧
          ∀ k, k < 10 → inGroup c.toNat 9 (d.toNat + k) = false → holds t d.toNat l (res l).1 k)

/-! ### Curves and triangles (R252 to R264) -/

/-- R253, R254, R258: `crvemit` submits its lanes' segments and waits; a slot is opened for the tag; a segment enters it
whole, and after the last the wave goes on; `crvres` starts a resolve, which writes its image and is over, behind markers where the
image is on another device; as it ends, the pin of its completion word rises. -/
def Obligations.CouchingRuns : Prop :=
  (∀ (g : Guard) (kind : CurveKind) (a b : BitVec 8) (s : State) (e : Env), Tidy s → s.env? g = some e → e.active ≠ 0 →
    e.reportsAt (fun r => r.kind = 5) = [] → e.vOk b.toNat (segWords kind) = true →
    ∃ t, exec (.crvemit g kind a b) s = .next t ∧ regsKept e.w (t.wave e.id) ∧ t.mem = s.mem ∧
      (t.wave e.id).status = .waiting .submitted ∧ (∀ l, (t.wave e.id).pc l = e.w.pc l) ∧
      (t.wave e.id).segTag = (e.w.sreg a.toNat).setWidth 32 ∧ (t.wave e.id).segKind = kind ∧
      (t.wave e.id).segs = (lanesOf e.active).map fun l => (List.range (segWords kind)).map fun k => (e.w.vreg (b.toNat + k) l).toInt) ∧
  (∀ (w ctx : Nat) (s : State) (c : Context) (seg : List Int) (rest : List (List Int)), Tidy s →
    (s.wave w).status = .waiting .submitted → (s.wave w).segs = seg :: rest → waveCtx s w = some (ctx, c) →
    let tag := (s.wave w).segTag.toNat
    (tget? c.slots tag = none → c.slots.length < c.slotq → s.ctxs.foldl (fun n x => n + x.2.slots.length) 0 < 32 →
      exec (.slotOpen w) s = .next { s with ctxs := tput s.ctxs ctx { c with slots := tput c.slots tag {} } }) ∧
    (∀ sl, tget? c.slots tag = some sl → (s.wave w).emitBad = [] → (s.wave w).triHeld = 0 →
      ∃ t, exec (.segmentAccept w) s = .next t ∧ t.mem = s.mem ∧ (t.wave w).segs = rest ∧ regsKept (s.wave w) (t.wave w) ∧
        tget? t.ctxs ctx = some { c with slots := tput c.slots tag (addSegment sl (s.wave w).segKind seg) } ∧
        (rest ≠ [] → (t.wave w).status = .waiting .submitted) ∧
        (rest = [] → (t.wave w).status = .ready ∧ ∀ l, l < 32 → (t.wave w).pc l =
          if (s.wave w).issuingMask.getLsbD l then nextPc (s.wave w).issuePc else (s.wave w).pc l))) ∧
  (∀ (g : Guard) (rule : CurveRule) (keep : Bool) (d a b c : BitVec 8) (s : State) (e : Env), Tidy s → s.env? g = some e → e.active ≠ 0 →
    e.reportsAt (fun r => r.kind = 5) = [] → compFault s e.det (e.w.sreg c.toNat) = none →
    ruleBytes rule ≤ (e.w.sreg b.toNat).toNat → (e.w.sreg d.toNat).toNat % 64 = 0 → (e.w.sreg b.toNat).toNat % 64 = 0 →
    let tag := (e.w.sreg a.toNat).toNat % 2 ^ 32
    ∃ t id o, exec (.crvres g rule keep d a b c) s = .next t ∧ passed e t ∧ regsKept e.w (t.wave e.id) ∧ t.mem = s.mem ∧
      tget? t.resolves id = some o ∧ o.slot = tgetD e.c.slots tag {} ∧ o.rule = rule ∧ o.out = e.w.sreg d.toNat ∧
      o.stride = e.w.sreg b.toNat ∧ o.comp = e.w.sreg c.toNat ∧ o.paused = none ∧
      (tget? t.ctxs e.ctx).map (·.slots) = some (if keep then e.c.slots else tdel e.c.slots tag)) ∧
  (∀ (id : Nat) (s : State) (o : ResolveOp), Tidy s → tget? s.resolves id = some o → o.paused = none →
    let ends := fun (t s1 : State) => t.resolves = tdel s.resolves id ∧ (compPv o.comp = false → t.mem = s1.mem ∧ t.clusters = s.clusters) ∧
      (compPv o.comp = true → ∀ q, pinPlace s1 o.det o.ctx (compPin o.comp) = .ok q → pinValue t q = pinValue s1 q + 1)
    (∀ W, o.sent = none → resolveCells s o = .ok W → writesLocked s W = false →
      ∃ t, exec (.crvresComplete ⟨id, 0⟩) s = .next t ∧
        (W.remote = [] → ends t (s.writeCells W.cells)) ∧
        (W.remote ≠ [] → t.mem = (s.writeCells W.cells).mem ∧ ∃ ws, tget? t.resolves id = some { o with sent := some ws })) ∧
    (∀ ws, o.sent = some ws → (∀ x ∈ ws, s.fabric.member x.2.1 ≠ .fenced) → s.hasAnswers ws = true →
      ∃ t, exec (.crvresComplete ⟨id, 0⟩) s = .next t ∧ ends t s))

/-- R260, R261, R263, R264: `trimit` submits its lanes' triangles and waits; each is binned or rejected, and after the last
the wave goes on with its statuses; `vresolve` starts a resolve, whose end writes the merges of its tile and raises its pin; `binres`
answers the lowest identifier rejected and resets the block. -/
def Obligations.TrianglesRun : Prop :=
  (∀ (g : Guard) (d a : BitVec 8) (r : RecRef) (s : State) (e : Env) (bs : List Byte), Tidy s → s.env? g = some e → e.active ≠ 0 →
    e.reportsAt (fun r => r.kind = 5) = [] → e.vOk d.toNat 1 = true → e.vOk a.toNat 10 = true → settled s e = true →
    readRec s e r = .ok bs → binFault bs = none →
    ∃ t, exec (.trimit g d a r) s = .next t ∧ t.mem = s.mem ∧ (t.wave e.id).status = .waiting .submitted ∧
      (∀ l, (t.wave e.id).pc l = e.w.pc l) ∧ (t.wave e.id).triDst = d.toNat ∧ (t.wave e.id).triRec = bs ∧
      (t.wave e.id).tris = (lanesOf e.active).map (fun l => (l, (List.range 10).map fun k => e.w.vreg (a.toNat + k) l)) ∧
      vKept e.w (t.wave e.id) (fun n l => (e.enabled &&& e.w.helpers).getLsbD l && n == d.toNat) ∧
      ∀ l, (e.enabled &&& e.w.helpers).getLsbD l = true → (t.wave e.id).vreg d.toNat l = 0) ∧
  (∀ (w l n ctx : Nat) (s s' : State) (c : Context) (W : Workgroup) (L : Launch) (Q : Queue) (ws : List Word)
      (rest : List (Nat × List Word)), Tidy s → (s.wave w).status = .waiting .submitted → (s.wave w).tris = (l, ws) :: rest →
    waveCtx s w = some (ctx, c) → tget? s.wgs (wgOf w) = some W → tget? s.launches W.launch = some L → tget? s.queues L.queue = some Q →
    (s.wave w).emitBad = [] → (s.wave w).triHeld = 0 → binTriangle s w ctx Q.det (some L) (s.wave w).triRec ws = .status n s' →
    ∃ t, exec (.triangleBin w) s = .next t ∧ t.mem = s'.mem ∧ t.bins = s'.bins ∧
      (rest ≠ [] → (t.wave w).status = .waiting .submitted ∧ (t.wave w).tris = rest ∧
        (t.wave w).triStatus = (s.wave w).triStatus ++ [(l, BitVec.ofNat 32 n)]) ∧
      (rest = [] → (t.wave w).status = .ready ∧ (t.wave w).vreg (s.wave w).triDst l = BitVec.ofNat 32 n ∧
        ∀ l, l < 32 → (t.wave w).pc l =
          if (s.wave w).issuingMask.getLsbD l then nextPc (s.wave w).issuePc else (s.wave w).pc l)) ∧
  (∀ (g : Guard) (a b : BitVec 8) (r : RecRef) (s : State) (e : Env) (bs : List Byte), Tidy s → s.env? g = some e → e.active ≠ 0 →
    e.reportsAt (fun r => r.kind = 5) = [] → settled s e = true → readRec s e r = .ok bs → binFault bs = none →
    (compFault s e.det (e.w.sreg b.toNat) = none → (e.w.sreg a.toNat).toNat < (binOf bs).tw * (binOf bs).th →
      ∃ t id o, exec (.vresolve g a b r) s = .next t ∧ passed e t ∧ regsKept e.w (t.wave e.id) ∧ t.mem = s.mem ∧
        tget? t.vresolves id = some o ∧ o.data = bs ∧ o.tile = (e.w.sreg a.toNat).toNat ∧ o.comp = e.w.sreg b.toNat ∧ o.paused = none) ∧
    (∀ (d : BitVec 8) (q : Target) (raw : List Byte) (s' : State),
      let sr := s.readDone e (recVa e r) 64
      resolveLocal sr e .store 64 (lowLane e.active) (binOf bs).state = .ok q → released sr s' e .dev →
      localRead s' e.ctx (some e.L) (binOf bs).state 64 = .ok raw →
      ∃ t, exec (.binres g d r) s = .next t ∧ passed e t ∧ sGets e t d (BitVec.ofNat 64 (leAt raw 0xC 4)) ∧
        t.mem = memWrite s'.mem q.acc.key (BinState.bytes ⟨0, false, 0xFFFFFFFF, 0, 0⟩) ∧
        t.bins = tdel s.bins (binKey e.ctx (binOf bs).state))) ∧
  (∀ (id : Nat) (s : State) (o : ResolveOp) (cells : Table Byte), Tidy s → tget? s.vresolves id = some o → o.paused = none →
    tileCells s o = .ok cells →
    let s1 := s.writeCells cells
    ∃ t, exec (.vresolveComplete id) s = .next t ∧ t.vresolves = tdel s.vresolves id ∧ t.waves = s.waves ∧
      (compPv o.comp = false → ∀ k, memGet t.mem k = (tget? cells k).getD (memGet s.mem k)) ∧
      (compPv o.comp = true → ∀ q, pinPlace s1 o.det o.ctx (compPin o.comp) = .ok q → pinValue t q = pinValue s1 q + 1))

/-! ### Sampling (R265 to R271) -/

/-- R267 to R269: `texs` and `texf` under a valid image record join the wave's operations in flight with the accesses of
their lanes' lookups. R270, R271: `quad` makes the live lanes that its predicate leaves out helpers; `deriv` gives each
enabled lane the difference of its quad, of helpers' values too. -/
def Obligations.LookupsIssue : Prop :=
  (∀ (g : Guard) (d a c : BitVec 8) (r : RecRef) (grad fetch : Bool) (s : State) (e : Env) (bs : List Byte), Tidy s → s.env? g = some e →
    e.enabled ≠ 0 → e.vOk d.toNat 4 = true → e.vOk a.toNat (if grad then 6 else 3) = true → e.w.ldCnt ≠ 63 → settled s e = true →
    readRec s e r = .ok bs → imgFault bs = none → (fetch = true → grad = false) →
    let ws := fun l => (List.range (if grad then 6 else 3)).map fun k => e.w.vreg (a.toNat + k) l
    ∀ look : Nat → Bool × List LaneAcc,
    (∀ l ∈ lanesOf e.enabled, laneLookup (s.readDone e (recVa e r) 64) e (imgOf bs) grad fetch ((ws l).map (·.toNat)) l = .ok (look l)) →
    ∃ t p, exec (if fetch then .texf g d a c r else .texs g grad d a c r) s = .next t ∧ passed e t ∧ regsKept e.w (t.wave e.id) ∧
      t.mem = s.mem ∧ (t.wave e.id).ldCnt = e.w.ldCnt + 1 ∧ (t.wave e.id).loads = e.w.loads ++ [p] ∧ p.pc = e.pc ∧ p.lanes = e.enabled ∧
      p.op = .tex grad fetch d.toNat c.toNat bs ((lanesOf e.enabled).map fun l => (l, ws l ++ [if (look l).1 then 1 else 0])) ∧
      p.acc = (lanesOf e.enabled).flatMap fun l => (look l).2) ∧
  ((∀ (g : Guard) (a : BitVec 8) (s : State) (e : Env), Tidy s → s.env? g = some e → e.enabled ≠ 0 → e.H.quad = true →
    ∃ t, exec (.quad g a) s = .next t ∧ waveOnly e s t ∧ passed e t ∧ regsKept e.w (t.wave e.id) ∧
      (t.wave e.id).helpers = (e.w.liveMask &&& ~~~(e.w.preg a.toNat))) ∧
  (∀ (g : Guard) (y fine : Bool) (d a : BitVec 8) (s : State) (e : Env), Tidy s → s.env? g = some e → e.vOk d.toNat 1 = true →
    e.vOk a.toNat 1 = true →
    ∃ t, exec (.deriv g y fine d a) s = .next t ∧ isOver e s t ∧ (t.wave e.id).fflags = e.w.fflags ∧ vOnly e false d.toNat (t.wave e.id) ∧
      ∀ l ∈ lanesOf e.enabled,
        let p := l / 4 * 4 + (if y then (if fine && l % 2 = 1 then 3 else 2) else (if fine && 2 ≤ l % 4 then 3 else 1))
        let q := l / 4 * 4 + (if fine then (if y then l % 2 else l % 4 / 2 * 2) else 0)
        (t.wave e.id).vreg d.toNat l = BitVec.ofNat 32 (fdif (e.w.vreg a.toNat p).toNat (e.w.vreg a.toNat q).toNat)))

/-! ### Operations performed (R92, R109, R130, R185, R355) -/

/-- R130, R185 to R188, R230, R249, R269: the wave's oldest load-class operation is performed when its turn has come: its counter
falls, and each form gives its lanes' destinations what the bytes of this device give, behind its wave's own stores: a value, a narrow
group's elements, one scalar, an atomic operation's old values with memory combined in ascending order of lanes, a splat, a lookup's
channels, words of the hoop buffer. R73, R87, R92, R130, R189, R190: the oldest store of a core is performed when its turn has come:
every lane's bytes, reductions and backwash adds in ascending order of lanes, and its counter falls; a contribution goes to its word's
accumulator, exactly, and where a full slice refuses it the lane holds the report (R192).
(Which accesses of an operation land before the others is open, log entry 18; here all that are left land together.) -/
def Obligations.AccessesPerformed : Prop :=
  (∀ (wave : Nat) (r : LdReply) (s : State) (w : Wave) (W : Workgroup) (p : PendingLoad) (rest : List PendingLoad), Tidy s →
    tget? s.waves wave = some w → tget? s.wgs (wgOf wave) = some W → w.loads = p :: rest → loadReady s wave W.core p r = true →
    r.part = none →
    (∃ t, exec (.ldOpComplete wave r) s = .next t ∧ (t.wave wave).loads = rest ∧ (t.wave wave).ldCnt = w.ldCnt - 1) ∧
    (∀ d ty, p.op = .ld d ty → landsHere s wave W.core p r → (p.acc.map (·.lane)).Nodup →
      ∃ t, exec (.ldOpComplete wave r) s = .next t ∧ t.mem = s.mem ∧ (t.wave wave).s = w.s ∧ (t.wave wave).p = w.p ∧
        (t.wave wave).f = w.f ∧ (t.wave wave).fflags = w.fflags ∧ (∀ l, (t.wave wave).pc l = w.pc l) ∧
        vKept w (t.wave wave) (fun n l => (p.acc.map (·.lane)).contains l && (n == d || (ty.is64 && n == d + 1))) ∧
        ∀ x ∈ p.acc, dHolds (t.wave wave) .n32 false ty.is64 d x.lane
          (let v := loadBytes s (s.core W.core) wave p.stamp false x.key ty.bytes
           if ty.is64 then v else extendLoad ty v)) ∧
    (landsHere s wave W.core p r →
      let lanes := (p.acc.map (·.lane)).eraseDups
      let of := fun l => p.acc.filter fun x => x.lane = l
      let byteVal := fun (x : LaneAcc) => loadBytes s (s.core W.core) wave p.stamp false x.key (p.op.size p.acc)
      let lands := fun (k : State → Prop) => ∃ t, exec (.ldOpComplete wave r) s = .next t ∧ (t.wave wave).f = w.f ∧
        (∀ l, (t.wave wave).pc l = w.pc l) ∧ k t
      let vGroup := fun (t : State) (ls : List Nat) (d n : Nat) =>
        vKept w (t.wave wave) fun m l => ls.contains l && (decide (d ≤ m) && decide (m < d + n))
      (∀ d ty m x, p.op = .lds d ty m → p.acc = [x] → lands fun t => t.mem = s.mem ∧ (t.wave wave).v = w.v ∧
        (t.wave wave).p = w.p ∧ (t.wave wave).fflags = w.fflags ∧ sKept w (t.wave wave) (· == d) ∧
        (t.wave wave).sreg d = extendLds ty (byteVal x)) ∧
      (∀ d fmt rm, p.op = .ldq d fmt rm →
        let f := NFmt.ofWord fmt
        let img := fun l => if f.ct = 1 then ((of l).map byteVal).foldr (fun x a => x + 256 * a) 0 else ((of l).map byteVal).headD 0
        let el := fun l j => (f.decode (f.elem (img l) j)).round32 rm
        lands fun t => t.mem = s.mem ∧ (t.wave wave).s = w.s ∧ (t.wave wave).p = w.p ∧ vGroup t lanes d f.count ∧
          (t.wave wave).fflags = lanes.foldl (fun a l => (List.range f.count).foldl (fun a j =>
            a ||| if p.lanes.getLsbD l then (el l j).2 else 0) a) w.fflags ∧
          ∀ l ∈ lanes, ∀ j, j < f.count → (t.wave wave).vreg (d + j) l = BitVec.ofNat 32 (el l j).1) ∧
      (∀ d op ty vs, p.op = .atom d op ty vs → (p.acc.map (·.lane)).Nodup → (∀ x ∈ p.acc, isPrvKey x.key = false) →
        (∀ x ∈ p.acc, (vs.find? fun y => y.1 = x.lane).isSome = true) → (∀ x ∈ s.ctxs, x.2.stalled = []) →
        let done := atomsDone op (aluOf ty) s.mem
          (p.acc.map fun x => (x.key, ((vs.find? fun y => y.1 = x.lane).map (·.2)).getD (0, 0)))
        lands fun t => t.mem = done.2 ∧ (t.wave wave).s = w.s ∧ (t.wave wave).p = w.p ∧ (t.wave wave).fflags = w.fflags ∧
          vGroup t lanes d (if ty.is64 then 2 else 1) ∧ ∀ i x, p.acc[i]? = some x →
            dHolds (t.wave wave) .n32 false ty.is64 d x.lane (let v := done.1.getD i 0; if ty.is64 then v else extendLoad ty v)) ∧
      (∀ d j idx, p.op = .spfetch d j idx → (∀ l, (of l).length ≤ 12) →
        lands fun t => t.mem = s.mem ∧ (t.wave wave).s = w.s ∧ (t.wave wave).p = w.p ∧ (t.wave wave).fflags = w.fflags ∧
          vGroup t lanes d 14 ∧ ∀ l ∈ lanes, (t.wave wave).vreg (d + 12) l = j ∧ (t.wave wave).vreg (d + 13) l = idx ∧
            ∀ k x, (of l)[k]? = some x → (t.wave wave).vreg (d + k) l = BitVec.ofNat 32 (byteVal x)) ∧
      (∀ grad fetch d pc img co, p.op = .tex grad fetch d pc img co → (co.map (·.1)).Nodup → (∀ y ∈ co, y.1 < 32) →
        let res := fun (l : Nat) (ws : List Word) => texValue img grad fetch ws ((of l).map byteVal)
        (∀ y ∈ co, (res y.1 y.2).1.length ≤ 4) →
        lands fun t => t.mem = s.mem ∧ (t.wave wave).s = w.s ∧ (t.wave wave).fflags = w.fflags ∧ vGroup t (co.map (·.1)) d 4 ∧
          pKept w (t.wave wave) (· == pc) ∧
          (pc ≠ 15 → ∀ l, l < 32 → (∀ y ∈ co, y.1 ≠ l) → ((t.wave wave).preg pc).getLsbD l = (w.preg pc).getLsbD l) ∧
          ∀ y ∈ co, (pc ≠ 15 → ((t.wave wave).preg pc).getLsbD y.1 = (res y.1 y.2).2) ∧
            ∀ k c, (res y.1 y.2).1[k]? = some c → (t.wave wave).vreg (d + k) y.1 = BitVec.ofNat 32 c) ∧
      (∀ d n key, p.op = .hbrd d n key → p.acc = [] →
        lands fun t => t.mem = s.mem ∧ (t.wave wave).s = w.s ∧ (t.wave wave).p = w.p ∧ (t.wave wave).fflags = w.fflags ∧
          vGroup t (lanesOf p.lanes) d n ∧ ∀ l ∈ lanesOf p.lanes, ∀ j, j < n →
            (t.wave wave).vreg (d + j) l = BitVec.ofNat 32 (s.natAt (key + 128 * j + 4 * l) 4)))) ∧
  (∀ (core : Nat) (s : State) (p : PendingStore) (rest : List PendingStore), Tidy s → (s.core core).fifo = p :: rest →
    storeReady s core p = true → (∀ x ∈ p.lanes, x.acc.remote = false) → (∀ x ∈ s.ctxs, x.2.stalled = []) → ∀ hit : Bool,
    let ends := fun (k : State → Prop) =>
      ∃ t, exec (.stOpComplete core ⟨[], .perform hit⟩) s = .next t ∧ (t.core core).fifo = rest ∧ k t
    let counts := fun (t : State) =>
      p.counted = true → (tget? s.waves p.wave).isSome = true → (s.core core).ops = [] → (∀ x ∈ (s.core core).flying, x.stamp ≠ p.stamp) →
        t.waves = tput s.waves p.wave { (s.wave p.wave) with stCnt := (s.wave p.wave).stCnt - 1 }
    let bytes := p.lanes.flatMap fun x => match x.op with
      | .plain bs => bs.zipIdx.map fun (b, i) => (byteKey x.acc.key i, b)
      | _ => []
    ((∀ x ∈ p.lanes, ∃ bs, x.op = .plain bs) → ends fun t => counts t ∧
      ∀ k, memGet t.mem k = ((bytes.filter fun x => x.1 = k).getLast?.map (·.2)).getD (memGet s.mem k)) ∧
    ((∀ x ∈ p.lanes, (∃ op ty v, x.op = .red op ty v) ∨ ∃ c, x.op = .bwadd false c) →
      (∀ x ∈ p.lanes, badLine s x.acc.key = false ∧ isPrvKey x.acc.key = false ∧ (hit = false ∨ inL1 x.acc = false)) →
      (∀ k, needsFill s k = none) → ends fun t => counts t ∧ t.mem = redsDone s.mem p.lanes) ∧
    (∀ c, tget? s.ctxs p.ctx = some c → (∀ x ∈ p.lanes, ∃ v a, x.op = .bwadd true v ∧ tget? c.accums x.acc.va.toNat = some a) →
      ends fun t => counts t ∧ t.mem = s.mem ∧ tget? t.ctxs p.ctx = some { c with
        accums := p.lanes.foldl (fun m x => match x.op, tget? m x.acc.va.toNat with
          | .bwadd true v, some a => tput m x.acc.va.toNat (a.add v)
          | _, _ => m) c.accums }) ∧
    (∀ c x v, tget? s.ctxs p.ctx = some c → p.lanes = [x] → x.op = .bwadd true v → tget? c.accums x.acc.va.toNat = none →
      (sliceAccums s (sliceOf x.acc.key)).length < 2048 → ends fun t => counts t ∧ t.mem = s.mem ∧ tget? t.ctxs p.ctx = some { c with
        accums := tput c.accums x.acc.va.toNat (Accum.add { slice := sliceOf x.acc.key } v) }) ∧
    (∀ x v, p.lanes = [x] → x.op = .bwadd true v → s.bwAdd p.ctx x.acc.key x.acc.va.toNat v = none →
      (s.wave p.wave).pc x.acc.lane ≠ exitedPc → ends fun t => t.mem = s.mem ∧ ∃ rep,
        (t.wave p.wave).reports = (s.wave p.wave).reports ++ [rep] ∧ rep.code = 0x42 ∧ rep.addr = x.acc.va ∧ rep.lane = x.acc.lane ∧
        rep.kind = 1 ∧ rep.held = some (x.acc.va, v)))

/-- R109, R112, R355: a core takes a copy of a whole line that it may fetch, and a TLB the leaf entry that a walk gives. -/
def Obligations.CachesFill : Prop :=
  (∀ (core ctx : Nat) (line : DWord) (s : State) (c : Context) (p : Page) (bs : List Byte), tget? s.ctxs ctx = some c →
    (lineOf line).toNat < 2 ^ 57 → translate s (some core) ctx c (lineOf line).toNat .fetch = .ok p → readLine s p = (bs, 0) →
    let k : CoreState := { (s.core core) with lines := tput (s.core core).lines (lineKey ctx (lineOf line)) (bs, 0) }
    exec (.instructionFetch core ctx line) s = .next { s with cores := tput s.cores core k }) ∧
  (∀ (core ctx : Nat) (va : DWord) (s : State) (c : Context) (p : Page), tget? s.ctxs ctx = some c → isLocalVa va = true →
    walk s c va.toNat = .ok p →
    let k : CoreState := { (s.core core) with tlb := tput (s.core core).tlb (tlbKey ctx va.toNat) (p.pack va.toNat) }
    exec (.pageWalk core ctx va) s = .next { s with cores := tput s.cores core k })

/-! ### Launches (R25 to R48, R335 to R347) -/

/-- R335, R340: a tail within the ring makes its records pending and any other sets ERR; the queue takes the next record of
its ring, or one offered to it, where it is that source's turn, under its next sequence. R31, R34, R36, R47: a kernel launch whose dependencies are met and
whose header and counts pass every check is eligible, with its header and its split factors; firmware grants the first
placement.
(The first sequence of a queue is log entry 40; the split factors outside deterministic mode, and the bytes that a frame takes of the
ebb region, are open, log entries 3 and 64.) -/
def Obligations.LaunchesAreAccepted : Prop :=
  ((∀ (q : Nat) (tail : Word) (s : State) (Q : Queue), q ≠ 0 → tget? s.queues q = some Q →
    let Q' : Queue := if (tail - Q.head).toNat ≤ Q.entries then { Q with tail } else { Q with err := true }
    exec (.queueTailWrite q tail) s = .next { s with queues := tput s.queues q Q' }) ∧
  (∀ (q : Nat) (s : State) (Q : Queue) (r : Option (List Byte)), tget? s.queues q = some Q → queueRoom s q Q = true →
    depsAbsorb s Q r = none →
    let lands := fun (src : LaunchSource) (va : DWord) (parent : Option Nat) (ring : Bool) (offers : List Offer) =>
      sourceTurn s Q (srcPlace src) = true →
      ∃ t Q' L more, exec (.launchAccept q src) s = .next t ∧ t.waves = s.waves ∧ tget? t.queues q = some Q' ∧
        (ring = false ∨ Q.headwb = 0 → ∀ a, tget? (ebbCells s Q 64) a = none →
          ring = false ∨ a < barKey (0x120000 + 8 * q) ∨ barKey (0x120000 + 8 * q) + 4 ≤ a → memGet t.mem a = memGet s.mem a) ∧
        Q'.seq = Q.seq + 1 ∧ Q'.lastSrc = srcPlace src ∧ Q'.head = (if ring then Q.head + 1 else Q.head) ∧
        Q'.offers = offers ++ more ∧ (∀ o ∈ more, ring = true ∧ o.src = .graph) ∧
        tget? t.launches (launchKey q Q.seq) = some L ∧
        { L with returns := [] } = launchOf s q Q va r parent (src == .unwinder)
    (Q.susp = false → Q.head ≠ Q.tail →
      let va := Q.ring + BitVec.ofNat 64 (64 * (Q.head.toNat % max 1 Q.entries))
      takeRecord s Q va = .ok r → lands .ring va none true Q.offers) ∧
    (∀ src o rest, src ≠ .ring → firstOffer (srcPlace src) Q.offers = some (o, rest) → o.src = src → offeredRecord s Q o = .ok r →
      lands src o.recVa (match src with | .walker w => (tget? s.walkers w).map (·.launch) | _ => none) false rest))) ∧
  ((∀ (q seq : Nat) (s : State) (L : Launch) (Q : Queue) (r : List Byte), tget? s.launches (launchKey q seq) = some L →
    tget? s.queues q = some Q → L.queue = q → L.state = .accepted → L.reject = 0 → depsMet s Q L = true → L.graph = false → wgTotal L ≠ 0 →
    s.readCtx L.ctx L.target.toNat 256 = .ok r → headerReason Q.det r = 0 → badCounts Q.det Q.gang (headerOf r) L.counts = false →
    neverPlaced s Q q (headerOf r) L = false →
    ∃ t splits, exec (.launchEligible q seq) s = .next t ∧ t.mem = s.mem ∧ t.waves = s.waves ∧
      tget? t.launches (launchKey q seq) = some { L with state := .eligible, reject := 0, header := some (headerOf r), hdrVa := L.target, splits } ∧
      splits.length = (headerOf r).splits.length ∧ (Q.det = true → splits = (headerOf r).splits) ∧
      ∀ k, k < splits.length → 1 ≤ splits.getD k 0 ∧ splits.getD k 0 ≤ (headerOf r).splits.getD k 0) ∧
  (∀ (q seq : Nat) (s : State) (L : Launch), (ungranted s q).head? = some (launchKey q seq, L) → tget? s.launches (launchKey q seq) = some L →
    exec (.bindGrant q seq) s = .next { s with launches := tput s.launches (launchKey q seq) { L with granted := true } }))

/-- R26, R36, R50, R344: a dispatch round places the gang of the preferred candidate whole: its workgroups on their cores,
their waves' lanes at the kernel's entry with the argument in `s0`; and a wave's skip count stays within its bound. R25, R37,
R44: a workgroup that has nothing left retires, its waves gone and its barrier of resources freed; a launch that has nothing
left completes: its frame is sealed, its pin rises, and an unwind it asked for is there. (That an unwound launch's frame which
holds nothing goes is the model's reading, log entry 58.) -/
def Obligations.WorkgroupsComeAndGo : Prop :=
  ((∀ (part : Nat) (s : State) (c : Cand) (p : Place), (candidatesOf s part).all (fun c =>
      match tget? s.queues c.L.queue with | some q => !neverPlaced s q c.L.queue c.H c.L | none => true) = true →
    preferred ((candidatesOf s part).filter fun c => c.place.isSome) = some c → c.place = some p → tget? s.launches c.key = some c.L →
    p.cores.length = c.L.c2 → c.L.counts.headD 1 ≤ 32 →
    ∃ t L', exec (.dispatchRound part) s = .next t ∧ t.mem = s.mem ∧ tget? t.launches c.key = some L' ∧
      L'.nextWg = c.L.nextWg + c.L.c2 ∧ L'.live = c.L.live + c.L.c2 ∧ L'.skips = 0 ∧
      L'.wgs = c.L.wgs ++ (List.range c.L.c2).map (s.nextId + 1 + ·) ∧
      ∀ f2, f2 < c.L.c2 → ∃ W, tget? t.wgs (s.nextId + 1 + f2) = some W ∧ W.launch = c.key ∧ W.core = p.cores.getD f2 0 ∧ W.f2 = f2 ∧
        W.index = c.L.nextWg + f2 ∧ W.waves = c.L.counts.headD 1 ∧ W.resident = true ∧ W.retired = false ∧
        ∀ f1, f1 < W.waves →
          let w := t.wave ((s.nextId + 1 + f2) * 32 + f1)
          w.status = .ready ∧ w.sreg 0 = c.L.args ∧ w.v = [] ∧ w.p = [] ∧ ∀ l, l < 32 → w.pc l = c.H.entry) ∧
  (∀ (wave : Nat) (s : State) (w : Wave), tget? s.waves wave = some w →
    exec (.ageingOverdue wave) s = .next { s with waves := tput s.waves wave { w with skips := min 16384 w.skips } })) ∧
  ((∀ (wg : Nat) (s : State) (W : Workgroup) (L : Launch), Tidy s → tget? s.wgs wg = some W → tget? s.launches W.launch = some L →
    retireReady s wg W = true → W.ended = false →
    ∃ t W', exec (.workgroupRetire wg) s = .next t ∧ t.mem = s.mem ∧ tget? t.wgs wg = some W' ∧ W'.retired = true ∧ W'.hq = [] ∧
      (∀ w, wgOf w = wg → tget? t.waves w = none) ∧ (∀ w, wgOf w ≠ wg → tget? t.waves w = tget? s.waves w) ∧
      tget? t.launches W.launch = some { L with live := L.live - 1 } ∧
      ∀ G, tget? s.gangs W.gang = some G → gangLive t G = false → ∃ G', tget? t.gangs W.gang = some G' ∧ G'.res = [] ∧ G'.conv = []) ∧
  (∀ (q seq : Nat) (s s1 s' : State) (L : Launch) (Q : Queue) (F : Frame), Tidy s → L.queue = q → L.seq = seq →
    tget? s.launches (launchKey q seq) = some L → tget? s.queues q = some Q → tget? Q.frames seq = some F → completeReady s (launchKey q seq) L = true →
    s.flushWords L none L.targeted = (s1, none) → s1.launchRelease (launchKey q seq) L = (s', true) →
    ∃ t L' Q', exec (.launchComplete q seq) s = .next t ∧ tget? t.launches (launchKey q seq) = some L' ∧ L'.state = .complete ∧
      tget? t.queues q = some Q' ∧ (tget? Q'.frames seq = if L.unwound && F.seal.recs.isEmpty && F.seal.marks.isEmpty then none else some F.seal) ∧
      (L.reject = 0 → bitOf L.flags 2 = true ∨ L.unwind = true → Q'.unwind.isSome = true) ∧
      (L.reject = 0 → L.ended = false → pinValid L.pin.toNat = false → t.mem = s'.mem) ∧
      (L.reject = 0 → L.ended = false → pinValid L.pin.toNat = true →
        ∀ pl, pinPlace s' Q.det L.ctx (L.pin.toNat % 2 ^ 14) = .ok pl → pinValue t pl = pinValue s' pl + L.pininc)))

/-! ### Graphs and unwinds (R41 to R46, R349, R350) -/

/-- R41 to R43, R46, R349: a graph launch takes a walker where its partition has one left, and each kind of node, once its
gate is open, does what its kind says: it ends the walk, offers a record to the queue, starts a copy (one of no bytes is
complete at once), chooses the next node by a word, counts iterations on a stack of at most 8 loops, waits, gives a commit,
asks for an unwind. R46, R350: the running unwind of a queue starts when the launches up to its reference have completed,
takes the frames from that one down, submits a frame's records in order with the queue's next sequences, removes the frame
once they have completed, and ends with its pin; the next unwind asked for follows.
(A copy of no bytes that ends at once is the model's reading, log entry 41.) -/
def Obligations.GraphsAndUnwindsRun : Prop :=
  ((∀ (q seq : Nat) (s : State) (L : Launch) (c : Context), tget? s.launches (launchKey q seq) = some L →
    tget? s.ctxs L.ctx = some c → L.graph = true → L.state = .eligible → L.reject = 0 →
    (s.walkers.filter fun (_, w) => w.part = c.part && !w.ended).length < 64 →
    let k := launchKey q seq
    exec (.graphWalkerStart q seq) s = .next { s with
      nextId := s.nextId + 1
      walkers := tput s.walkers s.nextId { launch := k, part := c.part, node := L.target }
      launches := tput s.launches k { L with state := .walking } }) ∧
  (∀ (s : State) (x : AtNode),
    let at_ := fun (o : Nat) => BitVec.ofNat 64 (leAt x.r o 8)
    let moves := fun (t : State) (w : Walker) => (.next { t with walkers := tput t.walkers x.id w } : Res)
    (standsAt s 0 x → exec (.graphNodeEnd x.id) s = moves s { x.w with ended := true }) ∧
    (standsAt s 1 x → exec (.graphNodeKernel x.id) s =
      moves { s with queues := tput s.queues x.L.queue { x.q with offers := x.q.offers ++ [⟨at_ 0x18, .walker x.id, none, []⟩] } }
        { x.w with node := at_ 0x10, pending := 1 }) ∧
    (standsAt s 2 x →
      (leAt x.r 0x28 8 = 0 → exec (.graphNodeCopy x.id) s =
        moves (if pinValid (leAt x.r 0x30 4) then s.addPin x.q.det x.L.ctx (leAt x.r 0x30 4 % 2 ^ 14) (BitVec.ofNat 32 (leAt x.r 0x34 4))
          else s) { x.w with node := at_ 0x10 }) ∧
      (leAt x.r 0x28 8 ≠ 0 → ∃ t o, exec (.graphNodeCopy x.id) s = .next t ∧ t.mem = s.mem ∧ t.nextId = s.nextId + 1 ∧
        t.walkers = tput s.walkers x.id { x.w with node := at_ 0x10 } ∧ t.shuttles = tput s.shuttles s.nextId o ∧
        o.kind = .flat ∧ o.dense = at_ 0x18 ∧ o.tensor.base = at_ 0x20 ∧ o.len = leAt x.r 0x28 8 ∧ o.done = [] ∧
        o.comp.toNat = leAt x.r 0x30 4 ∧ o.inc.toNat = leAt x.r 0x34 4)) ∧
    (∀ bs, s.readCtx x.L.ctx (leAt x.r 0x18 8) 4 = .ok bs →
      (standsAt s 3 x → exec (.graphNodeCondition x.id) s = moves s { x.w with node := if leNat bs ≠ 0 then at_ 0x20 else at_ 0x10 }) ∧
      (standsAt s 4 x →
        (∀ i below, x.w.stack = (x.w.node, i) :: below → exec (.graphNodeLoop x.id) s =
          moves s (if i < leAt x.r 0x28 4 ∧ leNat bs ≠ 0 then { x.w with stack := (x.w.node, i + 1) :: below, node := at_ 0x20 }
            else { x.w with stack := below, node := at_ 0x10 })) ∧
        ((x.w.stack.head?.map (·.1)) ≠ some x.w.node → x.w.stack.length < 8 → exec (.graphNodeLoop x.id) s =
          moves s (if 0 < leAt x.r 0x28 4 ∧ leNat bs ≠ 0 then { x.w with stack := (x.w.node, 1) :: x.w.stack, node := at_ 0x20 }
            else { x.w with node := at_ 0x10 })))) ∧
    (standsAt s 5 x → exec (.graphNodePinWait x.id) s = moves s { x.w with node := at_ 0x10 }) ∧
    (standsAt s 6 x → commitFault s x.L.ctx x.q.det (BitVec.ofNat 32 (leAt x.r 0x18 4)) (at_ 0x20) (at_ 0x28) = none →
      exec (.graphNodeTideCommit x.id) s =
        moves (s.commitTide x.L.ctx (BitVec.ofNat 32 (leAt x.r 0x18 4))
          ⟨at_ 0x20, at_ 0x28, x.q.det, x.w.node, x.L.queue, x.L.seq, 0, 0⟩) { x.w with node := at_ 0x10 }) ∧
    (standsAt s 7 x →
      let u : Unwind :=
        { ref := x.w.lastSeq.getD x.L.seq, walker := some x.id, pin := BitVec.ofNat 32 (leAt x.r 0x18 4)
          pininc := BitVec.ofNat 32 (leAt x.r 0x1C 4) }
      let q : Queue := if x.q.unwind.isNone then { x.q with unwind := some u } else { x.q with wanted := x.q.wanted ++ [u] }
      exec (.graphNodeEbbUnwind x.id) s = moves { s with queues := tput s.queues x.L.queue q } { x.w with node := at_ 0x10, unwind := true }))) ∧
  (∀ (id : Nat) (s : State) (q : Queue) (u : Unwind), Tidy s → tget? s.queues id = some q → q.unwind = some u → u.walker = none →
    let moves := fun (q' : Queue) => exec (.unwindFrame id) s = .next { s with queues := tput s.queues id q' }
    (u.started = false → unwindStarts s id u = true → moves { q with unwind := some { u with started := true } }) ∧
    (u.started = true → u.frame = none →
      (∀ k f, (q.frames.filter fun x => x.1 ≤ u.ref).getLast? = some (k, f) →
        moves { q with unwind := some { u with frame := some k, left := f.recs, marks := f.marks, wait := [] } }) ∧
      ((∀ x ∈ q.frames, u.ref < x.1) → pinValid u.pin.toNat = false →
        moves { q with unwind := q.wanted.head?, wanted := q.wanted.drop 1 }) ∧
      ((∀ x ∈ q.frames, u.ref < x.1) → pinValid u.pin.toNat = true → ∃ t q', exec (.unwindFrame id) s = .next t ∧
        tget? t.queues id = some q' ∧ q'.unwind = q.wanted.head? ∧ q'.frames = q.frames ∧
        ∀ pl, pinPlace s q.det q.ctx (u.pin.toNat % 2 ^ 14) = .ok pl → pinValue t pl = pinValue s pl + u.pininc)) ∧
    (u.started = true → ∀ k, u.frame = some k →
      (∀ r rest, u.left = r :: rest → (∀ c, tget? s.ctxs q.ctx = some c → markedRanges c u.marks r = []) →
        moves { q with offers := q.offers ++ [⟨0, .unwinder, some r.data, []⟩], unwind := some { u with left := rest } }) ∧
      (u.left = [] → unwinderOffers q = false → (∀ n ∈ u.wait, launchDone s id n = true) →
        moves { q with frames := tdel q.frames k, unwind := some { u with frame := none, wait := [], marks := [] } })))

/-! ### Pre-emption, records, reclaimed memory (R75, R346, R352, R359, R366 to R370) -/

/-- R359: the oldest record of a ring that has room is written at its tail, the tail rises by one and the interrupt is sent.
R75: an accumulator becomes a spill record. R352: a range that a mark names is dropped where a graph rebuilds it and else
copied out, below the watermark; the copy's end and the return's end.
(That a dropped range's bytes are open and the page tables keep theirs is the model's reading, log entry 43; where a spill record stands,
log entry 32.) -/
def Obligations.RecordsAndRangesMove : Prop :=
  (∀ (ctx : Nat) (trap : Bool) (s s1 s2 : State) (c : Context) (r : Ring) (x : RingRec) (rest : List RingRec) (head tail : Word),
    tget? s.ctxs ctx = some c → (if trap then c.trapring else c.faultring) = some r → (if trap then c.traps else c.faults) = x :: rest →
    ringCounts s ctx r = .ok (head, tail) → (tail - head).toNat < r.entries →
    s.writeVa ctx (r.base.toNat + 64 * (tail.toNat % r.entries)) x.bytes = some s1 →
    s1.writeVa ctx (r.ctl.toNat + 0x14) (leBytes 4 (tail + 1).toNat) = some s2 →
    ∃ t, exec (.ringRecordDelivery ctx trap) s = .next t ∧ .interrupt r.vector ∈ t.outbox ∧
      t.waves = s.waves ∧ (∃ c', tget? t.ctxs ctx = some c' ∧ (if trap then c'.traps else c'.faults) = rest) ∧
      (∀ w, trap = false → x.walker = some w → t.walkers = tdel s.walkers w) ∧
      (trap = true ∨ s.heads = [] → t.mem = s2.mem ∧
        tget? t.ctxs ctx = some (if trap then { c with traps := rest } else { c with faults := rest }))) ∧
  (∀ (ctx word : Nat) (s s' : State) (c : Context) (a : Accum), tget? s.ctxs ctx = some c → tget? c.accums word = some a →
    spillFull c = false ∨ (tget? c.spills word).isSome = true →
    let r : Accum := { (match tget? c.spills word with | some b => a.merge b | none => a) with place := spillPlace c word }
    s.writeVa ctx (c.spill.toNat + 48 * r.place) (spillBytes r word) = some s' →
    exec (.accumulatorEvict ctx word) s = .next { s' with
      ctxs := tput s'.ctxs ctx { c with accums := tdel c.accums word, spills := tput c.spills word r } }) ∧
  (∀ (ctx : Nat) (base : DWord) (s : State) (c : Context) (b n : Nat) (g : DWord), tget? s.ctxs ctx = some c →
    let qs := s.queues.filter fun x => x.2.ctx = ctx
    (qs.filterMap fun x => nextReclaim c x.2).find? (fun x => x.1 = base.toNat) = some (b, n, g) →
    let graph := (qs.flatMap fun x => x.2.frames.flatMap fun f => f.2.marks).findSome? fun m => match m with
      | .recomp x _ g => if x = b then some g else none
      | .needs .. => none
    ∃ t, exec (.memoryReclaim ctx base) s = .next t ∧ t.waves = s.waves ∧
      (c.watermark ≤ Config.freeMemory s.free → t = { s with free := s.free + 1 }) ∧
      (Config.freeMemory s.free < c.watermark → tget? t.ctxs ctx = some { c with
        ranges := tput c.ranges b (match graph with | some g => ⟨n, .dropped, g⟩ | none => ⟨n, .outward, 0⟩) })) ∧
  (∀ (ctx : Nat) (base : DWord) (s : State) (c : Context) (r : RangeRec), tget? s.ctxs ctx = some c → tget? c.ranges base.toNat = some r →
    (r.state = .outward → exec (.offloadCopyComplete ctx base) s =
      .next { s with ctxs := tput s.ctxs ctx { c with ranges := tput c.ranges base.toNat { r with state := .offloaded } } }) ∧
    (r.state = .returning → r.graph = 0 ∨ graphRuns s ctx r.graph = false → c.stalled = [] → exec (.rangeReturnComplete ctx base) s =
      .next { s with ctxs := tput s.ctxs ctx { c with ranges := tdel c.ranges base.toNat } }))

/-- R366 to R370: a resident workgroup is told to leave; one that has drained is saved, its private windows written back to the lines
of their own (R79, R300), and gives up its core, or leaves a
record of code 0x72 for each of its waves; it is restored on a core that takes it, of its gang's cluster or one that the gang
may move to; a restartable one that holds nothing outside is flushed, its waves as at first placement and its scratch clear.
R346: a candidate that has stalled for 4096 rounds has the cluster cleared where the fewest gangs must leave, and those may then move
to another cluster.
(The cluster chosen among equals, the save area's open parts and what a flush asks for are the model's, log entries 41 and 42.) -/
def Obligations.WorkgroupsMove : Prop :=
  (∀ (wg : Nat) (s : State) (W : Workgroup) (dev : Option Nat), tget? s.wgs wg = some W → W.held = true → W.leaving = none →
    W.ended = false → (∀ d, dev = some d → ∃ k, s.fabric.portTo d = some k ∧ (s.fabric.port k).cong = true) →
    exec (.swapOut wg dev) s = .next { s with wgs := tput s.wgs wg { W with leaving := some dev } }) ∧
  (∀ (wg : Nat) (s : State) (W : Workgroup) (L : Launch) (H : Header) (c : Context) (dev : Option Nat), tget? s.wgs wg = some W →
    W.leaving = some dev → tget? s.launches W.launch = some L → L.header = some H → tget? s.ctxs L.ctx = some c →
    saveReady s wg W dev = true → W.waves ≤ 32 →
    ∃ t W' c', exec (.workgroupSave wg) s = .next t ∧ tget? t.wgs wg = some W' ∧ tget? t.ctxs L.ctx = some c' ∧
      (∀ id, wgOf id ≠ wg → tget? t.waves id = tget? s.waves id) ∧
      ((W' = { W with resident := false, leaving := none, descr := loadsLeft s wg W, saved := true } ∧ c' = c ∧
          t.mem = ((State.writeSave { s with free := s.free + 1 } wg W L H c).saveWindows wg W H).mem ∧
          (Memory.wf s.mem = true → wg < 2 ^ 32 → H.priv ≤ 2 ^ 16 → ∀ f i, f < W.waves → i < 128 * H.priv →
            memGet t.mem (windowBase (wg * 32 + f) H.priv + i) = memGet s.mem (prvBase (wg * 32 + f) H.priv + i))) ∨
        (∃ toks rs, W' = { W with saveFail := toks } ∧ toks.length = W.waves ∧ c'.faults = c.faults ++ rs ∧ rs.length = W.waves ∧
          t.mem = s.mem ∧ ∀ r ∈ rs, r.code = 0x72))) ∧
  (∀ (wg cl core slot : Nat) (s : State) (W : Workgroup) (G : Gang) (L : Launch) (H : Header) (c : Context), tget? s.wgs wg = some W →
    tget? s.gangs W.gang = some G → tget? s.launches W.launch = some L → L.header = some H → tget? s.ctxs L.ctx = some c →
    W.resident = false → W.retired = false → (∀ x, tget? s.stalls c.part = some x → x.clear ≠ some cl) →
    coreTakes s wg W L H cl core = true → cl = G.cluster ∨ mayMove s W.gang G L H cl = true → restoreBind s L cl core = some slot →
    ∃ t W' G', exec (.workgroupRestore wg cl core) s = .next t ∧ tget? t.wgs wg = some W' ∧ tget? t.gangs W.gang = some G' ∧
      W' = { W with resident := true, core := 16 * cl + core, descr := [], bind := some slot, saved := false, stash := W'.stash } ∧
      W'.stash = W.stash.map (fun x => { x with stale := x.filled }) ∧ G'.cluster = cl ∧ G'.res = G.res ∧ G'.migrate = false ∧
      (cl = G.cluster → t.mem = (if W.saved then s.loadWindows wg W H else s).mem) ∧ (W.descr = [] → t.waves = s.waves)) ∧
  (∀ (wg : Nat) (s : State) (W : Workgroup) (L : Launch) (H : Header), Tidy s → tget? s.wgs wg = some W →
    tget? s.launches W.launch = some L → L.header = some H → flushReady s wg W L = true →
    ∃ t W', exec (.workgroupFlush wg) s = .next t ∧ tget? t.wgs wg = some W' ∧ W'.resident = false ∧ W'.leaving = none ∧
      W'.bars = [] ∧ W'.stash = [] ∧ (∀ a, a < 2 ^ 20 → memGet t.mem (scrKey wg a) = 0) ∧
      (∀ a, a < 2 ^ 40 → memGet t.mem a = memGet s.mem a) ∧
      (∀ f, f < W.waves → t.wave (wg * 32 + f) = { startWave L H with hold := (s.wave (wg * 32 + f)).hold }) ∧
      ∀ id, (id < wg * 32 ∨ wg * 32 + W.waves ≤ id) → tget? t.waves id = tget? s.waves id) ∧
  (∀ (part cl : Nat) (s : State) (x : Stall) (L : Launch) (H : Header) (q : Queue) (gs : List Nat), tget? s.stalls part = some x →
    tget? s.launches x.launch = some L → L.header = some H → tget? s.queues L.queue = some q → 4096 ≤ x.rounds → x.clear = none →
    cl ∈ queueClusters s part L.queue → gangsToLeave s part x.launch L H q.det cl = some gs →
    (∀ c ∈ queueClusters s part L.queue, ∀ hs, gangsToLeave s part x.launch L H q.det c = some hs → gs.length ≤ hs.length) →
    ∃ t, exec (.gangStall part cl) s = .next t ∧ t.stalls = tput s.stalls part { x with clear := some cl } ∧ t.mem = s.mem ∧
      (∀ k G, tget? s.gangs k = some G → tget? t.gangs k = some (if gs.contains k then { G with migrate := true } else G)) ∧
      t.waves = s.waves ∧ t.wgs.map (·.1) = s.wgs.map (·.1) ∧ ∀ id W, tget? s.wgs id = some W →
        tget? t.wgs id = some (if gs.contains W.gang ∧ W.held = true ∧ W.leaving = none ∧ W.ended = false then { W with leaving := some none } else W))

/-! ### Tides (R273 to R287) -/

/-- R273 to R275, R277, R279, R283, R284, R287: what each tide instruction answers and does to this device's record of its
group, where its checks pass.
(The corners of log entry 25 are the model's readings.) -/
def Obligations.TideInstructionsRun : Prop :=
  ∀ (g : Guard) (a : BitVec 8) (s : State) (e : Env), Tidy s → s.env? g = some e → e.active ≠ 0 → gidFault s (gidOf e.w a) = none →
    let gid := gidOf e.w a
    (∀ (d b c : BitVec 8) (xs : List Nat),
      let ow := (e.w.sreg c.toNat).toNat
      let np := ow % 2048
      bitsOf ow 63 48 = 0 → bitsOf ow 31 11 = 0 → bitsOf ow 47 32 ≠ 0 →
      let answers := fun (x : DWord) (k : State → Prop) => ∃ t, exec (.topen g d a b c) s = .next t ∧ passed e t ∧ t.mem = s.mem ∧
        sGets e t d x ∧ (t.wave e.id).tides = (if e.w.tides.contains gid then e.w.tides else e.w.tides ++ [gid]) ∧ k t
      let fresh := s.tide? gid = none ∧ pastOutcome e.c gid = none ∧ earlyOutcome s gid = none
      let room := (tget? s.early gid.toNat).isSome = true ∨ s.tides.length + s.early.length < 64
      (∀ r, s.tide? gid = some r → r.ctx = e.ctx → answers 1 fun t => t.tides = s.tides) ∧
      (s.tide? gid = none → (pastOutcome e.c gid).isSome = true ∨ (earlyOutcome s gid).isSome = true →
        answers 0x8000000000000002#64 fun t => t.tides = s.tides) ∧
      (fresh → ¬ room → answers 0x8000000000000001#64 fun t => t.tides = s.tides) ∧
      (fresh → room → ownGroup s gid = false → s.coord? gid = none → s.fabric.member (tideCoord gid) ≠ .fenced → answers 0 fun t =>
        tget? t.tides gid.toNat = some { ctx := e.ctx, det := e.det, expect := bitsOf ow 47 32 } ∧ t.coords = s.coords) ∧
      (fresh → room → ownGroup s gid = true → 1 ≤ np → np ≤ 1024 → (e.w.sreg b.toNat).toNat % 2 = 0 → settled s e = true →
        tget? s.early gid.toNat = none → readParts s e (e.w.sreg b.toNat) np = .ok xs →
        (∀ d ∈ listOrder s.fabric.index xs, s.fabric.member d ≠ .fenced) → answers 0 fun t =>
          tget? t.tides gid.toNat = some { ctx := e.ctx, det := e.det, expect := bitsOf ow 47 32 } ∧
          tget? t.coords gid.toNat = some { ctx := e.ctx, parts := listOrder s.fabric.index xs })) ∧
    (∀ (d : BitVec 8) (base : Option (BitVec 8)) (index : Option (BitVec 8 × BitVec 2)) (off : Word) (ty : MemTy) (r : TideRec)
        (T : Nat → LaneAcc),
      e.vTy ty.is64 d.toNat = true → (∀ x k, index = some (x, k) → e.vTy false x.toNat = true) → e.w.stCnt ≠ 63 →
      s.tide? gid = some r → r.ctx = e.ctx → r.isOpen = true → r.closes < r.expect →
      (∀ l ∈ lanesOf e.active, tideTarget s e ty.bytes l (effAddr e.w base index off l) = .ok (T l, none)) →
      ∃ t, exec (.sttide g d base index off ty a) s = .next t ∧
        storeIssued e s t ((lanesOf e.active).map fun l => ⟨T l, .tide gid (leBytes ty.bytes (storeValue e.w ty d.toNat l))⟩) ∧
        tget? t.tides gid.toNat = some { r with
          sent := (lanesOf e.active).foldl (fun x l => countSent x (tideDest s (T l).va)) r.sent }) ∧
    (∀ (d : BitVec 8) (r : TideRec) (s' : State), s.tide? gid = some r → r.ctx = e.ctx → r.isOpen = true → r.closes < r.expect →
      released s s' e .sys →
      let last : Bool := decide (r.closes + 1 = r.expect)
      ∃ t, exec (.tclose g d a) s = .next t ∧ passed e t ∧ t.mem = s'.mem ∧
        sGets e t d (BitVec.ofNat 64 ((if last then 1 else 0) + (if r.state == .failed then 2 else 0))) ∧
        (t.wave e.id).tides = e.w.tides.filter (· != gid) ∧
        tget? t.tides gid.toNat = some { r with
          closes := r.closes + 1, state := if last && r.state == .opened then .closed else r.state }) ∧
    (∀ (b c : BitVec 8), (∀ r, s.tide? gid = some r → r.ctx = e.ctx) →
      commitFault s e.ctx e.det gid (e.w.sreg b.toNat) (e.w.sreg c.toNat) = none →
      let T : TideCommit := ⟨e.w.sreg b.toNat, e.w.sreg c.toNat, e.det, e.pc, e.L.queue, e.L.seq, e.wg.core, e.wid (lowLane e.enabled)⟩
      ∃ t, exec (.tcommit g a b c) s = .next t ∧ passed e t ∧ regsKept e.w (t.wave e.id) ∧
        t = { s.commitTide e.ctx gid T with waves := t.waves, wgs := t.wgs } ∧
        ∀ C p, s.coord? gid = some C → C.phase = .gather → p ∈ C.parts → (∀ x ∈ C.closed, x.1 ≠ p) → (∀ x ∈ C.nos, x.1 ≠ p) →
          t.coords = tput s.coords gid.toNat { C with commit := some T } ∧ t.mem = s.mem ∧ t.outbox = s.outbox) ∧
    (∀ (d : BitVec 8),
      let answers := fun (x : DWord) (k : State → Prop) => ∃ t, exec (.tabort g d a) s = .next t ∧ passed e t ∧ t.mem = s.mem ∧
        sGets e t d x ∧ k t
      (s.tide? gid = none → answers (if (pastOutcome e.c gid).isSome then 1 else 2) fun t => t.tides = s.tides ∧ t.outbox = s.outbox) ∧
      (∀ r, s.tide? gid = some r → r.ctx = e.ctx →
        (r.isOpen = false → answers 1 fun t => t.tides = s.tides ∧ t.outbox = s.outbox) ∧
        (r.isOpen = true → answers 0 fun t => tget? t.tides gid.toNat = some
          (if r.state = .failed then r else { r with state := .failed, code := 5, dev := s.fabric.index, fc := 0 })))) ∧
    (∀ (d : BitVec 8) (wait : Bool), (∀ r, s.tide? gid = some r → r.ctx = e.ctx) →
      let w := tideStatus s e.c gid
      wait = false ∨ tideStateOf w = 0 ∨ tideStateOf w = 4 ∨ tideStateOf w = 5 →
      ∃ t, exec (.tstat g wait d a) s = .next t ∧ passed e t ∧ t.mem = s.mem ∧ sGets e t d w)

/-- R103, R277 to R280: a write of another device that comes in its place on its line and reaches an open record with room is
staged and answered; one already answered is answered again; a closed contribution whose writes are out sends its counts.
R282, R285, R286: a participant answers COUNT, locks its staged lines when no other group holds one, writes what it staged at
APPLY, and finishes at ABORT; no line stays locked. A survivor of a lost coordinator tells what it knows of the outcome, and
one that asks applies at the first answer that the group was applied, and aborts with CODE 4 after the last that it was not.
R276, R283, R284: what a message to a group's coordinator does: CLOSED, NO, the inbound counts, LOCKED, APPLIED and the
answers to ABORT are kept, and the last one awaited brings the next message to every participant, the abort that R283 names,
or the group's end, with its status word and its pin where a `tcommit` gave them; APPLY carries the stamp (R384).
(The corners of log entries 22 and 25 are the model's readings; the time since the last pulse that a stamp carries is open, log entry
3.) -/
def Obligations.TideMessagesAct : Prop :=
  (∀ (gid : Word) (s : State), rising s.tides → s.fabric.fencedSelf = false →
    let sends := fun (t : State) (kind : Nat) (xs : List Nat) => Out.tide (tideCoord gid) gid kind xs ∈ t.outbox
    let quiet := ∀ x ∈ s.ctxs, x.2.stalled = []
    let outcome := fun (t : State) (r : TideRec) (w : DWord) => tget? t.tides gid.toNat = none ∧ (∀ l, tget? t.locked l ≠ some gid) ∧
      ∀ c, tget? s.ctxs r.ctx = some c → ∃ n c', tget? t.ctxs r.ctx = some c' ∧ pastOutcome c' gid = some (w, n)
    (∀ (src : ReqSource) (n : ReqNo) (wave off : Nat) (bs : List Byte),
      let req := Instr.tideWriteStage gid src n wave off bs
      (∀ x, replayOf s src n.no = some x →
        ∃ t, exec req s = .next t ∧ Out.reply src n.no x.reply x.code ∈ t.outbox ∧ sentOnly s t) ∧
      (∀ r k p c, replayOf s src n.no = none → lineHigh s src off ≤ n.no → n.prev ≤ lineHigh s src off →
        s.tide? gid = some r → r.state = .opened ∨ r.state = .closed → r.det = false →
        translateExport s src.dev src.ctx off bs.length .write false = .ok (k, p) → p.host = false → tget? s.ctxs r.ctx = some c →
        stagingUsed s r.ctx + 64 ≤ c.staging →
        let staged := bs.zipIdx.foldl (fun m x => tput m (p.key + x.2) (x.1, src.dev * 2 ^ 64 + wave)) r.staged
        ∃ t, exec req s = .next t ∧ t.mem = s.mem ∧ Out.reply src n.no 0 0 ∈ t.outbox ∧ lineHigh t src off = n.no + 1 ∧
          (∃ x, replayOf t src n.no = some x ∧ x.reply = 0 ∧ x.code = 0) ∧
          tget? t.tides gid.toNat = some { r with inbound := r.inbound + 1, staged := staged })) ∧
    (∀ r, s.tide? gid = some r →
      (r.state = .closed → r.sentClosed = false → tideQueued s gid = false →
        ∃ t, exec (.tideContributionClose gid) s = .next t ∧ sends t 1 (r.sent.flatMap fun x => [x.1, x.2]) ∧
          sentOnly { s with tides := tput s.tides gid.toNat { r with sentClosed := true } } t) ∧
      (r.voted = true → ownPhase s gid (fun c => c.phase == .count) = true →
        ∃ t, exec (.tideCount gid) s = .next t ∧ sends t 4 [r.inbound] ∧ sentOnly s t) ∧
      (∀ list, r.voted = true → ownPhase s gid (fun c => c.phase == .lock && c.parts == list) = true →
        ∃ t, exec (.tideLock gid list) s = .next t ∧ t.mem = s.mem ∧
          ((∀ l ∈ r.lines, tget? s.locked l = none) → sends t 6 [] ∧ t.locked = r.lines.foldl (fun x l => tput x l gid) s.locked ∧
            tget? t.tides gid.toNat = some { r with list := list, state := .locked, lockWait := false }) ∧
          ((∃ l ∈ r.lines, (tget? s.locked l).isSome = true) → t.outbox = s.outbox ∧ t.locked = s.locked ∧
            tget? t.tides gid.toNat = some { r with list := list, lockWait := true })) ∧
      (∀ hsf since, r.state = .locked → r.asked = none → ownPhase s gid (fun c => c.phase == .apply) = true → s.heads = [] → quiet →
        ∃ t, exec (.tideApply gid hsf since) s = .next t ∧ t.mem = (s.writeCells (r.staged.map fun x => (x.1, x.2.1))).mem ∧
          outcome t r (tideWord gid 4 0 0 0) ∧ sends t 8 []) ∧
      (∀ code fc named, ownPhase s gid (fun c => c.phase == .abort code.toNat named fc) = true → quiet →
        ∃ t, exec (.tideAbort gid code fc named) s = .next t ∧ t.mem = s.mem ∧
          outcome t r (tideWord gid 5 code.toNat named fc) ∧ sends t 10 []) ∧
      (∀ dev ds, r.asked = some ds → dev ∈ ds →
        ((∃ d ∈ ds, d ≠ dev) → exec (.tideLocked gid ⟨dev, .answers none⟩) s = .next { s with
          tides := tput s.tides gid.toNat { r with asked := some (ds.filter (· ≠ dev)) } }) ∧
        ((∀ d ∈ ds, d = dev) → quiet → ∃ t, exec (.tideLocked gid ⟨dev, .answers none⟩) s = .next t ∧ t.mem = s.mem ∧
          outcome t r (tideWord gid 5 4 (tideCoord gid) 0)) ∧
        (∀ hsf since, s.heads = [] → quiet → ∃ t, exec (.tideLocked gid ⟨dev, .answers (some (hsf, since))⟩) s = .next t ∧
          t.mem = (s.writeCells (r.staged.map fun x => (x.1, x.2.1))).mem ∧ outcome t r (tideWord gid 4 0 0 0)))) ∧
    (∀ dev, dev ≠ s.fabric.index → s.fabric.member (tideCoord gid) = .fenced →
      ∃ t, exec (.tideLocked gid ⟨dev, .asks⟩) s = .next t ∧ sentOnly s t ∧ Out.tide dev gid 13 [surveyAnswer s gid] ∈ t.outbox) ∧
    (∀ code fc named, s.tide? gid = none → ownGroup s gid = false → ∃ t, exec (.tideAbort gid code fc named) s = .next t ∧
      earlyOutcome t gid = some (tideWord gid 5 code.toNat named fc) ∧ sends t 10 [])) ∧
  (∀ (gid : Word) (dev : Nat) (s : State) (c : Coord), s.fabric.fencedSelf = false → ownGroup s gid = true → dev ≠ s.fabric.index →
    s.coord? gid = some c →
    let keeps := fun (i : Instr) (c' : Coord) => exec i s = .next { s with coords := tput s.coords gid.toNat c' }
    let moves := fun (i : Instr) (c' : Coord) (ps : List Nat) (kind : Nat) (xs : List Nat) =>
      ∃ t, exec i s = .next t ∧ sentOnly { s with coords := tput s.coords gid.toNat c' } t ∧ ∀ p ∈ ps, Out.tide p gid kind xs ∈ t.outbox
    let aborts := fun (i : Instr) (c' : Coord) (code named : Nat) (fc : Byte) => c.acks = [] → c'.told ≠ [] →
      moves i { c' with phase := .abort code named fc } c'.told 9 [code, fc.toNat, named]
    let ends := fun (i : Instr) (c' : Coord) =>
      (c'.commit = none → exec i s = .next { s with coords := tdel (tput s.coords gid.toNat c') gid.toNat }) ∧
      (∀ T W, c'.commit = some T → statusWrites { s with coords := tput s.coords gid.toNat c' } gid c' T = .ok W →
        exec i s = .next (({ (State.engineStore { s with coords := tput s.coords gid.toNat c' } T.core c.ctx W) with
          coords := tdel (tput s.coords gid.toNat c') gid.toNat }).applyComp T.det c.ctx T.comp))
    let heard := fun (c' : Coord) => ∀ p ∈ c.parts, (∃ x ∈ c'.closed, x.1 = p) ∨ ∃ x ∈ c'.nos, x.1 = p
    (∀ sent, (∀ x ∈ c.closed, x.1 ≠ dev) →
      let i := Instr.tideClosed gid dev sent
      let c1 : Coord := { c with closed := c.closed ++ [(dev, sent)] }
      (c.phase = .gather → c.commit = none ∨ ¬ heard c1 → keeps i c1) ∧
      (c.phase = .gather → c.commit.isSome = true → heard c1 →
        (c.nos = [] → c1.unlisted = none → moves i { c1 with phase := .count } c.parts 3 []) ∧
        (∀ d, c.nos = [] → c1.unlisted = some d → aborts i c1 3 d 0) ∧
        (∀ d code fc named rest, c.nos = (d, code, fc, named) :: rest → aborts i c1 code named fc)) ∧
      (∀ code d fc, c.phase = .abort code d fc →
        (dev ∈ c.told → keeps i c1) ∧ (dev ∉ c.told → moves i c1 [dev] 9 [code, fc.toNat, d]))) ∧
    (∀ (code fc : Byte) (named : Nat), (∀ x ∈ c.nos, x.1 ≠ dev) →
      let i := Instr.tideNo gid dev code fc named
      let c1 : Coord := { c with nos := c.nos ++ [(dev, code.toNat, fc, named)] }
      (c.phase = .count ∨ (c.phase = .gather ∧ c.commit = none) → aborts i c1 code.toNat named fc) ∧
      (c.phase = .gather → c.commit.isSome = true →
        (¬ heard c1 → keeps i c1) ∧
        (∀ d k f m rest, heard c1 → c1.nos = (d, k, f, m) :: rest → aborts i c1 k m f))) ∧
    (∀ n, c.phase = .count → dev ∈ c.parts → (∀ x ∈ c.inbound, x.1 ≠ dev) →
      let i := Instr.tideInboundCount gid dev n
      let c1 : Coord := { c with inbound := c.inbound ++ [(dev, n)] }
      let all := ∀ p ∈ c.parts, ∃ x ∈ c1.inbound, x.1 = p
      (¬ all → keeps i c1) ∧
      (all → (∀ x ∈ c1.inbound, x.2 = c.sentTo x.1) → moves i { c1 with phase := .lock } c.parts 5 c.parts) ∧
      (∀ p, all → (c.parts.find? fun p => c1.inbound.any fun x => x.1 = p && x.2 ≠ c.sentTo p) = some p → aborts i c1 3 p 0)) ∧
    (c.phase = .lock → dev ∈ c.parts → dev ∉ c.lockedBy →
      let i := Instr.tideLocked gid ⟨dev, .locked⟩
      let c1 : Coord := { c with lockedBy := c.lockedBy ++ [dev] }
      ((∃ p ∈ c.parts, p ∉ c1.lockedBy) → keeps i c1) ∧
      ((∀ p ∈ c.parts, p ∈ c1.lockedBy) →
        let o := Config.freeNat s.free % s.sys.period
        moves i { c1 with phase := .apply, stamp := s.sys.hsf, since := o } c.parts 7 [s.sys.hsf.toNat, o])) ∧
    (c.phase = .apply → dev ∈ c.parts → dev ∉ c.applied → c.finished = false → c.paused = none →
      let c1 : Coord := { c with applied := c.applied ++ [dev] }
      (c1.finished = false → keeps (.tideApplied gid dev) c1) ∧ (c1.finished = true → ends (.tideApplied gid dev) c1)) ∧
    (∀ code named fc, c.phase = .abort code named fc → dev ∈ c.told → dev ∉ c.acks → c.finished = false → c.paused = none →
      let c1 : Coord := { c with acks := c.acks ++ [dev] }
      (c1.finished = false → keeps (.tideAbortAck gid dev) c1) ∧ (c1.finished = true → ends (.tideAbortAck gid dev) c1)))

/-! ### Collectives (R288 to R292) -/

/-- R288 to R292: `credmx` and `cover` whose record, members, words and lock entry pass every check start the collective on
this member; member 0 makes a block, each further one that has found its record equal to member 0's combines it with its own and sends
it on, the last writes what is due and sends the result to those that write it; a member whose record differs from member 0's aborts
every member with CODE 1, one whose record is equal tells every member so, and only when all have is a collective over without an
abort; an abort of another member is kept; at the end come the status word, the pin and the range lock.
(How a member learns member 0's record and which member a CODE 1 abort names are the model's readings, log entry 26.) -/
def Obligations.CollectivesRun : Prop :=
  (∀ (cover : Bool) (g : Guard) (a b : BitVec 8) (r : RecRef) (s : State) (e : Env) (bs : List Byte) (ms : List Nat) (self : Nat),
    Tidy s → s.env? g = some e → e.active ≠ 0 → settled s e = true → readRec s e r = .ok bs → collFault cover bs = none →
    let at_ := fun (o n : Nat) => leAt bs o n
    let cid := at_ 0x20 4
    let sr := s.readDone e (recVa e r) 64
    compFault sr e.det (e.w.sreg b.toNat) = none → (e.w.sreg a.toNat).toNat % 8 = 0 →
    readMembers sr e (BitVec.ofNat 64 (at_ 0x10 8)) (at_ 0x1C 2) = .ok ms → hasRepeat ms = false →
    ms.findIdx? (· = s.fabric.index) = some self → tget? s.colls cid = none →
    e.det = false ∨ e.w.hold = true ∨ sharedHit e.H (at_ 8 8) (collBytes cover (at_ 0x18 4)) = false →
    (s.cluster e.cluster).locks.length < 64 →
    ∃ t o, exec (if cover then .cover g a b r else .credmx g a b r) s = .next t ∧ passed e t ∧ regsKept e.w (t.wave e.id) ∧
      t.mem = s.mem ∧ tget? t.colls cid = some o ∧ o.cover = cover ∧ o.ctx = e.ctx ∧ o.det = e.det ∧ o.cid.toNat = cid ∧
      o.src.toNat = at_ 0 8 ∧ o.dst.toNat = at_ 8 8 ∧ o.count = at_ 0x18 4 ∧ o.root = bitOf (at_ 0x1E 2) 0 ∧ o.members = ms ∧
      o.self = self ∧ o.agreed = ms.take 1 ∧ o.core = e.wg.core ∧ o.status = e.w.sreg a.toNat ∧ o.comp = e.w.sreg b.toNat ∧ o.sent = [] ∧ o.written = [] ∧
      o.abort = none ∧ (t.cluster e.cluster).locks = (s.cluster e.cluster).locks ++ [⟨o.lock, e.wg.gang,
        localSpan sr e o.src (collBytes cover o.count), localSpan sr e o.dst (collBytes cover o.count)⟩]) ∧
  (∀ (id : Nat) (s : State) (o : CollOp), s.fabric.fencedSelf = false → tget? s.colls id = some o → o.cid.toNat = id → o.abort = none → o.paused = none →
    (∀ block src (b : Option CollBlock) hop, block < o.blocks → block ∉ o.sent → collRead s o block = .ok src →
      (b = none ∧ hop = .start ∧ o.self = 0) ∨ (∃ x, b = some x ∧ hop = .chain x ∧ o.self ≠ 0 ∧ o.matched = true) →
      let q := combine o src b
      let o1 : CollOp := { o with sent := insertNat block o.sent }
      let next := o.members.getD (o.self + 1) 0
      (o.self < o.last → ∃ t, exec (.collectiveHop id block hop) s = .next t ∧ Out.block next id block q ∈ t.outbox ∧
        sentOnly { s with colls := tput s.colls id o1 } t) ∧
      (∀ cells, o.last ≤ o.self → (o.due = true → collCells s o block (blockWords q) = .ok cells) →
        ∃ t, exec (.collectiveHop id block hop) s = .next t ∧ t.mem = (if o.due then (s.writeCells cells).mem else s.mem) ∧
          tget? t.colls id = some { o1 with written := insertNat block o.written } ∧
          ∀ d ∈ o.members, d ≠ s.fabric.index → (if o.root then d = o.members.getD 0 0 ∧ o.self ≠ 0 else True) →
            Out.final d id block q ∈ t.outbox)) ∧
    (∀ block b cells, block < o.blocks → o.self ≠ o.last → block ∈ o.sent → block ∉ o.written → o.due = true →
      collCells s o block (blockWords b) = .ok cells →
      exec (.collectiveHop id block (.final b)) s = .next { (s.engineStore o.core o.ctx { cells }) with
        colls := tput s.colls id { o with written := insertNat block o.written } }) ∧
    (∀ block code dev fc, code = 1 ∨ ((code = 2 ∨ code = 3) ∧ dev ∈ o.members) →
      exec (.collectiveHop id block (.abort code dev fc)) s = .next { s with
        colls := tput s.colls id { o with abort := some (code, dev, fc) } }) ∧
    (∀ block cover count root members, ∃ t, exec (.collectiveHop id block (.record cover count root members)) s = .next t ∧
      t.mem = s.mem ∧
      let same := cover = o.cover ∧ count = o.count ∧ root = o.root ∧ members = o.members
      (same → o.matched = true → t = s) ∧
      (same → o.matched = false →
        sentOnly { s with colls := tput s.colls id { o with agreed := o.agreed ++ [s.fabric.index] } } t ∧
        ∀ d ∈ o.members, d ≠ s.fabric.index → Out.collAgreed d id ∈ t.outbox) ∧
      (¬ same →
        t.colls = tput s.colls id { o with abort := some (1, s.fabric.index, 0) } ∧
        ∀ d ∈ o.members ++ members, d ≠ s.fabric.index → Out.collAbort d id 1 s.fabric.index 0 ∈ t.outbox)) ∧
    (∀ block dev, dev ∈ o.members → dev ≠ s.fabric.index → dev ∉ o.agreed → exec (.collectiveHop id block (.agreed dev)) s =
      .next { s with colls := tput s.colls id { o with agreed := o.agreed ++ [dev] } })) ∧
  (∀ (id : Nat) (s : State) (o : CollOp) (W : EngineWrites), tget? s.colls id = some o → o.paused = none → o.over = true →
    wordWrites s o.ctx (opLaunch s o.queue o.seq) o.status o.word = .ok W →
    let s1 := s.engineStore o.core o.ctx W
    ∃ t, exec (.collectiveComplete id) s = .next t ∧ t.colls = tdel s.colls id ∧
      (compPv o.comp = false → t.mem = s1.mem) ∧
      (Tidy s → compPv o.comp = true → ∀ q, pinPlace s1 o.det o.ctx (compPin o.comp) = .ok q → pinValue t q = pinValue s1 q + 1) ∧
      (t.cluster (o.core / 16)).locks = (s.cluster (o.core / 16)).locks.filter (fun k => k.op ≠ o.lock))

/-! ### The host's commands (R329 to R343, R356, R357, R377 to R381, R388 to R392) -/

/-- R329, R331, R335, R337, R339, R343, R356, R357, R362, R363, R365: the commands on contexts, queues, slots, translations,
faults and traps, where nothing refuses them.
(The statuses and indexes of log entry 44, and the new places of spill records at `SPILL_SET`, log entry 32, are the model's readings.) -/
def Obligations.ContextCommandsRun : Prop :=
  ∀ (tag : Word) (s : State),
    let runs := fun (i : Instr) (u : State) (results : List Byte) =>
      (∀ op, commandHead i = some (op, tag) → commandBar s op (commandStage i) = none) → answers i s u results
    (∀ p : Word, p.toNat ∈ [1, 2, 4, 8, 16] → s.ctxs = [] → runs (.partSet tag p) { s with sys := { s.sys with parts := p.toNat } } []) ∧
    (∀ (va : DWord) (k : Nat) (c : Context), (List.range 4096).find? (fun k => (tget? s.ctxs k).isNone) = some k →
      badDescriptor s (hostBytes s va 128) = false → stagingHeld s + leAt (hostBytes s va 128) 0x38 4 ≤ 2 ^ 27 →
      completeContext s k (hostBytes s va 128) = some c → runs (.ctxCreate tag va) { s with ctxs := tput s.ctxs k c } (leBytes 4 k)) ∧
    (∀ (ctx : Word) (c : Context), tget? s.ctxs ctx.toNat = some c →
      ((∀ x ∈ s.launches, x.2.ctx = ctx.toNat → x.2.state = .complete) → ∃ u, runs (.ctxDestroy tag ctx) u [] ∧
        u.ctxs = tdel s.ctxs ctx.toNat ∧ (∀ x ∈ u.queues, x.2.ctx ≠ ctx.toNat) ∧ (∀ x ∈ u.bins, x.1 / 2 ^ 64 ≠ ctx.toNat) ∧
        u.mem = s.mem ∧ u.waves = s.waves) ∧
      (∀ xs, goodExports s ctx.toNat c = some xs →
        runs (.exportSync tag ctx) { s with ctxs := tput s.ctxs ctx.toNat { c with table := xs } } []) ∧
      (∀ va size : DWord, va.toNat % 65536 = 0 → size.toNat % 65536 = 0 → 48 * c.spills.length ≤ size.toNat → ∃ u,
        runs (.spillSet tag ctx va size) u [] ∧ u.waves = s.waves ∧
        u.mem = (c.spills.zipIdx.foldl (fun s' x =>
          (s'.writeVa ctx.toNat (va.toNat + 48 * x.2) (spillBytes x.1.2 x.1.1)).getD s') s).mem ∧
        u.ctxs = tput s.ctxs ctx.toNat { c with
          spill := va, spillsize := size.toNat, spills := c.spills.zipIdx.map fun x => (x.1.1, { x.1.2 with place := x.2 }) }) ∧
      (∀ va len : DWord, va.toNat % 65536 = 0 → len.toNat % 65536 = 0 → commandBar s 0x0050 3 = none →
        exec (.tlbInv tag ctx va len) s = .next { s with sys := { s.sys with
          invs := s.sys.invs ++ [(tag, ctx.toNat, va.toNat, len.toNat)] } })) ∧
    (∀ ctx va len, s.sys.invs.find? (fun x => x.1 = tag) = some (tag, ctx, va, len) → rangeBusy s ctx va len = false →
      ∃ u : State, exec (.tlbInvReply tag) s = .next (u.hostReply 0x0050 tag 0 []) ∧ u.mem = s.mem ∧ u.waves = s.waves ∧
        u.sys.invs = s.sys.invs.filter (fun x => x.1 ≠ tag) ∧
        ∀ core, ∀ x ∈ (u.core core).tlb, x.1 / 2 ^ 48 = ctx → len ≠ 0 ∧
          (va + len ≤ x.1 % 2 ^ 48 * 65536 ∨ x.1 % 2 ^ 48 * 65536 + 65536 ≤ va)) ∧
    (∀ (queue : Word) (va : DWord), 0 < queue.toNat → queue.toNat ≤ 8191 → tget? s.queues queue.toNat = none →
      badQueue s (hostBytes s va 64) = false → runs (.qCreate tag queue va)
        (State.setNat { s with queues := tput s.queues queue.toNat (queueFrom (hostBytes s va 64)) } (barKey (0x120000 + 8 * queue.toNat)) 4 0)
        []) ∧
    (∀ (queue : Word) (q : Queue), tget? s.queues queue.toNat = some q →
      (inFlight s queue.toNat = 0 → ∃ u, runs (.qDestroy tag queue) u [] ∧ (∀ x ∈ u.queues, x.1 ≠ queue.toNat) ∧ u.mem = s.mem ∧
        u.waves = s.waves ∧ u.ctxs = s.ctxs) ∧
      (0 < queue.toNat → queue.toNat ≤ 8191 → runs (.qQuery tag queue) s
        (leBytes 8 (queueWord s queue.toNat) ++ leBytes 4 q.head.toNat ++ leBytes 4 q.tail.toNat)) ∧
      runs (.qSuspend tag queue) { s with queues := tput s.queues queue.toNat { q with susp := true } } [] ∧
      runs (.qResume tag queue) { s with queues := tput s.queues queue.toNat { q with susp := false, err := false } } []) ∧
    (∀ (r : List Byte) (q : Queue) (i : Nat), tget? s.queues (leAt r 0 2) = some q → leAt r 2 1 ≤ 1 → leAt r 3 1 = 0 → leAt r 4 4 ≠ 0 →
      leAt r 4 4 ≤ 16384 → (bindOf r).clusters ≠ 0 → (bindOf r).clusters.toNat < 2 ^ partClusters s → (bindOf r).cores ≠ 0 →
      leAt r 0x12 14 = 0 → (List.range 512).find? (fun i => (tget? s.binds (512 * queuePart s q + i)).isNone) = some i →
      let slot := 512 * queuePart s q + i
      runs (.bind tag r) { s with binds := tput s.binds slot (bindOf r) } (leBytes 4 slot)) ∧
    (∀ slot : Word, (tget? s.binds slot.toNat).isSome = true →
      runs (.unbind tag slot) { s with
        binds := tdel s.binds slot.toNat
        wgs := tmap s.wgs fun _ W => if W.bind = some slot.toNat then { W with bind := none } else W } []) ∧
    (∀ (ctx token : Word) (c : Context) (x : Token) (wave : Nat) (w : Wave), tget? s.ctxs ctx.toNat = some c →
      tget? c.tokens token.toNat = some x → tget? s.waves wave = some w → w.tidy →
      (∀ lanes code pc, x.owner = .lanes wave lanes code pc false [] → w.status = .stopped → w.tokens = [token.toNat] → w.pairs = [] →
        w.tris = [] → ∃ u0 u1 u2, u0.mem = s.mem ∧ u1.mem = s.mem ∧ u2.mem = s.mem ∧
          runs (.faultReply tag ctx token 0) u0 [] ∧ u0.waves = tput s.waves wave { w with status := .ready, tokens := [], redo := true } ∧
          (code ≠ 0x72 → runs (.faultReply tag ctx token 1) u1 [] ∧ (u1.wave wave).status = .ready ∧ ∀ l, l < 32 →
            (u1.wave wave).pc l = if lanes.getLsbD l && !(w.pc l == exitedPc) then nextPc (w.pc l) else w.pc l) ∧
          runs (.faultReply tag ctx token 2) u2 [] ∧ ∀ W, tget? s.wgs (wgOf wave) = some W →
            tget? u2.wgs (wgOf wave) = some { W with ended := true, leaving := none, saveFail := [] }) ∧
      (x.owner = .trap wave → ∀ value : DWord, ∃ u, runs (.trapReply tag ctx token value 0) u [] ∧ u.mem = s.mem ∧
        (u.wave wave).status = .ready ∧ (u.wave wave).sreg 0 = value ∧ (∀ n, n ≠ 0 → (u.wave wave).sreg n = w.sreg n) ∧
        (u.wave wave).v = w.v ∧ ∀ l, l < 32 → (u.wave wave).pc l = if w.issuingMask.getLsbD l then nextPc w.issuePc else w.pc l))

/-- R75, R329, R331, R335, R337, R339, R343, R352, R356, R357, R359, R362, R365: the delivery of a record, the events of
accumulators and reclaimed ranges, and the commands on contexts, queues, slots, translations, faults and traps complete, each
with the next state that its rule gives, wherever its own conditions hold.
(The readings of log entries 32, 43 and 44 are the model's.) -/
def Obligations.RecordsAndCommandsComplete : Prop :=
  (∀ (ctx : Nat) (base : DWord) (s : State) (c : Context), tget? s.ctxs ctx = some c →
    (∀ (trap : Bool) (r : Ring) (x : RingRec) (rest : List RingRec) (head tail : Word) (s1 s2 : State),
      (if trap then c.trapring else c.faultring) = some r → (if trap then c.traps else c.faults) = x :: rest →
      ringCounts s ctx r = .ok (head, tail) → (tail - head).toNat < r.entries →
      s.writeVa ctx (r.base.toNat + 64 * (tail.toNat % r.entries)) x.bytes = some s1 →
      s1.writeVa ctx (r.ctl.toNat + 0x14) (leBytes 4 (tail + 1).toNat) = some s2 →
      ∃ t, exec (.ringRecordDelivery ctx trap) s = .next t ∧ .interrupt r.vector ∈ t.outbox) ∧
    (∀ (word : Nat) (a : Accum), tget? c.accums word = some a → spillFull c = false ∨ (tget? c.spills word).isSome = true →
      let r : Accum := { (match tget? c.spills word with | some b => a.merge b | none => a) with place := spillPlace c word }
      ∀ s', s.writeVa ctx (c.spill.toNat + 48 * r.place) (spillBytes r word) = some s' →
        ∃ t, exec (.accumulatorEvict ctx word) s = .next t ∧ t.mem = s'.mem ∧
          tget? t.ctxs ctx = some { c with accums := tdel c.accums word, spills := tput c.spills word r }) ∧
    (∀ (q : Nat) (Q : Queue) (n : Nat) (g : DWord), (s.queues.filter fun x => x.2.ctx = ctx) = [(q, Q)] →
      nextReclaim c Q = some (base.toNat, n, g) → Config.freeMemory s.free < c.watermark →
      ∃ (t : State) (c' : Context) (x : RangeRec), exec (.memoryReclaim ctx base) s = .next t ∧ tget? t.ctxs ctx = some c' ∧ tget? c'.ranges base.toNat = some x ∧
        x.len = n ∧ (x.state = .dropped ∨ x.state = .outward)) ∧
    (∀ r : RangeRec, tget? c.ranges base.toNat = some r →
      (r.state = .outward → exec (.offloadCopyComplete ctx base) s =
        .next { s with ctxs := tput s.ctxs ctx { c with ranges := tput c.ranges base.toNat { r with state := .offloaded } } }) ∧
      (r.state = .returning → r.graph = 0 ∨ graphRuns s ctx r.graph = false → c.stalled = [] → exec (.rangeReturnComplete ctx base) s =
        .next { s with ctxs := tput s.ctxs ctx { c with ranges := tdel c.ranges base.toNat } }))) ∧
  (∀ (tag : Word) (s : State),
    (∀ p : Word, commandBar s 0x0010 2 = none → p.toNat ∈ [1, 2, 4, 8, 16] → s.ctxs = [] → exec (.partSet tag p) s =
      .next (State.hostReply { s with sys := { s.sys with parts := p.toNat } } 0x0010 tag 0 [])) ∧
    (∀ (va : DWord) (k : Nat) (c : Context), commandBar s 0x0020 3 = none →
      (List.range 4096).find? (fun k => (tget? s.ctxs k).isNone) = some k → badDescriptor s (hostBytes s va 128) = false →
      stagingHeld s + leAt (hostBytes s va 128) 0x38 4 ≤ 2 ^ 27 → completeContext s k (hostBytes s va 128) = some c →
      exec (.ctxCreate tag va) s = .next (State.hostReply { s with ctxs := tput s.ctxs k c } 0x0020 tag 0 (leBytes 4 k))) ∧
    (∀ (ctx : Word) (c : Context), tget? s.ctxs ctx.toNat = some c →
      (commandBar s 0x0021 3 = none → (∀ x ∈ s.launches, x.2.ctx = ctx.toNat → x.2.state = .complete) →
        ∃ u : State, exec (.ctxDestroy tag ctx) s = .next (u.hostReply 0x0021 tag 0 []) ∧ u.ctxs = tdel s.ctxs ctx.toNat) ∧
      (∀ xs, commandBar s 0x0022 3 = none → goodExports s ctx.toNat c = some xs → exec (.exportSync tag ctx) s =
        .next (State.hostReply { s with ctxs := tput s.ctxs ctx.toNat { c with table := xs } } 0x0022 tag 0 [])) ∧
      (∀ va size : DWord, commandBar s 0x0023 3 = none → va.toNat % 65536 = 0 → size.toNat % 65536 = 0 →
        48 * c.spills.length ≤ size.toNat → ∃ (u : State) (c' : Context), exec (.spillSet tag ctx va size) s = .next (u.hostReply 0x0023 tag 0 []) ∧
          tget? u.ctxs ctx.toNat = some c' ∧ c'.spill = va ∧ c'.spillsize = size.toNat) ∧
      (∀ va len : DWord, commandBar s 0x0050 3 = none → va.toNat % 65536 = 0 → len.toNat % 65536 = 0 →
        exec (.tlbInv tag ctx va len) s =
          .next { s with sys := { s.sys with invs := s.sys.invs ++ [(tag, ctx.toNat, va.toNat, len.toNat)] } })) ∧
    (∀ ctx va len, s.sys.invs.find? (fun x => x.1 = tag) = some (tag, ctx, va, len) → rangeBusy s ctx va len = false →
      ∃ u : State, exec (.tlbInvReply tag) s = .next (u.hostReply 0x0050 tag 0 []) ∧
        u.sys.invs = s.sys.invs.filter fun x => x.1 ≠ tag) ∧
    (∀ (queue : Word) (va : DWord), commandBar s 0x0030 3 = none → 0 < queue.toNat → queue.toNat ≤ 8191 →
      tget? s.queues queue.toNat = none → badQueue s (hostBytes s va 64) = false →
      ∃ u : State, exec (.qCreate tag queue va) s = .next (u.hostReply 0x0030 tag 0 []) ∧
        u.queues = tput s.queues queue.toNat (queueFrom (hostBytes s va 64))) ∧
    (∀ (queue : Word) (q : Queue), tget? s.queues queue.toNat = some q →
      (commandBar s 0x0031 3 = none → inFlight s queue.toNat = 0 → ∃ u : State, exec (.qDestroy tag queue) s = .next (u.hostReply 0x0031 tag 0 []) ∧
        ∀ x ∈ u.queues, x.1 ≠ queue.toNat) ∧
      (commandBar s 0x0032 3 = none → 0 < queue.toNat → queue.toNat ≤ 8191 → exec (.qQuery tag queue) s =
        .next (s.hostReply 0x0032 tag 0 (leBytes 8 (queueWord s queue.toNat) ++ leBytes 4 q.head.toNat ++ leBytes 4 q.tail.toNat))) ∧
      (commandBar s 0x0033 3 = none → exec (.qSuspend tag queue) s =
        .next (State.hostReply { s with queues := tput s.queues queue.toNat { q with susp := true } } 0x0033 tag 0 [])) ∧
      (commandBar s 0x0034 3 = none → exec (.qResume tag queue) s =
        .next (State.hostReply { s with queues := tput s.queues queue.toNat { q with susp := false, err := false } } 0x0034 tag 0 []))) ∧
    (∀ (r : List Byte) (q : Queue) (i : Nat), commandBar s 0x0040 3 = none → tget? s.queues (leAt r 0 2) = some q → leAt r 2 1 ≤ 1 →
      leAt r 3 1 = 0 → leAt r 4 4 ≠ 0 → leAt r 4 4 ≤ 16384 → (bindOf r).clusters ≠ 0 → (bindOf r).clusters.toNat < 2 ^ partClusters s →
      (bindOf r).cores ≠ 0 → leAt r 0x12 14 = 0 →
      (List.range 512).find? (fun i => (tget? s.binds (512 * queuePart s q + i)).isNone) = some i →
      let slot := 512 * queuePart s q + i
      exec (.bind tag r) s = .next (State.hostReply { s with binds := tput s.binds slot (bindOf r) } 0x0040 tag 0 (leBytes 4 slot))) ∧
    (∀ slot : Word, commandBar s 0x0041 3 = none → (tget? s.binds slot.toNat).isSome = true →
      ∃ u : State, exec (.unbind tag slot) s = .next (u.hostReply 0x0041 tag 0 []) ∧ u.binds = tdel s.binds slot.toNat) ∧
    (∀ (ctx token : Word) (c : Context) (x : Token) (wave : Nat) (w : Wave), tget? s.ctxs ctx.toNat = some c →
      tget? c.tokens token.toNat = some x → tget? s.waves wave = some w →
      (∀ lanes code pc, commandBar s 0x0051 3 = none → x.owner = .lanes wave lanes code pc false [] → w.status = .stopped →
        w.tokens = [token.toNat] → w.pairs = [] → w.tris = [] →
        ∃ u : State, exec (.faultReply tag ctx token 0) s = .next (u.hostReply 0x0051 tag 0 []) ∧ (u.wave wave).status = .ready) ∧
      (∀ value : DWord, commandBar s 0x0052 3 = none → x.owner = .trap wave →
        ∃ u : State, exec (.trapReply tag ctx token value 0) s = .next (u.hostReply 0x0052 tag 0 []) ∧ (u.wave wave).status = .ready)))

/-- R336, R337, R338: where every reply goes; and before VERSION, outside the agreed version or below its stage a command
changes nothing but answers 2, 1 or 5. R337, R377, R378, R379 to R381, R388 to R392: the commands on the device itself, its
fabric and its heads, where nothing refuses them; and an image that is short or does not verify, which is answered and not kept.
(The version 1.0, the reply's place and the statuses of log entries 6, 30 and 44, the fields of an image's header, log entry 5, a head
on the safe frame after `DISP_CFG`, log entry 27, the 64-byte entries, the count of corrected errors and the log kept after a read, log
entry 39, and the layout of the attested configuration, log entry 46, are the model's readings and choices.) -/
def Obligations.DeviceCommandsRun : Prop :=
  ((∀ (s : State) (op status : Nat) (tag : Word) (results : List Byte), Tidy s → results.length ≤ 56 →
    let t := s.hostReply op tag status results
    let place := barKey (0x1000 + 64 * (tag.toNat % 64))
    memRead t.mem place 64 = leBytes 2 op ++ leBytes 2 status ++ leBytes 4 tag.toNat ++ results ++ leBytes (56 - results.length) 0 ∧
    (∀ a, a < place ∨ place + 64 ≤ a → memGet t.mem a = memGet s.mem a) ∧ t.outbox = s.outbox ++ [.replyInterrupt] ∧
    t.ctxs = s.ctxs ∧ t.queues = s.queues ∧ t.waves = s.waves) ∧
  (∀ (i : Instr) (op : Nat) (tag : Word) (s : State), commandHead i = some (op, tag) → 2 < op →
    (s.sys.agreed = none → exec i s = .next (s.hostReply op tag 2 [])) ∧
    (∀ v, s.sys.agreed = some v → v.toNat < 0x10000 → exec i s = .next (s.hostReply op tag 1 [])) ∧
    (∀ v, s.sys.agreed = some v → 0x10000 ≤ v.toNat → s.sys.stage < commandStage i → exec i s = .next (s.hostReply op tag 5 [])))) ∧
  (∀ (tag : Word) (s : State),
    let bar := fun (i : Instr) => ∀ op, commandHead i = some (op, tag) → commandBar s op (commandStage i) = none
    let runs := fun (i : Instr) (u : State) (results : List Byte) => bar i → answers i s u results
    (∀ major minor : BitVec 16,
      let v : Word := if (major ++ minor : Word).toNat < Config.firmwareVersion.toNat then major ++ minor else Config.firmwareVersion
      answers (.version tag major minor) s { s with sys := { s.sys with agreed := some v } }
        (leBytes 4 Config.firmwareVersion.toNat ++ leBytes 4 v.toNat)) ∧
    answers (.stage tag) s s (leBytes 4 s.sys.stage) ∧
    runs (.stageDiag tag) s (leBytes 4 s.sys.hold) ∧
    (∀ addr len : DWord, s.sys.stage = 0 → let image := hostBytes s addr len.toNat
      (1024 ≤ len.toNat → imageGood image = true → runs (.fwLoad tag addr len)
        { s with sys := { s.sys with image := some image, hold := if s.sys.hold = 1 then 0 else s.sys.hold } } []) ∧
      (len.toNat < 1024 ∨ imageGood image = false → bar (.fwLoad tag addr len) → exec (.fwLoad tag addr len) s =
        .next (State.hostReply { s with sys := { s.sys with hold := 1 } } 0x0003 tag 3 []))) ∧
    (∀ (q : Byte) (index : BitVec 16) (fid seed : Word) (th : BitVec 16), s.sys.stage = 1 → q = 0 ∨ q.toNat ∈ fabricOrders →
      index.toNat < fabricN q.toNat → 1 ≤ th.toNat → th.toNat ≤ 512 → ∃ u, runs (.fabricCfg tag q index fid seed th) u [] ∧
        u.mem = s.mem ∧ u.fabric.configured = true ∧ u.fabric.q = q.toNat ∧ u.fabric.index = index.toNat ∧ u.fabric.fid = fid ∧
        u.fabric.seed = seed ∧ u.fabric.thresh = th.toNat ∧ u.fabric.members = [] ∧ ∀ k, k < 32 → (u.fabric.port k).up = false ∧
          (u.fabric.port k).reason = if (neighbours q.toNat index.toNat).length ≤ k then 6 else 0) ∧
    (∀ port : Word, port.toNat ≤ 31 → runs (.portQuery tag port) s (leBytes 8 (s.fabric.port port.toNat).word)) ∧
    (∀ dev : Word, namesDevice s dev.toNat = true → dev.toNat ≠ s.fabric.index → s.fabric.member dev.toNat ≠ .fenced →
      ∃ u, runs (.devFence tag dev) u [] ∧ u.fabric.member dev.toNat = .fenced ∧
        (s.fabric.fencedSelf = false → Out.lossNotice dev.toNat ∈ u.outbox) ∧
        u.fabric.fencedSelf = s.fabric.fencedSelf ∧ ((∀ x ∈ s.cores, x.2.flying = [] ∧ x.2.ops = []) → u.waves = s.waves) ∧ ∀ k, s.fabric.portTo dev.toNat = some k →
          (u.fabric.port k).up = false ∧ (u.fabric.port k).reason = 5) ∧
    (∀ dev : Word, s.fabric.member dev.toNat = .joining → runs (.devAdmit tag dev)
      { s with
        fabric := { s.fabric with members := tput s.fabric.members dev.toNat .member }
        outbox := if s.fabric.fencedSelf then s.outbox else s.outbox ++ [.admission dev.toNat] } []) ∧
    (∀ (head : Word) (va : DWord), head.toNat ≤ 3 →
      let h : Head := { cfg := true, data := hostBytes s va 64, rate := (s.head head.toNat).rate }
      h.bad s = false → runs (.dispCfg tag head va) { s with heads := tput s.heads head.toNat h } []) ∧
    (∀ nonce report : DWord, nonce.toNat % 64 = 0 → report.toNat % 64 = 0 → runs (.attest tag nonce report)
      (s.writeAt (hostKey report.toNat) (reportBody s nonce ++ (Config.identitySign (reportBody s nonce) ++ leBytes 512 0).take 512))
      (leBytes 4 0x500)) ∧
    (∀ watts : Word, 900 ≤ watts.toNat → watts.toNat ≤ 1800 →
      runs (.powerCap tag watts) { s with sys := { s.sys with cap := watts.toNat } } []) ∧
    (∀ va : DWord, va.toNat % 4096 = 0 →
      let corrected := s.sys.corrected + Config.freeNat s.free
      let es := (leBytes 8 corrected ++ leBytes 56 0) :: s.sys.errors.drop (s.sys.errors.length - 63)
      runs (.errLog tag va) (State.writeAt { s with sys := { s.sys with corrected := corrected }, free := s.free + 1 }
        (hostKey va.toNat) es.flatten) (leBytes 4 es.length)))

/-! ### The fabric (R103 to R105, R358, R373 to R380) -/

/-- R103 to R105, R358: a request of another device is kept while one before it on its line is missing; one that its export
permits is performed once, in its place on its line, counted and answered, and one that it does not is answered with its fault;
retransmitted, it is answered as before and a store is not performed again; a marker is answered when what it counts has been
applied, and the answer to a marker of this device ends what it covers. R108, R334: the host writes its memory, the device's and the command ring.
(That the line of a request is its first byte's, and that a refused request ends its place on the line, are the model's, log entry 61;
how a host write names the command ring is log entry 30.) -/
def Obligations.RequestsApply : Prop :=
  (∀ (src : ReqSource) (n : ReqNo) (req : RemoteReq) (s : State), deviceHeard s src.dev = true → (∀ g w o b, req ≠ .tide g w o b) →
    let z := reqShape req
    let i := Instr.remoteRequestApply src n req
    let s1 := s.firstRequest src.dev src.ctx
    lineHigh s src z.1 ≤ n.no →
    (lineHigh s src z.1 < n.prev → exec i s = .next (s1.holdReq src n.no n.prev req)) ∧
    (n.prev ≤ lineHigh s src z.1 →
      let ends := fun (v : DWord) (code : Byte) (mem : Memory) => ∃ t, exec i s = .next t ∧ t.mem = mem ∧ t.waves = s.waves ∧
        Out.reply src n.no v code ∈ t.outbox ∧ lineHigh t src z.1 = n.no + 1
      (∀ f, translateExport s1 src.dev src.ctx z.1 z.2.1 z.2.2.need z.2.2.atomic = .error f → f ≠ 0 → ends 0 f s.mem) ∧
      (∀ k p, translateExport s1 src.dev src.ctx z.1 z.2.1 z.2.2.need z.2.2.atomic = .ok (k, p) →
        (pageRefuses z.2.2 p.host p.repl = true → ends 0 0x11 s.mem) ∧
        (pageRefuses z.2.2 p.host p.repl = false → tideLocked s1 p.key z.2.1 = false → badLine s1 p.key = false →
          let m := fun ty => s.natAt p.key (atomBytes ty)
          let combined := fun op ty (v w1 : DWord) => match atomNew op ty (m ty) v.toNat w1.toNat with
            | some x => memWrite s.mem p.key (leBytes (atomBytes ty) x)
            | none => s.mem
          (∀ off size, req = .load off size → ends (BitVec.ofNat 64 (s.natAt p.key size)) 0 s.mem) ∧
          (∀ off bs, req = .store off bs → ends 0 0 (memWrite s.mem p.key bs)) ∧
          (∀ op ty off v w1, req = .atom op ty off v w1 → ends (BitVec.ofNat 64 (m ty)) 0 (combined op ty v w1)) ∧
          (∀ op ty off v, req = .red op ty off v → ends 0 0 (combined op ty v 0)) ∧
          ∀ t, exec i s = .next t → tgetD t.fabric.counts (sourceKey src) 0 =
            tgetD s.fabric.counts (sourceKey src) 0 + (if z.2.2 = .load then 0 else 1))))) ∧
  (∀ (src : ReqSource) (n : ReqNo) (s : State), deviceHeard s src.dev = true →
    (∀ gid wave off bs, exec (.remoteRequestApply src n (.tide gid wave off bs)) s =
      exec (.tideWriteStage gid src n wave off bs) (s.firstRequest src.dev src.ctx)) ∧
    (∀ x op ty off v w1, replayOf s src n.no = some x → ∃ t, exec (.requestRetransmit src n (.atom op ty off v w1)) s = .next t ∧
      Out.reply src n.no x.reply x.code ∈ t.outbox ∧ sentOnly s t) ∧
    (∀ off bs, n.no < lineHigh s src off → ∃ t, exec (.requestRetransmit src n (.store off bs)) s = .next t ∧
      Out.reply src n.no 0 0 ∈ t.outbox ∧ sentOnly s t) ∧
    (∀ off size k p, n.no < lineHigh s src off → translateExport s src.dev src.ctx off size .read false = .ok (k, p) →
      tideLocked s p.key size = false → badLine s p.key = false → ∃ t, exec (.requestRetransmit src n (.load off size)) s = .next t ∧
        Out.reply src n.no (BitVec.ofNat 64 (s.natAt p.key size)) 0 ∈ t.outbox ∧ sentOnly s t) ∧
    (∀ req, replayOf s src n.no = none → lineHigh s src (reqShape req).1 ≤ n.no →
      exec (.requestRetransmit src n req) s = exec (.remoteRequestApply src n req) s) ∧
    (∀ count, count ≤ tgetD s.fabric.counts (sourceKey src) 0 → ∃ t, exec (.markerAnswer (.asked src) count) s = .next t ∧
      Out.markerAnswer src count ∈ t.outbox ∧ sentOnly s t) ∧
    (∀ core count, tgetD (s.core core).answered src.dev 0 < count → count ≤ tgetD (s.core core).marks src.dev 0 →
      ∃ t, exec (.markerAnswer (.answered core src.dev) count) s = .next t ∧ tgetD (t.core core).answered src.dev 0 = count ∧
        t.mem = s.mem ∧ ∀ x, x ∈ (t.core core).flying ↔ x ∈ (s.core core).flying ∧
          ¬(remoteDev x.st.acc.va = src.dev ∧ 0 < x.ord ∧ x.ord ≤ count))) ∧
  (∀ (addr : Nat) (bs : List Byte) (s : State),
    let writes := fun (host : Bool) (key : Nat) =>
      ∃ t, exec (.hostMemoryWrite host addr bs) s = .next t ∧ t.mem = memWrite s.mem key bs ∧ t.waves = s.waves ∧ t.ctxs = s.ctxs
    (addr + bs.length ≤ 2 ^ 62 → writes true (hostKey addr)) ∧
    (addr + bs.length ≤ 2 ^ 40 → s.locked = [] → writes false (devKey addr)) ∧
    (2 ^ 40 ≤ addr → addr + bs.length ≤ 2 ^ 40 + 0x1000 → bs ≠ [] → writes false (barKey (addr - 2 ^ 40))))

/-- R373, R375, R376, R378 to R380: a wired port trains or stays down with its reason, forwards, replays, times out, and is
marked and cleared by its depth; a device lost is fenced, its port down, and its collectives aborted; an admitted one is a
member.
(The order of the reasons and what an untrained port does are the model's readings, log entry 29.) -/
def Obligations.LinksAndMembersChange : Prop :=
  (∀ (k : Nat) (s : State), livePort s k = true →
    let port := fun (i : Instr) (p : Port) (members : Table Member) (out : List Out) => exec i s = .next { s with
      fabric := { s.fabric with ports := tput s.fabric.ports k p, members := members }
      outbox := s.outbox ++ out }
    let p := s.fabric.port k
    let record := [Out.training k (trainBytes s.fabric)]
    (∀ peer, trainReason s k peer ≠ 0 → port (.linkTraining k peer)
      { p with up := false, cong := false, reason := trainReason s k peer } s.fabric.members record) ∧
    (∀ peer, trainReason s k peer = 0 → port (.linkTraining k peer)
      { p with up := true, cong := false, depth := 0, peer := peer.index, major := 1, minor := 0, reason := 0 }
      (if s.fabric.member peer.index = .absent ∨ s.fabric.member peer.index = .fenced then tput s.fabric.members peer.index .joining
        else s.fabric.members) record) ∧
    (∀ dst path d j, p.up = true → s.fabric.forwards s.fabric.index = true → dst ≠ s.fabric.index → namesDevice s dst = true →
      s.fabric.forwards dst = true → s.fabric.member p.peer ≠ .joining →
      minPath s.fabric s.fabric.index dst = some path → path.head? = some d → s.fabric.portTo d = some j → (s.fabric.port j).up = true →
      let out := s.fabric.port j
      let d := min 512 (out.depth + 1)
      exec (.packetForward k dst) s = .next { s with
        outbox := s.outbox ++ [.forward j dst] ++ (if s.fabric.thresh < d ∧ out.cong = false then [.stallHint out.peer] else [])
        fabric := { s.fabric with ports := tput s.fabric.ports j { out with depth := d, cong := out.cong || decide (s.fabric.thresh < d) } } }) ∧
    exec (.flitReplay k) s = .next s ∧
    (p.reason ≠ 5 → port (.linkAckTimeout k) { p with up := false, cong := false, reason := 4 } s.fabric.members []) ∧
    (∀ depth, p.up = true → s.fabric.thresh < depth → depth ≤ 512 →
      port (.portCongestionMark k depth) { p with depth := depth, cong := true } s.fabric.members [.stallHint p.peer]) ∧
    (∀ depth, 2 * depth ≤ s.fabric.thresh →
      port (.portCongestionClear k depth) { p with depth := depth, cong := false } s.fabric.members [])) ∧
  (∀ (dev : Nat) (s : State), namesDevice s dev = true →
    (s.fabric.member dev ≠ .fenced → ∃ t, exec (.deviceLossNotice dev) s = .next t ∧ t.fabric.member dev = .fenced ∧
      (s.fabric.fencedSelf = false → Out.lossNotice dev ∈ t.outbox) ∧ ((∀ x ∈ s.cores, x.2.flying = [] ∧ x.2.ops = []) → t.waves = s.waves) ∧
      (s.coords = [] → (∀ x ∈ s.ctxs, x.2.stalled = []) → t.mem = s.mem) ∧
      (∀ k, s.fabric.portTo dev = some k → (t.fabric.port k).up = false ∧ (t.fabric.port k).reason = 5) ∧
      (dev = s.fabric.index → t.fabric.fencedSelf = true) ∧
      (rising s.colls → (∀ x ∈ s.colls, x.2.cid.toNat = x.1) → ∀ id o, tget? s.colls id = some o → o.abort = none →
        (tget? t.colls id).map (·.abort) = some (if dev ∈ o.members then some (2, dev, 0) else none))) ∧
    (s.fabric.member dev = .fenced → exec (.deviceLossNotice dev) s = .next s) ∧
    (s.fabric.member dev ≠ .member → exec (.admissionNotice dev) s = .next { s with
      fabric := { s.fabric with members := tput s.fabric.members dev .member }
      outbox := if s.fabric.fencedSelf then s.outbox else s.outbox ++ [.admission dev] }))

/-! ### Display and system (R381 to R388, R391, R392) -/

/-- R381, R382, R384 to R387: the house-sync counter and the frame period; and a vblank shows the flip that is due, starts the breakwater
one frame past the deadline, and otherwise goes on with the safe frame or the frame shown.
(The frame at which the deadline's breakwater starts is the model's reading, log entry 27; the time between two pulses is open, log
entry 3.) -/
def Obligations.HeadsShow : Prop :=
  (∀ s : State,
    let sync := fun (x : Word) (present : Bool) => { s.sys with hsf := x, hsPresent := present }
    exec .houseSyncPulse s = .next { s with
      sys := { sync (s.sys.hsf + 1) true with period := if s.sys.hsPresent then Config.freeNat s.free + 1 else s.sys.period }
      heads := tmap s.heads fun _ h => { h with inVblank := false }
      free := s.free + 1 } ∧
    (∀ x a o, exec (.hsfAlignSample x a o) s = .next { s with sys := sync (if o < a then x + 1 else x) s.sys.hsPresent }) ∧
    exec .houseSyncInputLost s = .next { s with sys := sync s.sys.hsf false } ∧
    ∀ head rate, head < 4 → exec (.displayportLinkTraining head rate) s = .next { s with
      heads := tput s.heads head { s.head head with rate := rate } }) ∧
  (∀ (k : Nat) (s : State) (h : Head), s.head k = h → h.cfg = true → h.inVblank = false → s.sys.hsPresent = true → s.sys.off = false →
    let shows := fun (h' : Head) => ∃ t, exec (.vblank k) s = .next t ∧ t.head k = h' ∧ t.waves = s.waves ∧ t.sys.hsf = s.sys.hsf ∧
      (∀ x, s.writeVa h.ctx h.statusVa (flipStatus h') = some x → (h'.bwr = 0 → t.mem = x.mem)) ∧
      (∀ j, j ≠ k → t.head j = s.head j)
    (∀ f, dueFlip s h = some f → h.bw = false ∨ f.clears = true → shows { h with
      shown := some f.data, shownAt := s.sys.hsf, late := f.late, next := none, bw := false, bwr := 0, scan := .frame, inVblank := true }) ∧
    (∀ r, dueFlip s h = none → h.shown = some r → h.next = none → h.bw = false → s.sys.hsf = BitVec.ofNat 32 (leAt r 0x14 4) + 1 →
      ∃ t, exec (.vblank k) s = .next t ∧ (t.head k).bw = true ∧ (t.head k).shown = h.shown ∧ (t.head k).bwr ∈ [1, 3] ∧
        ∃ m, (t.head k).scan = .warp m) ∧
    (dueFlip s h = none → h.shown = none → ∃ t, exec (.vblank k) s = .next t ∧ t.mem = s.mem ∧
      t.head k = { h with scan := .safe, inVblank := true }) ∧
    (∀ r, dueFlip s h = none → h.shown = some r → h.bw = false → h.next.isSome = true ∨ s.sys.hsf ≠ BitVec.ofNat 32 (leAt r 0x14 4) + 1 →
      ∃ t, exec (.vblank k) s = .next t ∧ t.mem = s.mem ∧ t.head k = { h with scan := .frame, inVblank := true }))

/-- R388: PCIe reset, and the stages with what each waits for. R391: a line found uncorrectable is logged, another's corrected errors
are counted. R392: the arithmetic clock falls by a step above the power cap or 95 °C, not below 800 MHz, and rises again within the
limits; above 110 °C the dies go off and every head shows the safe frame. (What a reset keeps, the order of the reasons to hold, the
entry's open bytes, and the steps of 100 MHz in which the clock also rises, are the model's choices, log entries 2, 38, 39 and 53.) -/
def Obligations.SystemRuns : Prop :=
  ∀ s : State,
    let set := fun (i : Instr) (x : Sys) => exec i s = .next { s with sys := x }
    exec .pcieReset s = .next { State.reset with
      mem := s.mem.filter (fun c => isHostKey c.1), agenda := s.agenda, outbox := s.outbox, free := s.free, nextId := s.nextId } ∧
    (s.sys.stage = 0 → ∀ n,
      (s.sys.image = none → ∀ b, set (.stageAdvance b n) { s.sys with stage := 0, hold := 1 }) ∧
      (s.sys.image.isSome = true → set (.stageAdvance false n) { s.sys with stage := 0, hold := 2 }) ∧
      (s.sys.image.isSome = true → set (.stageAdvance true n) { s.sys with stage := 1, hold := 0, hbm := true })) ∧
    (s.sys.stage = 1 → ∀ b n,
      (s.fabric.configured = false → set (.stageAdvance b n) { s.sys with stage := 1, hold := 4 }) ∧
      (s.fabric.configured = true → n < 1008 → set (.stageAdvance b n) { s.sys with stage := 1, hold := 3 }) ∧
      (s.fabric.configured = true → 1008 ≤ n → portsTrained s = false → set (.stageAdvance b n) { s.sys with stage := 1, hold := 0 }) ∧
      (s.fabric.configured = true → 1008 ≤ n → portsTrained s = true → exec (.stageAdvance b n) s = .next { s with
        sys := { s.sys with stage := 2, hold := 0 }
        fabric := if s.fabric.q = 0 then s.fabric else
          { s.fabric with members := tput s.fabric.members s.fabric.index .joining } })) ∧
    (s.sys.stage = 2 → ∀ b n, set (.stageAdvance b n) { s.sys with stage := 3, hold := 0 }) ∧
    (∀ line bad, 64 * line < 2 ^ 40 →
      (bad = true ∨ line ∈ s.sys.bad → ∃ t entry, exec (.patrolScrub line bad) s = .next t ∧ t.mem = s.mem ∧ line ∈ t.sys.bad ∧
        t.sys.errors = s.sys.errors ++ [entry] ∧ entry.length = 64) ∧
      (bad = false → line ∉ s.sys.bad → exec (.patrolScrub line bad) s = .next { s with
        sys := { s.sys with corrected := s.sys.corrected + Config.freeNat s.free }
        free := s.free + 1 })) ∧
    (∀ mw mc,
      let slower := { s.sys with clock := max 800 (s.sys.clock - 100) }
      let within := mc ≤ 95000 ∧ mw ≤ 1000 * s.sys.cap
      set (.powerLimitStep mw) (if 1000 * s.sys.cap < mw then slower else s.sys) ∧
      set (.thermalThrottle mc) (if 95000 < mc then slower else s.sys) ∧
      set (.arithmeticClockRestore mc mw) (if within then { s.sys with clock := min 1600 (s.sys.clock + 100) } else s.sys) ∧
      (s.sys.off = false → 110000 < mc ∨ 1000 * s.sys.cap < mw ∧ s.sys.clock ≤ 800 → exec (.thermalShutdown mc mw) s = .next { s with
        outbox := if s.fabric.fencedSelf then s.outbox else s.outbox ++ [.lossNotice s.fabric.index], sys := { s.sys with off := true }
        heads := tmap s.heads fun _ h => { h with scan := .safe } }))

/-! ### Rules stated whole (R110, R155, R163) -/

/-- R110: a fetch line is the 64 bytes at a multiple of 64, one little-endian number whose bits 96k to 96k + 95, bytes 12k to
12k + 11, are slot k; bits 0 to 479 are the payload that its parity covers, and bits 480 to 511, bytes 60 to 63, the line
word. -/
def Obligations.FetchLinesLaidOut : Prop :=
  (∀ pc : DWord, (lineOf pc).toNat % 64 = 0 ∧ (lineOf pc).toNat ≤ pc.toNat ∧ pc.toNat < (lineOf pc).toNat + 64) ∧
  (∀ (s : State) (p : Page), (readLine s p).1 = memRead s.mem p.key 64) ∧
  ∀ line : List Byte, line.length = 64 →
    (∀ k, k < 5 → (slotBits line k).toNat = leNat line / 2 ^ (96 * k) % 2 ^ 96 ∧
      (slotBits line k).toNat = leNat ((line.drop (12 * k)).take 12)) ∧
    lineWord line = leNat line / 2 ^ 480 ∧ lineWord line = leNat (line.drop 60) ∧
    ∀ other : List Byte, other.take 60 = line.take 60 → other.length = 64 → linePar other = linePar line

/-- R155: `popc`, `clz`, `ctz` and `brev` within each element of a. -/
def Obligations.BitCountsWithinElements : Prop :=
  ∀ (o : Alu) (s : State) (e : Env), Tidy s → s.env? o.g = some e → e.regsOk o (tyWidths o.ty false false) = true →
    let w := o.ty.elemWidth
    let elem := fun (x k : Nat) => x / 2 ^ (w * k) % 2 ^ w
    let counts := fun (i : Instr) (f : Nat → Nat → Prop) => ∃ (t : State) (x : Nat → Nat), exec i s = .next t ∧ isOver e s t ∧
      (t.wave e.id).fflags = e.w.fflags ∧ ∀ l ∈ e.passes o.sc, x l < 2 ^ (w * o.ty.elemCount) ∧
        dHolds (t.wave e.id) o.ty o.sc o.ty.is64 o.d.toNat l (x l) ∧
        ∀ k, k < o.ty.elemCount → f (elem (readReg e.w o.sc o.ty.is64 o.a.toNat l) k) (elem (x l) k)
    counts (.popc o) (fun a r => r = ((List.range w).filter a.testBit).length) ∧
    counts (.clz o) (fun a r => r ≤ w ∧ (∀ i, w - r ≤ i → i < w → a.testBit i = false) ∧ (r < w → a.testBit (w - 1 - r) = true)) ∧
    counts (.ctz o) (fun a r => r ≤ w ∧ (∀ i, i < r → a.testBit i = false) ∧ (r < w → a.testBit r = true)) ∧
    counts (.brev o) (fun a r => ∀ i, i < w → r.testBit i = a.testBit (w - 1 - i))

/-- R163: `rdlane` and `wrlane`, once if any issuing lane is enabled, whatever the class of the lane written.
(That B is one 32-bit register or immediate whatever the type is the model's reading, log entry 51.) -/
def Obligations.LanesReadAndWritten : Prop :=
  ∀ (o : Alu) (s : State) (e : Env), Tidy s → s.env? o.g = some e →
    let wide := o.ty.is64
    let l := readB e.w o.ty false o.b 0 % 32
    (e.vTy wide o.a.toNat = true → ∃ t, exec (.rdlane o) s = .next t ∧ isOver e s t ∧ (t.wave e.id).fflags = e.w.fflags ∧
      (e.enabled = 0 → regsKept e.w (t.wave e.id)) ∧
      (e.enabled ≠ 0 → sOnly e o.d.toNat (t.wave e.id) ∧
        (t.wave e.id).sreg o.d.toNat = if wide then BitVec.ofNat 64 (readReg e.w false true o.a.toNat l) else extS o.ty (e.w.vreg o.a.toNat l).toNat)) ∧
    (e.vTy wide o.d.toNat = true → ∃ t, exec (.wrlane o) s = .next t ∧ isOver e s t ∧ (t.wave e.id).fflags = e.w.fflags ∧
      (e.enabled = 0 → regsKept e.w (t.wave e.id)) ∧
      (e.enabled ≠ 0 → (t.wave e.id).s = e.w.s ∧ (t.wave e.id).p = e.w.p ∧ (t.wave e.id).f = e.w.f ∧
        vKept e.w (t.wave e.id) (fun n k => k == l && (n == o.d.toNat || (wide && n == o.d.toNat + 1))) ∧
        (if wide then (t.wave e.id).vreg64 o.d.toNat l = e.w.sreg o.a.toNat
          else (t.wave e.id).vreg o.d.toNat l = (e.w.sreg o.a.toNat).setWidth 32)))

/-! ### Encodings, the step, the form of every state -/

/-- Words that the spec works out (R118, R130) decode to the instructions they stand for. -/
def Obligations.WordsDecode : Prop :=
  decodeTableWord 96 0x000000000000000605040201 = some (.iadd ⟨⟨2, false⟩, false, .i32, .rne, 4, 5, .v 6, 0⟩ false) ∧
  decodeTableWord 96 0x0000000056000C030B0A0F33 = some (.ffma ⟨⟨15, false⟩, false, .f32, .rtz, 10, 11, .s 3, 12⟩) ∧
  decodeTableWord 96 0xFFFFFFE30000000000000F61 = some (.bra ⟨15, false⟩ 0xFFFFFFE3) ∧
  decodeTableWord 96 0x0000001000B02E0204090F70 =
    some (.ld ⟨⟨15, false⟩, 9, some 4, some (2, 2), 16, .glb, .dev, .acq, .l1, .rne, .alu .i32⟩) ∧
  decodeTableWord 96 0x000000200000000B0A10019E = some (.hmma ⟨1, false⟩ .buf 0x10 0x0A 0x0B 0 0x20 0) ∧
  decodeTableWord 96 0x0000000000000000000000FF = none

/-- R118 to R129: the decoder gives back every well-formed instruction from its slot, and what it gives is well-formed and
has that slot. -/
def Obligations.EncodingsRoundTrip : Prop :=
  (∀ (i : Instr) (w : BitVec 96), i.wf = true → encode i = some w → decodeSlot w = .ok i) ∧
  (∀ (i : Instr) (w : BitVec 96), decodeSlot w = .ok i → i.wf = true ∧ encode i = some w)

/-- R22, R113, R116: where the line at a wave's issue address is whole and its slot decodes, the step that issues the wave
runs that instruction on the state in which the wave has been chosen; an event runs as the outside brings it, work of a shared engine
in its turn (R329), and the oldest command of the ring as its record decodes (R336).
(That the outside's choice comes first, then the oldest command, then waves and events, is the model's choice, log entry 8.) -/
def Obligations.StepsRunDecoded : Prop :=
  (∀ (s : State) (core ctx : Nat) (c : Context) (pc : DWord) (p : Page) (i : Instr), (lineOf pc).toNat < 2 ^ 57 →
    translate s (some core) ctx c (lineOf pc).toNat .fetch = .ok p → tget? (s.core core).lines (lineKey ctx (lineOf pc)) = none →
    p.w = false ∨ tget? s.marks (p.key / 64) = none → parityOk (s.bytesAt p.key 64) = true → lineReserved (s.bytesAt p.key 64) = false →
    decodeSlot (slotBits (s.bytesAt p.key 64) (pc &&& 7#64).toNat) = .ok i → fetch s core ctx c pc = .instr i) ∧
  (∀ (s : State) (id : Nat) (refused answers : List (Nat × Byte)) (rest : List Choice) (d : Decision) (e : Env)
      (i : Instr), s.sys.off = false → s.agenda = .issue id refused answers :: rest →
    let s0 : State := { s with agenda := rest, refused := refused, answers := answers }
    let s1 : State := { s0.chosen (coreOf s0 id) d id with cur := id }
    nextDecision s0 (coreOf s0 id) = some (d, id) → s1.env? noGuard = some e → fetch s1 e.wg.core e.ctx e.c e.pc = .instr i →
    step s = andThen (exec i s1) fun t => { t with refused := [], answers := [] }) ∧
  (∀ (s : State) (i : Instr) (rest : List Choice), s.agenda = .event i :: rest → notAnEvent i = false → s.sys.off = false →
    let s0 : State := { s with agenda := rest }
    (workOf s0 i = none → step s = exec i s0) ∧
    (∀ w, workOf s0 i = some w →
      (inTurn s0 i = false → step s = .next s0) ∧
      (inTurn s0 i = true → ∀ t, exec i s0 = .next t →
        step s = .next (if t = s0 then s0 else { t with served := tput t.served w.kind w.part })))) ∧
  (∀ (s s1 : State) (r : List Byte) (i : Instr), s.agenda = [] → s.sys.off = false → commandPending s = true →
    s.takeCommand = (r, s1) → decodeCommand r = some i → step s = exec i s1)

/-- Every step keeps the form of states: memory canonical, and the tables that `Tidy` names in the order of their keys. -/
def Obligations.StepsKeepTheForm : Prop :=
  ∀ s t : State, Tidy s → step s = .next t → Tidy t

/-- R388: after PCIe reset the device is at stage 0 with no context, queue, launch or wave, every head on the safe frame, and the state
has its form. (The cap of 1800 W, the clock of 1.6 GHz and memory that reads 0 are the model's choices, log entries 1 and 2.) -/
def Obligations.ResetStands : Prop :=
  Tidy State.reset ∧ State.reset.sys.stage = 0 ∧ State.reset.sys.agreed = none ∧ State.reset.ctxs = [] ∧ State.reset.queues = [] ∧
  State.reset.launches = [] ∧ State.reset.waves = [] ∧ State.reset.sys.cap = 1800 ∧ State.reset.sys.clock = 1600 ∧
  (∀ k, (State.reset.head k).scan = .safe) ∧ ∀ a, memGet State.reset.mem a = 0
end

