-- ==== Sys2Proof/Laws/Tables.lean ====
section
/-! SUPPORT. Tables and memory: what reading gives after a write, and that writes keep the canonical forms. -/

namespace Sys2Proof.Machine

/-! ### Tables -/

@[simp] theorem tget?_nil {α : Type} (n : Nat) : tget? ([] : Table α) n = none := rfl

@[simp] theorem tget?_tput_same {α : Type} (t : Table α) (n : Nat) (x : α) : tget? (tput t n x) n = some x := by
  induction t with
  | nil => simp [tput, tget?]
  | cons c t ih =>
    obtain ⟨k, y⟩ := c
    simp only [tput]
    split
    · simp [tget?]
    · split
      · simp [tget?]
      · simp only [tget?, *, if_false]

theorem tget?_tput_ne {α : Type} (t : Table α) {n m : Nat} (x : α) (h : n ≠ m) : tget? (tput t n x) m = tget? t m := by
  induction t with
  | nil => simp [tput, tget?, h]
  | cons c t ih =>
    obtain ⟨k, y⟩ := c
    simp only [tput]
    split
    · rename_i hk
      simp only [tget?, h, if_false]
      by_cases hm : m < n
      · have : k ≠ m := by omega
        have : m < k := by omega
        simp [*]
      · simp [hm]
    · split
      · subst k
        simp only [tget?, h, if_false]
      · simp only [tget?, ih]

theorem tget?_tput {α : Type} (t : Table α) (n m : Nat) (x : α) :
    tget? (tput t n x) m = if n = m then some x else tget? t m := by
  split
  · subst m; simp
  · exact tget?_tput_ne t x ‹_›

theorem rising_cons {α : Type} {c : Nat × α} {t : Table α} : rising (c :: t) ↔ (∀ x ∈ t, c.1 < x.1) ∧ rising t :=
  List.pairwise_cons

theorem mem_tput {α : Type} {t : Table α} {n : Nat} {x : α} {c : Nat × α} (h : c ∈ tput t n x) : c = (n, x) ∨ c ∈ t := by
  induction t with
  | nil => simpa [tput] using h
  | cons d t ih =>
    obtain ⟨k, y⟩ := d
    simp only [tput] at h
    split at h
    · simpa using h
    · split at h
      · rcases List.mem_cons.1 h with h | h
        · exact .inl h
        · exact .inr (List.mem_cons_of_mem _ h)
      · rcases List.mem_cons.1 h with rfl | h
        · exact .inr List.mem_cons_self
        · rcases ih h with h | h
          · exact .inl h
          · exact .inr (List.mem_cons_of_mem _ h)

theorem rising_tput {α : Type} {t : Table α} (h : rising t) (n : Nat) (x : α) : rising (tput t n x) := by
  induction t with
  | nil => simp [tput, rising]
  | cons c t ih =>
    obtain ⟨k, y⟩ := c
    rw [rising_cons] at h
    simp only [tput]
    split
    · rw [rising_cons]
      refine ⟨fun c hc => ?_, rising_cons.2 h⟩
      rcases List.mem_cons.1 hc with rfl | hc
      · assumption
      · exact Nat.lt_trans ‹_› (h.1 c hc)
    · split
      · subst k; exact rising_cons.2 h
      · rw [rising_cons]
        refine ⟨fun c hc => ?_, ih h.2⟩
        rcases mem_tput hc with rfl | hc
        · show k < n; omega
        · exact h.1 c hc

theorem mem_tdel {α : Type} {t : Table α} {n : Nat} {c : Nat × α} (h : c ∈ tdel t n) : c ∈ t := by
  induction t with
  | nil => exact h
  | cons d t ih =>
    obtain ⟨k, y⟩ := d
    simp only [tdel] at h
    split at h
    · exact List.mem_cons_of_mem _ h
    · split at h
      · exact h
      · rcases List.mem_cons.1 h with rfl | h
        · exact List.mem_cons_self
        · exact List.mem_cons_of_mem _ (ih h)

theorem rising_tdel {α : Type} {t : Table α} (h : rising t) (n : Nat) : rising (tdel t n) := by
  induction t with
  | nil => exact h
  | cons c t ih =>
    obtain ⟨k, y⟩ := c
    have h' := rising_cons.1 h
    simp only [tdel]
    split
    · exact h'.2
    · split
      · exact h
      · exact rising_cons.2 ⟨fun c hc => h'.1 c (mem_tdel hc), ih h'.2⟩

theorem tget?_mem {α : Type} {t : Table α} {k : Nat} {x : α} (h : tget? t k = some x) : (k, x) ∈ t := by
  induction t with
  | nil => simp at h
  | cons y t ih =>
    simp only [tget?] at h
    split at h
    · rename_i hk
      cases h
      subst hk
      exact List.mem_cons_self
    · split at h
      · cases h
      · exact List.mem_cons_of_mem _ (ih h)

theorem tget?_none_of_lt {α : Type} {t : Table α} {n : Nat} (h : ∀ x ∈ t, n < x.1) : tget? t n = none := by
  cases t with
  | nil => rfl
  | cons c t =>
    obtain ⟨k, y⟩ := c
    have hk : n < k := h (k, y) List.mem_cons_self
    have : k ≠ n := by omega
    simp [tget?, this, hk]

theorem tget?_tdel {α : Type} {t : Table α} (h : rising t) (n m : Nat) :
    tget? (tdel t n) m = if n = m then none else tget? t m := by
  induction t with
  | nil => simp [tdel]
  | cons c t ih =>
    obtain ⟨k, y⟩ := c
    have h' := rising_cons.1 h
    simp only [tdel]
    by_cases hk : k = n
    · subst hk
      simp only [if_true]
      by_cases hm : k = m
      · subst hm; simp only [if_true]; exact tget?_none_of_lt h'.1
      · simp only [hm, if_false, tget?]
        split
        · exact tget?_none_of_lt fun x hx => Nat.lt_trans ‹_› (h'.1 x hx)
        · rfl
    · simp only [hk, if_false]
      by_cases hn : n < k
      · simp only [hn, if_true]
        by_cases hm : n = m
        · subst hm; simp [tget?, hk, hn]
        · simp [hm]
      · simp only [hn, if_false, tget?, ih h'.2]
        by_cases hm : n = m
        · subst hm; simp [hk, hn]
        · simp [hm]

@[simp] theorem tgetD_tput {α : Type} (t : Table α) (n m : Nat) (d x : α) :
    tgetD (tput t n x) m d = if n = m then x else tgetD t m d := by
  simp only [tgetD, tget?_tput]; split <;> rfl

theorem tgetD_tsetD {α : Type} [DecidableEq α] {t : Table α} (h : rising t) (n m : Nat) (d x : α) :
    tgetD (tsetD t n d x) m d = if n = m then x else tgetD t m d := by
  simp only [tsetD]
  split
  · subst x; simp only [tgetD, tget?_tdel h]; split <;> rfl
  · simp

theorem rising_tsetD {α : Type} [DecidableEq α] {t : Table α} (h : rising t) (n : Nat) (d x : α) : rising (tsetD t n d x) := by
  simp only [tsetD]; split
  · exact rising_tdel h n
  · exact rising_tput h n x

theorem rising_tfilter {α : Type} {t : Table α} (h : rising t) (p : Nat → α → Bool) : rising (tfilter t p) :=
  List.Pairwise.filter _ h

theorem rising_tmap {α : Type} {t : Table α} (h : rising t) (f : Nat → α → α) : rising (tmap t f) := by
  simpa [rising, tmap, List.pairwise_map] using h

theorem rising_tmod {α : Type} {t : Table α} (h : rising t) (n : Nat) (f : α → α) : rising (tmod t n f) := by
  simp only [tmod]; split
  · exact rising_tput h n _
  · exact h

theorem mem_of_tget? {α : Type} {t : Table α} {n : Nat} {x : α} (h : tget? t n = some x) : (n, x) ∈ t := by
  induction t with
  | nil => simp at h
  | cons c t ih =>
    obtain ⟨k, y⟩ := c
    simp only [tget?] at h
    split at h
    · simp only [Option.some.injEq] at h; subst h; subst k; exact List.mem_cons_self
    · split at h
      · cases h
      · exact List.mem_cons_of_mem _ (ih h)

/-! ### Memory -/

theorem memGet_memSet_same {m : Memory} (h : rising m) (n : Nat) (b : Byte) : memGet (memSet m n b) n = b := by
  induction m with
  | nil => simp only [memSet]; split <;> simp [memGet, *]
  | cons c m ih =>
    obtain ⟨k, y⟩ := c
    have h' := rising_cons.1 h
    simp only [memSet]
    split
    · rename_i hk
      split
      · subst b; simp only [memGet]
        rw [if_neg (by omega), if_pos hk]
      · simp [memGet]
    · split
      · split
        · subst b; subst k
          cases m with
          | nil => rfl
          | cons c m =>
            have := h'.1 c List.mem_cons_self
            obtain ⟨j, z⟩ := c
            have : n < j := this
            simp only [memGet]; rw [if_neg (by omega), if_pos this]
        · simp [memGet]
      · simp only [memGet, ih h'.2]
        rw [if_neg (by assumption), if_neg (by omega)]

theorem memGet_below {m : Memory} {n : Nat} (h : ∀ x ∈ m, n < x.1) : memGet m n = 0 := by
  cases m with
  | nil => rfl
  | cons c m =>
    obtain ⟨k, y⟩ := c
    have hk : n < k := h (k, y) List.mem_cons_self
    simp only [memGet]; rw [if_neg (by omega), if_pos hk]

theorem memGet_memSet_ne {m : Memory} (h : rising m) {n a : Nat} (b : Byte) (hn : n ≠ a) : memGet (memSet m n b) a = memGet m a := by
  induction m with
  | nil => simp only [memSet]; split <;> simp [memGet, hn]
  | cons c m ih =>
    obtain ⟨k, y⟩ := c
    have h' := rising_cons.1 h
    simp only [memSet]
    split
    · split
      · rfl
      · rename_i hk _
        by_cases ha : a < n
        · have : k ≠ a := by omega
          have : a < k := by omega
          simp [memGet, *]
        · simp [memGet, hn, ha]
    · split
      · subst k
        split
        · simp only [memGet, hn, if_false]
          split
          · exact memGet_below fun x hx => Nat.lt_trans ‹_› (h'.1 x hx)
          · rfl
        · simp [memGet, hn]
      · simp only [memGet, ih h'.2]

theorem mem_memSet {m : Memory} {n : Nat} {b : Byte} {c : Host.Cell} (h : c ∈ memSet m n b) : (c = (n, b) ∧ b ≠ 0) ∨ c ∈ m := by
  induction m with
  | nil => simp only [memSet] at h; split at h <;> simp_all
  | cons d m ih =>
    obtain ⟨k, y⟩ := d
    simp only [memSet] at h
    split at h
    · split at h
      · exact .inr h
      · rcases List.mem_cons.1 h with rfl | h
        · exact .inl ⟨rfl, ‹_›⟩
        · exact .inr h
    · split at h
      · split at h
        · exact .inr (List.mem_cons_of_mem _ h)
        · rcases List.mem_cons.1 h with rfl | h
          · exact .inl ⟨rfl, ‹_›⟩
          · exact .inr (List.mem_cons_of_mem _ h)
      · rcases List.mem_cons.1 h with rfl | h
        · exact .inr List.mem_cons_self
        · rcases ih h with h | h
          · exact .inl h
          · exact .inr (List.mem_cons_of_mem _ h)

theorem rising_memSet {m : Memory} (h : rising m) (n : Nat) (b : Byte) : rising (memSet m n b) := by
  induction m with
  | nil => simp only [memSet]; split <;> simp [rising]
  | cons c m ih =>
    obtain ⟨k, y⟩ := c
    have h' := rising_cons.1 h
    simp only [memSet]
    split
    · split
      · exact h
      · refine rising_cons.2 ⟨fun c hc => ?_, h⟩
        rcases List.mem_cons.1 hc with rfl | hc
        · assumption
        · exact Nat.lt_trans ‹_› (h'.1 c hc)
    · split
      · split
        · exact h'.2
        · subst k; exact rising_cons.2 h'
      · refine rising_cons.2 ⟨fun c hc => ?_, ih h'.2⟩
        rcases mem_memSet hc with ⟨rfl, _⟩ | hc
        · show k < n; omega
        · exact h'.1 c hc

/-- The canonical form says: keys strictly rise and no byte is 0. -/
theorem memory_wf_iff (m : Memory) : Memory.wf m = true ↔ rising m ∧ ∀ c ∈ m, c.2 ≠ 0 := by
  induction m with
  | nil => simp [Memory.wf, rising]
  | cons c m ih =>
    cases m with
    | nil => simp [Memory.wf, rising]
    | cons d m =>
      simp only [Memory.wf, Bool.and_eq_true, bne_iff_ne, decide_eq_true_eq, ih]
      constructor
      · rintro ⟨⟨hc, hcd⟩, hr, hz⟩
        refine ⟨rising_cons.2 ⟨fun x hx => ?_, hr⟩, fun x hx => ?_⟩
        · rcases List.mem_cons.1 hx with rfl | hx
          · exact hcd
          · exact Nat.lt_trans hcd ((rising_cons.1 hr).1 x hx)
        · rcases List.mem_cons.1 hx with rfl | hx
          · exact hc
          · exact hz x hx
      · rintro ⟨hr, hz⟩
        have h' := rising_cons.1 hr
        exact ⟨⟨hz c List.mem_cons_self, h'.1 d List.mem_cons_self⟩, h'.2, fun x hx => hz x (List.mem_cons_of_mem _ hx)⟩

/-- Writing a byte keeps the canonical form. -/
theorem wf_memSet {m : Memory} (h : Memory.wf m = true) (n : Nat) (b : Byte) : Memory.wf (memSet m n b) = true := by
  rw [memory_wf_iff] at h ⊢
  refine ⟨rising_memSet h.1 n b, fun c hc => ?_⟩
  rcases mem_memSet hc with ⟨rfl, hb⟩ | hc
  · exact hb
  · exact h.2 c hc

/-- Writing bytes keeps the canonical form. -/
theorem wf_memWrite {m : Memory} (h : Memory.wf m = true) (a : Nat) (bs : List Byte) : Memory.wf (memWrite m a bs) = true := by
  induction bs generalizing m a with
  | nil => exact h
  | cons b bs ih => exact ih (wf_memSet h a b) (a + 1)

/-- Dropping cells keeps the canonical form. -/
theorem wf_filter {m : Memory} (h : Memory.wf m = true) (p : Host.Cell → Bool) : Memory.wf (m.filter p) = true := by
  rw [memory_wf_iff] at h ⊢
  exact ⟨h.1.filter p, fun c hc => h.2 c ((List.mem_filter.1 hc).1)⟩

/-- Clearing a range keeps the canonical form. -/
theorem wf_memClear {m : Memory} (h : Memory.wf m = true) (lo len : Nat) : Memory.wf (memClear m lo len) = true := wf_filter h _

/-- Equal reads of canonical memories make equal memories. -/
theorem memory_ext {m m' : Memory} (h : Memory.wf m = true) (h' : Memory.wf m' = true) (he : ∀ a, memGet m a = memGet m' a) :
    m = m' := by
  rw [memory_wf_iff] at h h'
  induction m generalizing m' with
  | nil =>
    cases m' with
    | nil => rfl
    | cons c m' =>
      exact absurd (by simpa [memGet] using (he c.1).symm) (h'.2 c List.mem_cons_self)
  | cons c m ih =>
    cases m' with
    | nil => exact absurd (by simpa [memGet] using he c.1) (h.2 c List.mem_cons_self)
    | cons d m' =>
      obtain ⟨k, x⟩ := c
      obtain ⟨j, y⟩ := d
      have hr := rising_cons.1 h.1
      have hr' := rising_cons.1 h'.1
      have hx : x ≠ 0 := h.2 _ List.mem_cons_self
      have hy : y ≠ 0 := h'.2 _ List.mem_cons_self
      have hkj : k = j := by
        rcases Nat.lt_trichotomy k j with hlt | heq | hlt
        · have := he k; simp only [memGet, if_true] at this; rw [if_neg (by omega), if_pos hlt] at this; exact absurd this hx
        · exact heq
        · have := he j; simp only [memGet, if_true] at this; rw [if_neg (by omega), if_pos hlt] at this; exact absurd this.symm hy
      subst hkj
      have hxy : x = y := by have := he k; simpa [memGet] using this
      subst hxy
      congr 1
      refine ih ⟨hr.2, fun c hc => h.2 c (List.mem_cons_of_mem _ hc)⟩ ⟨hr'.2, fun c hc => h'.2 c (List.mem_cons_of_mem _ hc)⟩ fun a => ?_
      by_cases ha : k < a
      · have := he a
        simp only [memGet] at this
        rwa [if_neg (by omega), if_neg (by omega), if_neg (by omega), if_neg (by omega)] at this
      · rw [memGet_below fun c hc => Nat.lt_of_le_of_lt (by omega) (hr.1 c hc), memGet_below fun c hc => Nat.lt_of_le_of_lt (by omega) (hr'.1 c hc)]

end Sys2Proof.Machine
end

