-- ==== Sys2Proof/Laws/State.lean ====
section
/-! SUPPORT. What each named update of the state leaves of each field: one lemma per field per update. -/

namespace Sys2Proof.Machine

variable (s : State)

@[simp] theorem State.modWave_mem (id : Nat) (f : Wave → Wave) : (s.modWave id f).mem = s.mem := rfl
@[simp] theorem State.modWave_marks (id : Nat) (f : Wave → Wave) : (s.modWave id f).marks = s.marks := rfl
@[simp] theorem State.modWave_sys (id : Nat) (f : Wave → Wave) : (s.modWave id f).sys = s.sys := rfl
@[simp] theorem State.modWave_fabric (id : Nat) (f : Wave → Wave) : (s.modWave id f).fabric = s.fabric := rfl
@[simp] theorem State.modWave_heads (id : Nat) (f : Wave → Wave) : (s.modWave id f).heads = s.heads := rfl
@[simp] theorem State.modWave_ctxs (id : Nat) (f : Wave → Wave) : (s.modWave id f).ctxs = s.ctxs := rfl
@[simp] theorem State.modWave_queues (id : Nat) (f : Wave → Wave) : (s.modWave id f).queues = s.queues := rfl
@[simp] theorem State.modWave_binds (id : Nat) (f : Wave → Wave) : (s.modWave id f).binds = s.binds := rfl
@[simp] theorem State.modWave_launches (id : Nat) (f : Wave → Wave) : (s.modWave id f).launches = s.launches := rfl
@[simp] theorem State.modWave_wgs (id : Nat) (f : Wave → Wave) : (s.modWave id f).wgs = s.wgs := rfl
@[simp] theorem State.modWave_gangs (id : Nat) (f : Wave → Wave) : (s.modWave id f).gangs = s.gangs := rfl
@[simp] theorem State.modWave_clusters (id : Nat) (f : Wave → Wave) : (s.modWave id f).clusters = s.clusters := rfl
@[simp] theorem State.modWave_cores (id : Nat) (f : Wave → Wave) : (s.modWave id f).cores = s.cores := rfl
@[simp] theorem State.modWave_shuttles (id : Nat) (f : Wave → Wave) : (s.modWave id f).shuttles = s.shuttles := rfl
@[simp] theorem State.modWave_sorts (id : Nat) (f : Wave → Wave) : (s.modWave id f).sorts = s.sorts := rfl
@[simp] theorem State.modWave_resolves (id : Nat) (f : Wave → Wave) : (s.modWave id f).resolves = s.resolves := rfl
@[simp] theorem State.modWave_vresolves (id : Nat) (f : Wave → Wave) : (s.modWave id f).vresolves = s.vresolves := rfl
@[simp] theorem State.modWave_colls (id : Nat) (f : Wave → Wave) : (s.modWave id f).colls = s.colls := rfl
@[simp] theorem State.modWave_bins (id : Nat) (f : Wave → Wave) : (s.modWave id f).bins = s.bins := rfl
@[simp] theorem State.modWave_walkers (id : Nat) (f : Wave → Wave) : (s.modWave id f).walkers = s.walkers := rfl
@[simp] theorem State.modWave_tides (id : Nat) (f : Wave → Wave) : (s.modWave id f).tides = s.tides := rfl
@[simp] theorem State.modWave_coords (id : Nat) (f : Wave → Wave) : (s.modWave id f).coords = s.coords := rfl
@[simp] theorem State.modWave_early (id : Nat) (f : Wave → Wave) : (s.modWave id f).early = s.early := rfl
@[simp] theorem State.modWave_earlyOut (id : Nat) (f : Wave → Wave) : (s.modWave id f).earlyOut = s.earlyOut := rfl
@[simp] theorem State.modWave_locked (id : Nat) (f : Wave → Wave) : (s.modWave id f).locked = s.locked := rfl
@[simp] theorem State.modWave_replicas (id : Nat) (f : Wave → Wave) : (s.modWave id f).replicas = s.replicas := rfl
@[simp] theorem State.modWave_outbox (id : Nat) (f : Wave → Wave) : (s.modWave id f).outbox = s.outbox := rfl
@[simp] theorem State.modWave_agenda (id : Nat) (f : Wave → Wave) : (s.modWave id f).agenda = s.agenda := rfl
@[simp] theorem State.modWave_stalls (id : Nat) (f : Wave → Wave) : (s.modWave id f).stalls = s.stalls := rfl
@[simp] theorem State.modWave_refused (id : Nat) (f : Wave → Wave) : (s.modWave id f).refused = s.refused := rfl
@[simp] theorem State.modWave_answers (id : Nat) (f : Wave → Wave) : (s.modWave id f).answers = s.answers := rfl
@[simp] theorem State.modWave_cur (id : Nat) (f : Wave → Wave) : (s.modWave id f).cur = s.cur := rfl
@[simp] theorem State.modWave_turn (id : Nat) (f : Wave → Wave) : (s.modWave id f).turn = s.turn := rfl
@[simp] theorem State.modWave_served (id : Nat) (f : Wave → Wave) : (s.modWave id f).served = s.served := rfl
@[simp] theorem State.modWave_free (id : Nat) (f : Wave → Wave) : (s.modWave id f).free = s.free := rfl
@[simp] theorem State.modWave_nextId (id : Nat) (f : Wave → Wave) : (s.modWave id f).nextId = s.nextId := rfl

@[simp] theorem State.modCore_mem (c : Nat) (f : CoreState → CoreState) : (s.modCore c f).mem = s.mem := rfl
@[simp] theorem State.modCore_marks (c : Nat) (f : CoreState → CoreState) : (s.modCore c f).marks = s.marks := rfl
@[simp] theorem State.modCore_sys (c : Nat) (f : CoreState → CoreState) : (s.modCore c f).sys = s.sys := rfl
@[simp] theorem State.modCore_fabric (c : Nat) (f : CoreState → CoreState) : (s.modCore c f).fabric = s.fabric := rfl
@[simp] theorem State.modCore_heads (c : Nat) (f : CoreState → CoreState) : (s.modCore c f).heads = s.heads := rfl
@[simp] theorem State.modCore_ctxs (c : Nat) (f : CoreState → CoreState) : (s.modCore c f).ctxs = s.ctxs := rfl
@[simp] theorem State.modCore_queues (c : Nat) (f : CoreState → CoreState) : (s.modCore c f).queues = s.queues := rfl
@[simp] theorem State.modCore_binds (c : Nat) (f : CoreState → CoreState) : (s.modCore c f).binds = s.binds := rfl
@[simp] theorem State.modCore_launches (c : Nat) (f : CoreState → CoreState) : (s.modCore c f).launches = s.launches := rfl
@[simp] theorem State.modCore_wgs (c : Nat) (f : CoreState → CoreState) : (s.modCore c f).wgs = s.wgs := rfl
@[simp] theorem State.modCore_gangs (c : Nat) (f : CoreState → CoreState) : (s.modCore c f).gangs = s.gangs := rfl
@[simp] theorem State.modCore_waves (c : Nat) (f : CoreState → CoreState) : (s.modCore c f).waves = s.waves := rfl
@[simp] theorem State.modCore_clusters (c : Nat) (f : CoreState → CoreState) : (s.modCore c f).clusters = s.clusters := rfl
@[simp] theorem State.modCore_shuttles (c : Nat) (f : CoreState → CoreState) : (s.modCore c f).shuttles = s.shuttles := rfl
@[simp] theorem State.modCore_sorts (c : Nat) (f : CoreState → CoreState) : (s.modCore c f).sorts = s.sorts := rfl
@[simp] theorem State.modCore_resolves (c : Nat) (f : CoreState → CoreState) : (s.modCore c f).resolves = s.resolves := rfl
@[simp] theorem State.modCore_vresolves (c : Nat) (f : CoreState → CoreState) : (s.modCore c f).vresolves = s.vresolves := rfl
@[simp] theorem State.modCore_colls (c : Nat) (f : CoreState → CoreState) : (s.modCore c f).colls = s.colls := rfl
@[simp] theorem State.modCore_bins (c : Nat) (f : CoreState → CoreState) : (s.modCore c f).bins = s.bins := rfl
@[simp] theorem State.modCore_walkers (c : Nat) (f : CoreState → CoreState) : (s.modCore c f).walkers = s.walkers := rfl
@[simp] theorem State.modCore_tides (c : Nat) (f : CoreState → CoreState) : (s.modCore c f).tides = s.tides := rfl
@[simp] theorem State.modCore_coords (c : Nat) (f : CoreState → CoreState) : (s.modCore c f).coords = s.coords := rfl
@[simp] theorem State.modCore_early (c : Nat) (f : CoreState → CoreState) : (s.modCore c f).early = s.early := rfl
@[simp] theorem State.modCore_earlyOut (c : Nat) (f : CoreState → CoreState) : (s.modCore c f).earlyOut = s.earlyOut := rfl
@[simp] theorem State.modCore_locked (c : Nat) (f : CoreState → CoreState) : (s.modCore c f).locked = s.locked := rfl
@[simp] theorem State.modCore_replicas (c : Nat) (f : CoreState → CoreState) : (s.modCore c f).replicas = s.replicas := rfl
@[simp] theorem State.modCore_outbox (c : Nat) (f : CoreState → CoreState) : (s.modCore c f).outbox = s.outbox := rfl
@[simp] theorem State.modCore_agenda (c : Nat) (f : CoreState → CoreState) : (s.modCore c f).agenda = s.agenda := rfl
@[simp] theorem State.modCore_stalls (c : Nat) (f : CoreState → CoreState) : (s.modCore c f).stalls = s.stalls := rfl
@[simp] theorem State.modCore_refused (c : Nat) (f : CoreState → CoreState) : (s.modCore c f).refused = s.refused := rfl
@[simp] theorem State.modCore_answers (c : Nat) (f : CoreState → CoreState) : (s.modCore c f).answers = s.answers := rfl
@[simp] theorem State.modCore_cur (c : Nat) (f : CoreState → CoreState) : (s.modCore c f).cur = s.cur := rfl
@[simp] theorem State.modCore_turn (c : Nat) (f : CoreState → CoreState) : (s.modCore c f).turn = s.turn := rfl
@[simp] theorem State.modCore_served (c : Nat) (f : CoreState → CoreState) : (s.modCore c f).served = s.served := rfl
@[simp] theorem State.modCore_free (c : Nat) (f : CoreState → CoreState) : (s.modCore c f).free = s.free := rfl
@[simp] theorem State.modCore_nextId (c : Nat) (f : CoreState → CoreState) : (s.modCore c f).nextId = s.nextId := rfl

@[simp] theorem State.modCluster_mem (c : Nat) (f : Cluster → Cluster) : (s.modCluster c f).mem = s.mem := rfl
@[simp] theorem State.modCluster_marks (c : Nat) (f : Cluster → Cluster) : (s.modCluster c f).marks = s.marks := rfl
@[simp] theorem State.modCluster_sys (c : Nat) (f : Cluster → Cluster) : (s.modCluster c f).sys = s.sys := rfl
@[simp] theorem State.modCluster_fabric (c : Nat) (f : Cluster → Cluster) : (s.modCluster c f).fabric = s.fabric := rfl
@[simp] theorem State.modCluster_heads (c : Nat) (f : Cluster → Cluster) : (s.modCluster c f).heads = s.heads := rfl
@[simp] theorem State.modCluster_ctxs (c : Nat) (f : Cluster → Cluster) : (s.modCluster c f).ctxs = s.ctxs := rfl
@[simp] theorem State.modCluster_queues (c : Nat) (f : Cluster → Cluster) : (s.modCluster c f).queues = s.queues := rfl
@[simp] theorem State.modCluster_binds (c : Nat) (f : Cluster → Cluster) : (s.modCluster c f).binds = s.binds := rfl
@[simp] theorem State.modCluster_launches (c : Nat) (f : Cluster → Cluster) : (s.modCluster c f).launches = s.launches := rfl
@[simp] theorem State.modCluster_wgs (c : Nat) (f : Cluster → Cluster) : (s.modCluster c f).wgs = s.wgs := rfl
@[simp] theorem State.modCluster_gangs (c : Nat) (f : Cluster → Cluster) : (s.modCluster c f).gangs = s.gangs := rfl
@[simp] theorem State.modCluster_waves (c : Nat) (f : Cluster → Cluster) : (s.modCluster c f).waves = s.waves := rfl
@[simp] theorem State.modCluster_cores (c : Nat) (f : Cluster → Cluster) : (s.modCluster c f).cores = s.cores := rfl
@[simp] theorem State.modCluster_shuttles (c : Nat) (f : Cluster → Cluster) : (s.modCluster c f).shuttles = s.shuttles := rfl
@[simp] theorem State.modCluster_sorts (c : Nat) (f : Cluster → Cluster) : (s.modCluster c f).sorts = s.sorts := rfl
@[simp] theorem State.modCluster_resolves (c : Nat) (f : Cluster → Cluster) : (s.modCluster c f).resolves = s.resolves := rfl
@[simp] theorem State.modCluster_vresolves (c : Nat) (f : Cluster → Cluster) : (s.modCluster c f).vresolves = s.vresolves := rfl
@[simp] theorem State.modCluster_colls (c : Nat) (f : Cluster → Cluster) : (s.modCluster c f).colls = s.colls := rfl
@[simp] theorem State.modCluster_bins (c : Nat) (f : Cluster → Cluster) : (s.modCluster c f).bins = s.bins := rfl
@[simp] theorem State.modCluster_walkers (c : Nat) (f : Cluster → Cluster) : (s.modCluster c f).walkers = s.walkers := rfl
@[simp] theorem State.modCluster_tides (c : Nat) (f : Cluster → Cluster) : (s.modCluster c f).tides = s.tides := rfl
@[simp] theorem State.modCluster_coords (c : Nat) (f : Cluster → Cluster) : (s.modCluster c f).coords = s.coords := rfl
@[simp] theorem State.modCluster_early (c : Nat) (f : Cluster → Cluster) : (s.modCluster c f).early = s.early := rfl
@[simp] theorem State.modCluster_earlyOut (c : Nat) (f : Cluster → Cluster) : (s.modCluster c f).earlyOut = s.earlyOut := rfl
@[simp] theorem State.modCluster_locked (c : Nat) (f : Cluster → Cluster) : (s.modCluster c f).locked = s.locked := rfl
@[simp] theorem State.modCluster_replicas (c : Nat) (f : Cluster → Cluster) : (s.modCluster c f).replicas = s.replicas := rfl
@[simp] theorem State.modCluster_outbox (c : Nat) (f : Cluster → Cluster) : (s.modCluster c f).outbox = s.outbox := rfl
@[simp] theorem State.modCluster_agenda (c : Nat) (f : Cluster → Cluster) : (s.modCluster c f).agenda = s.agenda := rfl
@[simp] theorem State.modCluster_stalls (c : Nat) (f : Cluster → Cluster) : (s.modCluster c f).stalls = s.stalls := rfl
@[simp] theorem State.modCluster_refused (c : Nat) (f : Cluster → Cluster) : (s.modCluster c f).refused = s.refused := rfl
@[simp] theorem State.modCluster_answers (c : Nat) (f : Cluster → Cluster) : (s.modCluster c f).answers = s.answers := rfl
@[simp] theorem State.modCluster_cur (c : Nat) (f : Cluster → Cluster) : (s.modCluster c f).cur = s.cur := rfl
@[simp] theorem State.modCluster_turn (c : Nat) (f : Cluster → Cluster) : (s.modCluster c f).turn = s.turn := rfl
@[simp] theorem State.modCluster_served (c : Nat) (f : Cluster → Cluster) : (s.modCluster c f).served = s.served := rfl
@[simp] theorem State.modCluster_free (c : Nat) (f : Cluster → Cluster) : (s.modCluster c f).free = s.free := rfl
@[simp] theorem State.modCluster_nextId (c : Nat) (f : Cluster → Cluster) : (s.modCluster c f).nextId = s.nextId := rfl

@[simp] theorem State.modWg_mem (id : Nat) (f : Workgroup → Workgroup) : (s.modWg id f).mem = s.mem := rfl
@[simp] theorem State.modWg_marks (id : Nat) (f : Workgroup → Workgroup) : (s.modWg id f).marks = s.marks := rfl
@[simp] theorem State.modWg_sys (id : Nat) (f : Workgroup → Workgroup) : (s.modWg id f).sys = s.sys := rfl
@[simp] theorem State.modWg_fabric (id : Nat) (f : Workgroup → Workgroup) : (s.modWg id f).fabric = s.fabric := rfl
@[simp] theorem State.modWg_heads (id : Nat) (f : Workgroup → Workgroup) : (s.modWg id f).heads = s.heads := rfl
@[simp] theorem State.modWg_ctxs (id : Nat) (f : Workgroup → Workgroup) : (s.modWg id f).ctxs = s.ctxs := rfl
@[simp] theorem State.modWg_queues (id : Nat) (f : Workgroup → Workgroup) : (s.modWg id f).queues = s.queues := rfl
@[simp] theorem State.modWg_binds (id : Nat) (f : Workgroup → Workgroup) : (s.modWg id f).binds = s.binds := rfl
@[simp] theorem State.modWg_launches (id : Nat) (f : Workgroup → Workgroup) : (s.modWg id f).launches = s.launches := rfl
@[simp] theorem State.modWg_gangs (id : Nat) (f : Workgroup → Workgroup) : (s.modWg id f).gangs = s.gangs := rfl
@[simp] theorem State.modWg_waves (id : Nat) (f : Workgroup → Workgroup) : (s.modWg id f).waves = s.waves := rfl
@[simp] theorem State.modWg_clusters (id : Nat) (f : Workgroup → Workgroup) : (s.modWg id f).clusters = s.clusters := rfl
@[simp] theorem State.modWg_cores (id : Nat) (f : Workgroup → Workgroup) : (s.modWg id f).cores = s.cores := rfl
@[simp] theorem State.modWg_shuttles (id : Nat) (f : Workgroup → Workgroup) : (s.modWg id f).shuttles = s.shuttles := rfl
@[simp] theorem State.modWg_sorts (id : Nat) (f : Workgroup → Workgroup) : (s.modWg id f).sorts = s.sorts := rfl
@[simp] theorem State.modWg_resolves (id : Nat) (f : Workgroup → Workgroup) : (s.modWg id f).resolves = s.resolves := rfl
@[simp] theorem State.modWg_vresolves (id : Nat) (f : Workgroup → Workgroup) : (s.modWg id f).vresolves = s.vresolves := rfl
@[simp] theorem State.modWg_colls (id : Nat) (f : Workgroup → Workgroup) : (s.modWg id f).colls = s.colls := rfl
@[simp] theorem State.modWg_bins (id : Nat) (f : Workgroup → Workgroup) : (s.modWg id f).bins = s.bins := rfl
@[simp] theorem State.modWg_walkers (id : Nat) (f : Workgroup → Workgroup) : (s.modWg id f).walkers = s.walkers := rfl
@[simp] theorem State.modWg_tides (id : Nat) (f : Workgroup → Workgroup) : (s.modWg id f).tides = s.tides := rfl
@[simp] theorem State.modWg_coords (id : Nat) (f : Workgroup → Workgroup) : (s.modWg id f).coords = s.coords := rfl
@[simp] theorem State.modWg_early (id : Nat) (f : Workgroup → Workgroup) : (s.modWg id f).early = s.early := rfl
@[simp] theorem State.modWg_earlyOut (id : Nat) (f : Workgroup → Workgroup) : (s.modWg id f).earlyOut = s.earlyOut := rfl
@[simp] theorem State.modWg_locked (id : Nat) (f : Workgroup → Workgroup) : (s.modWg id f).locked = s.locked := rfl
@[simp] theorem State.modWg_replicas (id : Nat) (f : Workgroup → Workgroup) : (s.modWg id f).replicas = s.replicas := rfl
@[simp] theorem State.modWg_outbox (id : Nat) (f : Workgroup → Workgroup) : (s.modWg id f).outbox = s.outbox := rfl
@[simp] theorem State.modWg_agenda (id : Nat) (f : Workgroup → Workgroup) : (s.modWg id f).agenda = s.agenda := rfl
@[simp] theorem State.modWg_stalls (id : Nat) (f : Workgroup → Workgroup) : (s.modWg id f).stalls = s.stalls := rfl
@[simp] theorem State.modWg_refused (id : Nat) (f : Workgroup → Workgroup) : (s.modWg id f).refused = s.refused := rfl
@[simp] theorem State.modWg_answers (id : Nat) (f : Workgroup → Workgroup) : (s.modWg id f).answers = s.answers := rfl
@[simp] theorem State.modWg_cur (id : Nat) (f : Workgroup → Workgroup) : (s.modWg id f).cur = s.cur := rfl
@[simp] theorem State.modWg_turn (id : Nat) (f : Workgroup → Workgroup) : (s.modWg id f).turn = s.turn := rfl
@[simp] theorem State.modWg_served (id : Nat) (f : Workgroup → Workgroup) : (s.modWg id f).served = s.served := rfl
@[simp] theorem State.modWg_free (id : Nat) (f : Workgroup → Workgroup) : (s.modWg id f).free = s.free := rfl
@[simp] theorem State.modWg_nextId (id : Nat) (f : Workgroup → Workgroup) : (s.modWg id f).nextId = s.nextId := rfl

@[simp] theorem State.modGang_mem (id : Nat) (f : Gang → Gang) : (s.modGang id f).mem = s.mem := rfl
@[simp] theorem State.modGang_marks (id : Nat) (f : Gang → Gang) : (s.modGang id f).marks = s.marks := rfl
@[simp] theorem State.modGang_sys (id : Nat) (f : Gang → Gang) : (s.modGang id f).sys = s.sys := rfl
@[simp] theorem State.modGang_fabric (id : Nat) (f : Gang → Gang) : (s.modGang id f).fabric = s.fabric := rfl
@[simp] theorem State.modGang_heads (id : Nat) (f : Gang → Gang) : (s.modGang id f).heads = s.heads := rfl
@[simp] theorem State.modGang_ctxs (id : Nat) (f : Gang → Gang) : (s.modGang id f).ctxs = s.ctxs := rfl
@[simp] theorem State.modGang_queues (id : Nat) (f : Gang → Gang) : (s.modGang id f).queues = s.queues := rfl
@[simp] theorem State.modGang_binds (id : Nat) (f : Gang → Gang) : (s.modGang id f).binds = s.binds := rfl
@[simp] theorem State.modGang_launches (id : Nat) (f : Gang → Gang) : (s.modGang id f).launches = s.launches := rfl
@[simp] theorem State.modGang_wgs (id : Nat) (f : Gang → Gang) : (s.modGang id f).wgs = s.wgs := rfl
@[simp] theorem State.modGang_waves (id : Nat) (f : Gang → Gang) : (s.modGang id f).waves = s.waves := rfl
@[simp] theorem State.modGang_clusters (id : Nat) (f : Gang → Gang) : (s.modGang id f).clusters = s.clusters := rfl
@[simp] theorem State.modGang_cores (id : Nat) (f : Gang → Gang) : (s.modGang id f).cores = s.cores := rfl
@[simp] theorem State.modGang_shuttles (id : Nat) (f : Gang → Gang) : (s.modGang id f).shuttles = s.shuttles := rfl
@[simp] theorem State.modGang_sorts (id : Nat) (f : Gang → Gang) : (s.modGang id f).sorts = s.sorts := rfl
@[simp] theorem State.modGang_resolves (id : Nat) (f : Gang → Gang) : (s.modGang id f).resolves = s.resolves := rfl
@[simp] theorem State.modGang_vresolves (id : Nat) (f : Gang → Gang) : (s.modGang id f).vresolves = s.vresolves := rfl
@[simp] theorem State.modGang_colls (id : Nat) (f : Gang → Gang) : (s.modGang id f).colls = s.colls := rfl
@[simp] theorem State.modGang_bins (id : Nat) (f : Gang → Gang) : (s.modGang id f).bins = s.bins := rfl
@[simp] theorem State.modGang_walkers (id : Nat) (f : Gang → Gang) : (s.modGang id f).walkers = s.walkers := rfl
@[simp] theorem State.modGang_tides (id : Nat) (f : Gang → Gang) : (s.modGang id f).tides = s.tides := rfl
@[simp] theorem State.modGang_coords (id : Nat) (f : Gang → Gang) : (s.modGang id f).coords = s.coords := rfl
@[simp] theorem State.modGang_early (id : Nat) (f : Gang → Gang) : (s.modGang id f).early = s.early := rfl
@[simp] theorem State.modGang_earlyOut (id : Nat) (f : Gang → Gang) : (s.modGang id f).earlyOut = s.earlyOut := rfl
@[simp] theorem State.modGang_locked (id : Nat) (f : Gang → Gang) : (s.modGang id f).locked = s.locked := rfl
@[simp] theorem State.modGang_replicas (id : Nat) (f : Gang → Gang) : (s.modGang id f).replicas = s.replicas := rfl
@[simp] theorem State.modGang_outbox (id : Nat) (f : Gang → Gang) : (s.modGang id f).outbox = s.outbox := rfl
@[simp] theorem State.modGang_agenda (id : Nat) (f : Gang → Gang) : (s.modGang id f).agenda = s.agenda := rfl
@[simp] theorem State.modGang_stalls (id : Nat) (f : Gang → Gang) : (s.modGang id f).stalls = s.stalls := rfl
@[simp] theorem State.modGang_refused (id : Nat) (f : Gang → Gang) : (s.modGang id f).refused = s.refused := rfl
@[simp] theorem State.modGang_answers (id : Nat) (f : Gang → Gang) : (s.modGang id f).answers = s.answers := rfl
@[simp] theorem State.modGang_cur (id : Nat) (f : Gang → Gang) : (s.modGang id f).cur = s.cur := rfl
@[simp] theorem State.modGang_turn (id : Nat) (f : Gang → Gang) : (s.modGang id f).turn = s.turn := rfl
@[simp] theorem State.modGang_served (id : Nat) (f : Gang → Gang) : (s.modGang id f).served = s.served := rfl
@[simp] theorem State.modGang_free (id : Nat) (f : Gang → Gang) : (s.modGang id f).free = s.free := rfl
@[simp] theorem State.modGang_nextId (id : Nat) (f : Gang → Gang) : (s.modGang id f).nextId = s.nextId := rfl

@[simp] theorem State.modCtx_mem (id : Nat) (f : Context → Context) : (s.modCtx id f).mem = s.mem := rfl
@[simp] theorem State.modCtx_marks (id : Nat) (f : Context → Context) : (s.modCtx id f).marks = s.marks := rfl
@[simp] theorem State.modCtx_sys (id : Nat) (f : Context → Context) : (s.modCtx id f).sys = s.sys := rfl
@[simp] theorem State.modCtx_fabric (id : Nat) (f : Context → Context) : (s.modCtx id f).fabric = s.fabric := rfl
@[simp] theorem State.modCtx_heads (id : Nat) (f : Context → Context) : (s.modCtx id f).heads = s.heads := rfl
@[simp] theorem State.modCtx_queues (id : Nat) (f : Context → Context) : (s.modCtx id f).queues = s.queues := rfl
@[simp] theorem State.modCtx_binds (id : Nat) (f : Context → Context) : (s.modCtx id f).binds = s.binds := rfl
@[simp] theorem State.modCtx_launches (id : Nat) (f : Context → Context) : (s.modCtx id f).launches = s.launches := rfl
@[simp] theorem State.modCtx_wgs (id : Nat) (f : Context → Context) : (s.modCtx id f).wgs = s.wgs := rfl
@[simp] theorem State.modCtx_gangs (id : Nat) (f : Context → Context) : (s.modCtx id f).gangs = s.gangs := rfl
@[simp] theorem State.modCtx_waves (id : Nat) (f : Context → Context) : (s.modCtx id f).waves = s.waves := rfl
@[simp] theorem State.modCtx_clusters (id : Nat) (f : Context → Context) : (s.modCtx id f).clusters = s.clusters := rfl
@[simp] theorem State.modCtx_cores (id : Nat) (f : Context → Context) : (s.modCtx id f).cores = s.cores := rfl
@[simp] theorem State.modCtx_shuttles (id : Nat) (f : Context → Context) : (s.modCtx id f).shuttles = s.shuttles := rfl
@[simp] theorem State.modCtx_sorts (id : Nat) (f : Context → Context) : (s.modCtx id f).sorts = s.sorts := rfl
@[simp] theorem State.modCtx_resolves (id : Nat) (f : Context → Context) : (s.modCtx id f).resolves = s.resolves := rfl
@[simp] theorem State.modCtx_vresolves (id : Nat) (f : Context → Context) : (s.modCtx id f).vresolves = s.vresolves := rfl
@[simp] theorem State.modCtx_colls (id : Nat) (f : Context → Context) : (s.modCtx id f).colls = s.colls := rfl
@[simp] theorem State.modCtx_bins (id : Nat) (f : Context → Context) : (s.modCtx id f).bins = s.bins := rfl
@[simp] theorem State.modCtx_walkers (id : Nat) (f : Context → Context) : (s.modCtx id f).walkers = s.walkers := rfl
@[simp] theorem State.modCtx_tides (id : Nat) (f : Context → Context) : (s.modCtx id f).tides = s.tides := rfl
@[simp] theorem State.modCtx_coords (id : Nat) (f : Context → Context) : (s.modCtx id f).coords = s.coords := rfl
@[simp] theorem State.modCtx_early (id : Nat) (f : Context → Context) : (s.modCtx id f).early = s.early := rfl
@[simp] theorem State.modCtx_earlyOut (id : Nat) (f : Context → Context) : (s.modCtx id f).earlyOut = s.earlyOut := rfl
@[simp] theorem State.modCtx_locked (id : Nat) (f : Context → Context) : (s.modCtx id f).locked = s.locked := rfl
@[simp] theorem State.modCtx_replicas (id : Nat) (f : Context → Context) : (s.modCtx id f).replicas = s.replicas := rfl
@[simp] theorem State.modCtx_outbox (id : Nat) (f : Context → Context) : (s.modCtx id f).outbox = s.outbox := rfl
@[simp] theorem State.modCtx_agenda (id : Nat) (f : Context → Context) : (s.modCtx id f).agenda = s.agenda := rfl
@[simp] theorem State.modCtx_stalls (id : Nat) (f : Context → Context) : (s.modCtx id f).stalls = s.stalls := rfl
@[simp] theorem State.modCtx_refused (id : Nat) (f : Context → Context) : (s.modCtx id f).refused = s.refused := rfl
@[simp] theorem State.modCtx_answers (id : Nat) (f : Context → Context) : (s.modCtx id f).answers = s.answers := rfl
@[simp] theorem State.modCtx_cur (id : Nat) (f : Context → Context) : (s.modCtx id f).cur = s.cur := rfl
@[simp] theorem State.modCtx_turn (id : Nat) (f : Context → Context) : (s.modCtx id f).turn = s.turn := rfl
@[simp] theorem State.modCtx_served (id : Nat) (f : Context → Context) : (s.modCtx id f).served = s.served := rfl
@[simp] theorem State.modCtx_free (id : Nat) (f : Context → Context) : (s.modCtx id f).free = s.free := rfl
@[simp] theorem State.modCtx_nextId (id : Nat) (f : Context → Context) : (s.modCtx id f).nextId = s.nextId := rfl

@[simp] theorem State.modQueue_mem (id : Nat) (f : Queue → Queue) : (s.modQueue id f).mem = s.mem := rfl
@[simp] theorem State.modQueue_marks (id : Nat) (f : Queue → Queue) : (s.modQueue id f).marks = s.marks := rfl
@[simp] theorem State.modQueue_sys (id : Nat) (f : Queue → Queue) : (s.modQueue id f).sys = s.sys := rfl
@[simp] theorem State.modQueue_fabric (id : Nat) (f : Queue → Queue) : (s.modQueue id f).fabric = s.fabric := rfl
@[simp] theorem State.modQueue_heads (id : Nat) (f : Queue → Queue) : (s.modQueue id f).heads = s.heads := rfl
@[simp] theorem State.modQueue_ctxs (id : Nat) (f : Queue → Queue) : (s.modQueue id f).ctxs = s.ctxs := rfl
@[simp] theorem State.modQueue_binds (id : Nat) (f : Queue → Queue) : (s.modQueue id f).binds = s.binds := rfl
@[simp] theorem State.modQueue_launches (id : Nat) (f : Queue → Queue) : (s.modQueue id f).launches = s.launches := rfl
@[simp] theorem State.modQueue_wgs (id : Nat) (f : Queue → Queue) : (s.modQueue id f).wgs = s.wgs := rfl
@[simp] theorem State.modQueue_gangs (id : Nat) (f : Queue → Queue) : (s.modQueue id f).gangs = s.gangs := rfl
@[simp] theorem State.modQueue_waves (id : Nat) (f : Queue → Queue) : (s.modQueue id f).waves = s.waves := rfl
@[simp] theorem State.modQueue_clusters (id : Nat) (f : Queue → Queue) : (s.modQueue id f).clusters = s.clusters := rfl
@[simp] theorem State.modQueue_cores (id : Nat) (f : Queue → Queue) : (s.modQueue id f).cores = s.cores := rfl
@[simp] theorem State.modQueue_shuttles (id : Nat) (f : Queue → Queue) : (s.modQueue id f).shuttles = s.shuttles := rfl
@[simp] theorem State.modQueue_sorts (id : Nat) (f : Queue → Queue) : (s.modQueue id f).sorts = s.sorts := rfl
@[simp] theorem State.modQueue_resolves (id : Nat) (f : Queue → Queue) : (s.modQueue id f).resolves = s.resolves := rfl
@[simp] theorem State.modQueue_vresolves (id : Nat) (f : Queue → Queue) : (s.modQueue id f).vresolves = s.vresolves := rfl
@[simp] theorem State.modQueue_colls (id : Nat) (f : Queue → Queue) : (s.modQueue id f).colls = s.colls := rfl
@[simp] theorem State.modQueue_bins (id : Nat) (f : Queue → Queue) : (s.modQueue id f).bins = s.bins := rfl
@[simp] theorem State.modQueue_walkers (id : Nat) (f : Queue → Queue) : (s.modQueue id f).walkers = s.walkers := rfl
@[simp] theorem State.modQueue_tides (id : Nat) (f : Queue → Queue) : (s.modQueue id f).tides = s.tides := rfl
@[simp] theorem State.modQueue_coords (id : Nat) (f : Queue → Queue) : (s.modQueue id f).coords = s.coords := rfl
@[simp] theorem State.modQueue_early (id : Nat) (f : Queue → Queue) : (s.modQueue id f).early = s.early := rfl
@[simp] theorem State.modQueue_earlyOut (id : Nat) (f : Queue → Queue) : (s.modQueue id f).earlyOut = s.earlyOut := rfl
@[simp] theorem State.modQueue_locked (id : Nat) (f : Queue → Queue) : (s.modQueue id f).locked = s.locked := rfl
@[simp] theorem State.modQueue_replicas (id : Nat) (f : Queue → Queue) : (s.modQueue id f).replicas = s.replicas := rfl
@[simp] theorem State.modQueue_outbox (id : Nat) (f : Queue → Queue) : (s.modQueue id f).outbox = s.outbox := rfl
@[simp] theorem State.modQueue_agenda (id : Nat) (f : Queue → Queue) : (s.modQueue id f).agenda = s.agenda := rfl
@[simp] theorem State.modQueue_stalls (id : Nat) (f : Queue → Queue) : (s.modQueue id f).stalls = s.stalls := rfl
@[simp] theorem State.modQueue_refused (id : Nat) (f : Queue → Queue) : (s.modQueue id f).refused = s.refused := rfl
@[simp] theorem State.modQueue_answers (id : Nat) (f : Queue → Queue) : (s.modQueue id f).answers = s.answers := rfl
@[simp] theorem State.modQueue_cur (id : Nat) (f : Queue → Queue) : (s.modQueue id f).cur = s.cur := rfl
@[simp] theorem State.modQueue_turn (id : Nat) (f : Queue → Queue) : (s.modQueue id f).turn = s.turn := rfl
@[simp] theorem State.modQueue_served (id : Nat) (f : Queue → Queue) : (s.modQueue id f).served = s.served := rfl
@[simp] theorem State.modQueue_free (id : Nat) (f : Queue → Queue) : (s.modQueue id f).free = s.free := rfl
@[simp] theorem State.modQueue_nextId (id : Nat) (f : Queue → Queue) : (s.modQueue id f).nextId = s.nextId := rfl

@[simp] theorem State.modLaunch_mem (k : Nat) (f : Launch → Launch) : (s.modLaunch k f).mem = s.mem := rfl
@[simp] theorem State.modLaunch_marks (k : Nat) (f : Launch → Launch) : (s.modLaunch k f).marks = s.marks := rfl
@[simp] theorem State.modLaunch_sys (k : Nat) (f : Launch → Launch) : (s.modLaunch k f).sys = s.sys := rfl
@[simp] theorem State.modLaunch_fabric (k : Nat) (f : Launch → Launch) : (s.modLaunch k f).fabric = s.fabric := rfl
@[simp] theorem State.modLaunch_heads (k : Nat) (f : Launch → Launch) : (s.modLaunch k f).heads = s.heads := rfl
@[simp] theorem State.modLaunch_ctxs (k : Nat) (f : Launch → Launch) : (s.modLaunch k f).ctxs = s.ctxs := rfl
@[simp] theorem State.modLaunch_queues (k : Nat) (f : Launch → Launch) : (s.modLaunch k f).queues = s.queues := rfl
@[simp] theorem State.modLaunch_binds (k : Nat) (f : Launch → Launch) : (s.modLaunch k f).binds = s.binds := rfl
@[simp] theorem State.modLaunch_wgs (k : Nat) (f : Launch → Launch) : (s.modLaunch k f).wgs = s.wgs := rfl
@[simp] theorem State.modLaunch_gangs (k : Nat) (f : Launch → Launch) : (s.modLaunch k f).gangs = s.gangs := rfl
@[simp] theorem State.modLaunch_waves (k : Nat) (f : Launch → Launch) : (s.modLaunch k f).waves = s.waves := rfl
@[simp] theorem State.modLaunch_clusters (k : Nat) (f : Launch → Launch) : (s.modLaunch k f).clusters = s.clusters := rfl
@[simp] theorem State.modLaunch_cores (k : Nat) (f : Launch → Launch) : (s.modLaunch k f).cores = s.cores := rfl
@[simp] theorem State.modLaunch_shuttles (k : Nat) (f : Launch → Launch) : (s.modLaunch k f).shuttles = s.shuttles := rfl
@[simp] theorem State.modLaunch_sorts (k : Nat) (f : Launch → Launch) : (s.modLaunch k f).sorts = s.sorts := rfl
@[simp] theorem State.modLaunch_resolves (k : Nat) (f : Launch → Launch) : (s.modLaunch k f).resolves = s.resolves := rfl
@[simp] theorem State.modLaunch_vresolves (k : Nat) (f : Launch → Launch) : (s.modLaunch k f).vresolves = s.vresolves := rfl
@[simp] theorem State.modLaunch_colls (k : Nat) (f : Launch → Launch) : (s.modLaunch k f).colls = s.colls := rfl
@[simp] theorem State.modLaunch_bins (k : Nat) (f : Launch → Launch) : (s.modLaunch k f).bins = s.bins := rfl
@[simp] theorem State.modLaunch_walkers (k : Nat) (f : Launch → Launch) : (s.modLaunch k f).walkers = s.walkers := rfl
@[simp] theorem State.modLaunch_tides (k : Nat) (f : Launch → Launch) : (s.modLaunch k f).tides = s.tides := rfl
@[simp] theorem State.modLaunch_coords (k : Nat) (f : Launch → Launch) : (s.modLaunch k f).coords = s.coords := rfl
@[simp] theorem State.modLaunch_early (k : Nat) (f : Launch → Launch) : (s.modLaunch k f).early = s.early := rfl
@[simp] theorem State.modLaunch_earlyOut (k : Nat) (f : Launch → Launch) : (s.modLaunch k f).earlyOut = s.earlyOut := rfl
@[simp] theorem State.modLaunch_locked (k : Nat) (f : Launch → Launch) : (s.modLaunch k f).locked = s.locked := rfl
@[simp] theorem State.modLaunch_replicas (k : Nat) (f : Launch → Launch) : (s.modLaunch k f).replicas = s.replicas := rfl
@[simp] theorem State.modLaunch_outbox (k : Nat) (f : Launch → Launch) : (s.modLaunch k f).outbox = s.outbox := rfl
@[simp] theorem State.modLaunch_agenda (k : Nat) (f : Launch → Launch) : (s.modLaunch k f).agenda = s.agenda := rfl
@[simp] theorem State.modLaunch_stalls (k : Nat) (f : Launch → Launch) : (s.modLaunch k f).stalls = s.stalls := rfl
@[simp] theorem State.modLaunch_refused (k : Nat) (f : Launch → Launch) : (s.modLaunch k f).refused = s.refused := rfl
@[simp] theorem State.modLaunch_answers (k : Nat) (f : Launch → Launch) : (s.modLaunch k f).answers = s.answers := rfl
@[simp] theorem State.modLaunch_cur (k : Nat) (f : Launch → Launch) : (s.modLaunch k f).cur = s.cur := rfl
@[simp] theorem State.modLaunch_turn (k : Nat) (f : Launch → Launch) : (s.modLaunch k f).turn = s.turn := rfl
@[simp] theorem State.modLaunch_served (k : Nat) (f : Launch → Launch) : (s.modLaunch k f).served = s.served := rfl
@[simp] theorem State.modLaunch_free (k : Nat) (f : Launch → Launch) : (s.modLaunch k f).free = s.free := rfl
@[simp] theorem State.modLaunch_nextId (k : Nat) (f : Launch → Launch) : (s.modLaunch k f).nextId = s.nextId := rfl

@[simp] theorem State.emit_mem (o : Out) : (s.emit o).mem = s.mem := rfl
@[simp] theorem State.emit_marks (o : Out) : (s.emit o).marks = s.marks := rfl
@[simp] theorem State.emit_sys (o : Out) : (s.emit o).sys = s.sys := rfl
@[simp] theorem State.emit_fabric (o : Out) : (s.emit o).fabric = s.fabric := rfl
@[simp] theorem State.emit_heads (o : Out) : (s.emit o).heads = s.heads := rfl
@[simp] theorem State.emit_ctxs (o : Out) : (s.emit o).ctxs = s.ctxs := rfl
@[simp] theorem State.emit_queues (o : Out) : (s.emit o).queues = s.queues := rfl
@[simp] theorem State.emit_binds (o : Out) : (s.emit o).binds = s.binds := rfl
@[simp] theorem State.emit_launches (o : Out) : (s.emit o).launches = s.launches := rfl
@[simp] theorem State.emit_wgs (o : Out) : (s.emit o).wgs = s.wgs := rfl
@[simp] theorem State.emit_gangs (o : Out) : (s.emit o).gangs = s.gangs := rfl
@[simp] theorem State.emit_waves (o : Out) : (s.emit o).waves = s.waves := rfl
@[simp] theorem State.emit_clusters (o : Out) : (s.emit o).clusters = s.clusters := rfl
@[simp] theorem State.emit_cores (o : Out) : (s.emit o).cores = s.cores := rfl
@[simp] theorem State.emit_shuttles (o : Out) : (s.emit o).shuttles = s.shuttles := rfl
@[simp] theorem State.emit_sorts (o : Out) : (s.emit o).sorts = s.sorts := rfl
@[simp] theorem State.emit_resolves (o : Out) : (s.emit o).resolves = s.resolves := rfl
@[simp] theorem State.emit_vresolves (o : Out) : (s.emit o).vresolves = s.vresolves := rfl
@[simp] theorem State.emit_colls (o : Out) : (s.emit o).colls = s.colls := rfl
@[simp] theorem State.emit_bins (o : Out) : (s.emit o).bins = s.bins := rfl
@[simp] theorem State.emit_walkers (o : Out) : (s.emit o).walkers = s.walkers := rfl
@[simp] theorem State.emit_tides (o : Out) : (s.emit o).tides = s.tides := rfl
@[simp] theorem State.emit_coords (o : Out) : (s.emit o).coords = s.coords := rfl
@[simp] theorem State.emit_early (o : Out) : (s.emit o).early = s.early := rfl
@[simp] theorem State.emit_earlyOut (o : Out) : (s.emit o).earlyOut = s.earlyOut := rfl
@[simp] theorem State.emit_locked (o : Out) : (s.emit o).locked = s.locked := rfl
@[simp] theorem State.emit_replicas (o : Out) : (s.emit o).replicas = s.replicas := rfl
@[simp] theorem State.emit_agenda (o : Out) : (s.emit o).agenda = s.agenda := rfl
@[simp] theorem State.emit_stalls (o : Out) : (s.emit o).stalls = s.stalls := rfl
@[simp] theorem State.emit_refused (o : Out) : (s.emit o).refused = s.refused := rfl
@[simp] theorem State.emit_answers (o : Out) : (s.emit o).answers = s.answers := rfl
@[simp] theorem State.emit_cur (o : Out) : (s.emit o).cur = s.cur := rfl
@[simp] theorem State.emit_turn (o : Out) : (s.emit o).turn = s.turn := rfl
@[simp] theorem State.emit_served (o : Out) : (s.emit o).served = s.served := rfl
@[simp] theorem State.emit_free (o : Out) : (s.emit o).free = s.free := rfl
@[simp] theorem State.emit_nextId (o : Out) : (s.emit o).nextId = s.nextId := rfl

@[simp] theorem State.newId_mem : (s.newId.2).mem = s.mem := rfl
@[simp] theorem State.newId_marks : (s.newId.2).marks = s.marks := rfl
@[simp] theorem State.newId_sys : (s.newId.2).sys = s.sys := rfl
@[simp] theorem State.newId_fabric : (s.newId.2).fabric = s.fabric := rfl
@[simp] theorem State.newId_heads : (s.newId.2).heads = s.heads := rfl
@[simp] theorem State.newId_ctxs : (s.newId.2).ctxs = s.ctxs := rfl
@[simp] theorem State.newId_queues : (s.newId.2).queues = s.queues := rfl
@[simp] theorem State.newId_binds : (s.newId.2).binds = s.binds := rfl
@[simp] theorem State.newId_launches : (s.newId.2).launches = s.launches := rfl
@[simp] theorem State.newId_wgs : (s.newId.2).wgs = s.wgs := rfl
@[simp] theorem State.newId_gangs : (s.newId.2).gangs = s.gangs := rfl
@[simp] theorem State.newId_waves : (s.newId.2).waves = s.waves := rfl
@[simp] theorem State.newId_clusters : (s.newId.2).clusters = s.clusters := rfl
@[simp] theorem State.newId_cores : (s.newId.2).cores = s.cores := rfl
@[simp] theorem State.newId_shuttles : (s.newId.2).shuttles = s.shuttles := rfl
@[simp] theorem State.newId_sorts : (s.newId.2).sorts = s.sorts := rfl
@[simp] theorem State.newId_resolves : (s.newId.2).resolves = s.resolves := rfl
@[simp] theorem State.newId_vresolves : (s.newId.2).vresolves = s.vresolves := rfl
@[simp] theorem State.newId_colls : (s.newId.2).colls = s.colls := rfl
@[simp] theorem State.newId_bins : (s.newId.2).bins = s.bins := rfl
@[simp] theorem State.newId_walkers : (s.newId.2).walkers = s.walkers := rfl
@[simp] theorem State.newId_tides : (s.newId.2).tides = s.tides := rfl
@[simp] theorem State.newId_coords : (s.newId.2).coords = s.coords := rfl
@[simp] theorem State.newId_early : (s.newId.2).early = s.early := rfl
@[simp] theorem State.newId_earlyOut : (s.newId.2).earlyOut = s.earlyOut := rfl
@[simp] theorem State.newId_locked : (s.newId.2).locked = s.locked := rfl
@[simp] theorem State.newId_replicas : (s.newId.2).replicas = s.replicas := rfl
@[simp] theorem State.newId_outbox : (s.newId.2).outbox = s.outbox := rfl
@[simp] theorem State.newId_agenda : (s.newId.2).agenda = s.agenda := rfl
@[simp] theorem State.newId_stalls : (s.newId.2).stalls = s.stalls := rfl
@[simp] theorem State.newId_refused : (s.newId.2).refused = s.refused := rfl
@[simp] theorem State.newId_answers : (s.newId.2).answers = s.answers := rfl
@[simp] theorem State.newId_cur : (s.newId.2).cur = s.cur := rfl
@[simp] theorem State.newId_turn : (s.newId.2).turn = s.turn := rfl
@[simp] theorem State.newId_served : (s.newId.2).served = s.served := rfl
@[simp] theorem State.newId_free : (s.newId.2).free = s.free := rfl

@[simp] theorem State.fresh_mem : (s.fresh.2).mem = s.mem := rfl
@[simp] theorem State.fresh_marks : (s.fresh.2).marks = s.marks := rfl
@[simp] theorem State.fresh_sys : (s.fresh.2).sys = s.sys := rfl
@[simp] theorem State.fresh_fabric : (s.fresh.2).fabric = s.fabric := rfl
@[simp] theorem State.fresh_heads : (s.fresh.2).heads = s.heads := rfl
@[simp] theorem State.fresh_ctxs : (s.fresh.2).ctxs = s.ctxs := rfl
@[simp] theorem State.fresh_queues : (s.fresh.2).queues = s.queues := rfl
@[simp] theorem State.fresh_binds : (s.fresh.2).binds = s.binds := rfl
@[simp] theorem State.fresh_launches : (s.fresh.2).launches = s.launches := rfl
@[simp] theorem State.fresh_wgs : (s.fresh.2).wgs = s.wgs := rfl
@[simp] theorem State.fresh_gangs : (s.fresh.2).gangs = s.gangs := rfl
@[simp] theorem State.fresh_waves : (s.fresh.2).waves = s.waves := rfl
@[simp] theorem State.fresh_clusters : (s.fresh.2).clusters = s.clusters := rfl
@[simp] theorem State.fresh_cores : (s.fresh.2).cores = s.cores := rfl
@[simp] theorem State.fresh_shuttles : (s.fresh.2).shuttles = s.shuttles := rfl
@[simp] theorem State.fresh_sorts : (s.fresh.2).sorts = s.sorts := rfl
@[simp] theorem State.fresh_resolves : (s.fresh.2).resolves = s.resolves := rfl
@[simp] theorem State.fresh_vresolves : (s.fresh.2).vresolves = s.vresolves := rfl
@[simp] theorem State.fresh_colls : (s.fresh.2).colls = s.colls := rfl
@[simp] theorem State.fresh_bins : (s.fresh.2).bins = s.bins := rfl
@[simp] theorem State.fresh_walkers : (s.fresh.2).walkers = s.walkers := rfl
@[simp] theorem State.fresh_tides : (s.fresh.2).tides = s.tides := rfl
@[simp] theorem State.fresh_coords : (s.fresh.2).coords = s.coords := rfl
@[simp] theorem State.fresh_early : (s.fresh.2).early = s.early := rfl
@[simp] theorem State.fresh_earlyOut : (s.fresh.2).earlyOut = s.earlyOut := rfl
@[simp] theorem State.fresh_locked : (s.fresh.2).locked = s.locked := rfl
@[simp] theorem State.fresh_replicas : (s.fresh.2).replicas = s.replicas := rfl
@[simp] theorem State.fresh_outbox : (s.fresh.2).outbox = s.outbox := rfl
@[simp] theorem State.fresh_agenda : (s.fresh.2).agenda = s.agenda := rfl
@[simp] theorem State.fresh_stalls : (s.fresh.2).stalls = s.stalls := rfl
@[simp] theorem State.fresh_refused : (s.fresh.2).refused = s.refused := rfl
@[simp] theorem State.fresh_answers : (s.fresh.2).answers = s.answers := rfl
@[simp] theorem State.fresh_cur : (s.fresh.2).cur = s.cur := rfl
@[simp] theorem State.fresh_turn : (s.fresh.2).turn = s.turn := rfl
@[simp] theorem State.fresh_served : (s.fresh.2).served = s.served := rfl
@[simp] theorem State.fresh_nextId : (s.fresh.2).nextId = s.nextId := rfl

@[simp] theorem State.modWave_wave (id : Nat) (f : Wave → Wave) (k : Nat) :
    (s.modWave id f).wave k = if id = k then f (s.wave id) else s.wave k := by
  simp only [State.wave, State.modWave, tgetD_tput]
@[simp] theorem State.modCore_core (c : Nat) (f : CoreState → CoreState) (k : Nat) :
    (s.modCore c f).core k = if c = k then f (s.core c) else s.core k := by
  simp only [State.core, State.modCore, tgetD_tput]
@[simp] theorem State.modCluster_cluster (c : Nat) (f : Cluster → Cluster) (k : Nat) :
    (s.modCluster c f).cluster k = if c = k then f (s.cluster c) else s.cluster k := by
  simp only [State.cluster, State.modCluster, tgetD_tput]
@[simp] theorem State.emit_outbox (o : Out) : (s.emit o).outbox = s.outbox ++ [o] := rfl
@[simp] theorem State.newId_nextId : s.newId.2.nextId = s.nextId + 1 := rfl
@[simp] theorem State.newId_id : s.newId.1 = s.nextId := rfl
@[simp] theorem State.fresh_free : s.fresh.2.free = s.free + 1 := rfl

/-! ### Through `wave` and `core` -/

@[simp] theorem State.modWave_core_eq (id : Nat) (f : Wave → Wave) (k : Nat) : (s.modWave id f).core k = s.core k := rfl
@[simp] theorem State.modCore_wave_eq (c : Nat) (f : CoreState → CoreState) (k : Nat) : (s.modCore c f).wave k = s.wave k := rfl
@[simp] theorem State.modCluster_wave_eq (c : Nat) (f : Cluster → Cluster) (k : Nat) : (s.modCluster c f).wave k = s.wave k := rfl
@[simp] theorem State.modCluster_core_eq (c : Nat) (f : Cluster → Cluster) (k : Nat) : (s.modCluster c f).core k = s.core k := rfl
@[simp] theorem State.modWg_wave_eq (id : Nat) (f : Workgroup → Workgroup) (k : Nat) : (s.modWg id f).wave k = s.wave k := rfl
@[simp] theorem State.modWg_core_eq (id : Nat) (f : Workgroup → Workgroup) (k : Nat) : (s.modWg id f).core k = s.core k := rfl
@[simp] theorem State.modGang_wave_eq (id : Nat) (f : Gang → Gang) (k : Nat) : (s.modGang id f).wave k = s.wave k := rfl
@[simp] theorem State.modGang_core_eq (id : Nat) (f : Gang → Gang) (k : Nat) : (s.modGang id f).core k = s.core k := rfl
@[simp] theorem State.modCtx_wave_eq (id : Nat) (f : Context → Context) (k : Nat) : (s.modCtx id f).wave k = s.wave k := rfl
@[simp] theorem State.modCtx_core_eq (id : Nat) (f : Context → Context) (k : Nat) : (s.modCtx id f).core k = s.core k := rfl
@[simp] theorem State.modQueue_wave_eq (id : Nat) (f : Queue → Queue) (k : Nat) : (s.modQueue id f).wave k = s.wave k := rfl
@[simp] theorem State.modQueue_core_eq (id : Nat) (f : Queue → Queue) (k : Nat) : (s.modQueue id f).core k = s.core k := rfl
@[simp] theorem State.modLaunch_wave_eq (id : Nat) (f : Launch → Launch) (k : Nat) : (s.modLaunch id f).wave k = s.wave k := rfl
@[simp] theorem State.modLaunch_core_eq (id : Nat) (f : Launch → Launch) (k : Nat) : (s.modLaunch id f).core k = s.core k := rfl
@[simp] theorem State.emit_wave_eq (o : Out) (k : Nat) : (s.emit o).wave k = s.wave k := rfl
@[simp] theorem State.emit_core_eq (o : Out) (k : Nat) : (s.emit o).core k = s.core k := rfl
@[simp] theorem State.newId_wave_eq (k : Nat) : (s.newId.2).wave k = s.wave k := rfl
@[simp] theorem State.newId_core_eq (k : Nat) : (s.newId.2).core k = s.core k := rfl
@[simp] theorem State.fresh_wave_eq (k : Nat) : (s.fresh.2).wave k = s.wave k := rfl
@[simp] theorem State.fresh_core_eq (k : Nat) : (s.fresh.2).core k = s.core k := rfl

/-! ### Bytes written -/

@[simp] theorem State.writeAt_fabric (k : Nat) (bs : List Byte) : (s.writeAt k bs).fabric = s.fabric := by
  simp only [State.writeAt, State.healLines, State.markLines]; split <;> rfl
@[simp] theorem State.writeCells_fabric (cs : Table Byte) : (s.writeCells cs).fabric = s.fabric := rfl
@[simp] theorem State.writeAt_heads (k : Nat) (bs : List Byte) : (s.writeAt k bs).heads = s.heads := by
  simp only [State.writeAt, State.healLines, State.markLines]; split <;> rfl
@[simp] theorem State.writeCells_heads (cs : Table Byte) : (s.writeCells cs).heads = s.heads := rfl
@[simp] theorem State.writeAt_ctxs (k : Nat) (bs : List Byte) : (s.writeAt k bs).ctxs = s.ctxs := by
  simp only [State.writeAt, State.healLines, State.markLines]; split <;> rfl
@[simp] theorem State.writeCells_ctxs (cs : Table Byte) : (s.writeCells cs).ctxs = s.ctxs := rfl
@[simp] theorem State.writeAt_queues (k : Nat) (bs : List Byte) : (s.writeAt k bs).queues = s.queues := by
  simp only [State.writeAt, State.healLines, State.markLines]; split <;> rfl
@[simp] theorem State.writeCells_queues (cs : Table Byte) : (s.writeCells cs).queues = s.queues := rfl
@[simp] theorem State.writeAt_binds (k : Nat) (bs : List Byte) : (s.writeAt k bs).binds = s.binds := by
  simp only [State.writeAt, State.healLines, State.markLines]; split <;> rfl
@[simp] theorem State.writeCells_binds (cs : Table Byte) : (s.writeCells cs).binds = s.binds := rfl
@[simp] theorem State.writeAt_launches (k : Nat) (bs : List Byte) : (s.writeAt k bs).launches = s.launches := by
  simp only [State.writeAt, State.healLines, State.markLines]; split <;> rfl
@[simp] theorem State.writeCells_launches (cs : Table Byte) : (s.writeCells cs).launches = s.launches := rfl
@[simp] theorem State.writeAt_wgs (k : Nat) (bs : List Byte) : (s.writeAt k bs).wgs = s.wgs := by
  simp only [State.writeAt, State.healLines, State.markLines]; split <;> rfl
@[simp] theorem State.writeCells_wgs (cs : Table Byte) : (s.writeCells cs).wgs = s.wgs := rfl
@[simp] theorem State.writeAt_gangs (k : Nat) (bs : List Byte) : (s.writeAt k bs).gangs = s.gangs := by
  simp only [State.writeAt, State.healLines, State.markLines]; split <;> rfl
@[simp] theorem State.writeCells_gangs (cs : Table Byte) : (s.writeCells cs).gangs = s.gangs := rfl
@[simp] theorem State.writeAt_waves (k : Nat) (bs : List Byte) : (s.writeAt k bs).waves = s.waves := by
  simp only [State.writeAt, State.healLines, State.markLines]; split <;> rfl
@[simp] theorem State.writeCells_waves (cs : Table Byte) : (s.writeCells cs).waves = s.waves := rfl
@[simp] theorem State.writeAt_clusters (k : Nat) (bs : List Byte) : (s.writeAt k bs).clusters = s.clusters := by
  simp only [State.writeAt, State.healLines, State.markLines]; split <;> rfl
@[simp] theorem State.writeCells_clusters (cs : Table Byte) : (s.writeCells cs).clusters = s.clusters := rfl
@[simp] theorem State.writeAt_cores (k : Nat) (bs : List Byte) : (s.writeAt k bs).cores = s.cores := by
  simp only [State.writeAt, State.healLines, State.markLines]; split <;> rfl
@[simp] theorem State.writeCells_cores (cs : Table Byte) : (s.writeCells cs).cores = s.cores := rfl
@[simp] theorem State.writeAt_shuttles (k : Nat) (bs : List Byte) : (s.writeAt k bs).shuttles = s.shuttles := by
  simp only [State.writeAt, State.healLines, State.markLines]; split <;> rfl
@[simp] theorem State.writeCells_shuttles (cs : Table Byte) : (s.writeCells cs).shuttles = s.shuttles := rfl
@[simp] theorem State.writeAt_sorts (k : Nat) (bs : List Byte) : (s.writeAt k bs).sorts = s.sorts := by
  simp only [State.writeAt, State.healLines, State.markLines]; split <;> rfl
@[simp] theorem State.writeCells_sorts (cs : Table Byte) : (s.writeCells cs).sorts = s.sorts := rfl
@[simp] theorem State.writeAt_resolves (k : Nat) (bs : List Byte) : (s.writeAt k bs).resolves = s.resolves := by
  simp only [State.writeAt, State.healLines, State.markLines]; split <;> rfl
@[simp] theorem State.writeCells_resolves (cs : Table Byte) : (s.writeCells cs).resolves = s.resolves := rfl
@[simp] theorem State.writeAt_vresolves (k : Nat) (bs : List Byte) : (s.writeAt k bs).vresolves = s.vresolves := by
  simp only [State.writeAt, State.healLines, State.markLines]; split <;> rfl
@[simp] theorem State.writeCells_vresolves (cs : Table Byte) : (s.writeCells cs).vresolves = s.vresolves := rfl
@[simp] theorem State.writeAt_colls (k : Nat) (bs : List Byte) : (s.writeAt k bs).colls = s.colls := by
  simp only [State.writeAt, State.healLines, State.markLines]; split <;> rfl
@[simp] theorem State.writeCells_colls (cs : Table Byte) : (s.writeCells cs).colls = s.colls := rfl
@[simp] theorem State.writeAt_bins (k : Nat) (bs : List Byte) : (s.writeAt k bs).bins = s.bins := by
  simp only [State.writeAt, State.healLines, State.markLines]; split <;> rfl
@[simp] theorem State.writeCells_bins (cs : Table Byte) : (s.writeCells cs).bins = s.bins := rfl
@[simp] theorem State.writeAt_walkers (k : Nat) (bs : List Byte) : (s.writeAt k bs).walkers = s.walkers := by
  simp only [State.writeAt, State.healLines, State.markLines]; split <;> rfl
@[simp] theorem State.writeCells_walkers (cs : Table Byte) : (s.writeCells cs).walkers = s.walkers := rfl
@[simp] theorem State.writeAt_tides (k : Nat) (bs : List Byte) : (s.writeAt k bs).tides = s.tides := by
  simp only [State.writeAt, State.healLines, State.markLines]; split <;> rfl
@[simp] theorem State.writeCells_tides (cs : Table Byte) : (s.writeCells cs).tides = s.tides := rfl
@[simp] theorem State.writeAt_coords (k : Nat) (bs : List Byte) : (s.writeAt k bs).coords = s.coords := by
  simp only [State.writeAt, State.healLines, State.markLines]; split <;> rfl
@[simp] theorem State.writeCells_coords (cs : Table Byte) : (s.writeCells cs).coords = s.coords := rfl
@[simp] theorem State.writeAt_early (k : Nat) (bs : List Byte) : (s.writeAt k bs).early = s.early := by
  simp only [State.writeAt, State.healLines, State.markLines]; split <;> rfl
@[simp] theorem State.writeCells_early (cs : Table Byte) : (s.writeCells cs).early = s.early := rfl
@[simp] theorem State.writeAt_earlyOut (k : Nat) (bs : List Byte) : (s.writeAt k bs).earlyOut = s.earlyOut := by
  simp only [State.writeAt, State.healLines, State.markLines]; split <;> rfl
@[simp] theorem State.writeCells_earlyOut (cs : Table Byte) : (s.writeCells cs).earlyOut = s.earlyOut := rfl
@[simp] theorem State.writeAt_locked (k : Nat) (bs : List Byte) : (s.writeAt k bs).locked = s.locked := by
  simp only [State.writeAt, State.healLines, State.markLines]; split <;> rfl
@[simp] theorem State.writeCells_locked (cs : Table Byte) : (s.writeCells cs).locked = s.locked := rfl
@[simp] theorem State.writeAt_replicas (k : Nat) (bs : List Byte) : (s.writeAt k bs).replicas = s.replicas := by
  simp only [State.writeAt, State.healLines, State.markLines]; split <;> rfl
@[simp] theorem State.writeCells_replicas (cs : Table Byte) : (s.writeCells cs).replicas = s.replicas := rfl
@[simp] theorem State.writeAt_outbox (k : Nat) (bs : List Byte) : (s.writeAt k bs).outbox = s.outbox := by
  simp only [State.writeAt, State.healLines, State.markLines]; split <;> rfl
@[simp] theorem State.writeCells_outbox (cs : Table Byte) : (s.writeCells cs).outbox = s.outbox := rfl
@[simp] theorem State.writeAt_agenda (k : Nat) (bs : List Byte) : (s.writeAt k bs).agenda = s.agenda := by
  simp only [State.writeAt, State.healLines, State.markLines]; split <;> rfl
@[simp] theorem State.writeCells_agenda (cs : Table Byte) : (s.writeCells cs).agenda = s.agenda := rfl
@[simp] theorem State.writeAt_stalls (k : Nat) (bs : List Byte) : (s.writeAt k bs).stalls = s.stalls := by
  simp only [State.writeAt, State.healLines, State.markLines]; split <;> rfl
@[simp] theorem State.writeCells_stalls (cs : Table Byte) : (s.writeCells cs).stalls = s.stalls := rfl
@[simp] theorem State.writeAt_refused (k : Nat) (bs : List Byte) : (s.writeAt k bs).refused = s.refused := by
  simp only [State.writeAt, State.healLines, State.markLines]; split <;> rfl
@[simp] theorem State.writeCells_refused (cs : Table Byte) : (s.writeCells cs).refused = s.refused := rfl
@[simp] theorem State.writeAt_answers (k : Nat) (bs : List Byte) : (s.writeAt k bs).answers = s.answers := by
  simp only [State.writeAt, State.healLines, State.markLines]; split <;> rfl
@[simp] theorem State.writeCells_answers (cs : Table Byte) : (s.writeCells cs).answers = s.answers := rfl
@[simp] theorem State.writeAt_cur (k : Nat) (bs : List Byte) : (s.writeAt k bs).cur = s.cur := by
  simp only [State.writeAt, State.healLines, State.markLines]; split <;> rfl
@[simp] theorem State.writeCells_cur (cs : Table Byte) : (s.writeCells cs).cur = s.cur := rfl
@[simp] theorem State.writeAt_turn (k : Nat) (bs : List Byte) : (s.writeAt k bs).turn = s.turn := by
  simp only [State.writeAt, State.healLines, State.markLines]; split <;> rfl
@[simp] theorem State.writeCells_turn (cs : Table Byte) : (s.writeCells cs).turn = s.turn := rfl
@[simp] theorem State.writeAt_served (k : Nat) (bs : List Byte) : (s.writeAt k bs).served = s.served := by
  simp only [State.writeAt, State.healLines, State.markLines]; split <;> rfl
@[simp] theorem State.writeCells_served (cs : Table Byte) : (s.writeCells cs).served = s.served := rfl
@[simp] theorem State.writeAt_free (k : Nat) (bs : List Byte) : (s.writeAt k bs).free = s.free := by
  simp only [State.writeAt, State.healLines, State.markLines]; split <;> rfl
@[simp] theorem State.writeCells_free (cs : Table Byte) : (s.writeCells cs).free = s.free := rfl
@[simp] theorem State.writeAt_nextId (k : Nat) (bs : List Byte) : (s.writeAt k bs).nextId = s.nextId := by
  simp only [State.writeAt, State.healLines, State.markLines]; split <;> rfl
@[simp] theorem State.writeCells_nextId (cs : Table Byte) : (s.writeCells cs).nextId = s.nextId := rfl
@[simp] theorem State.writeAt_mem (k : Nat) (bs : List Byte) : (s.writeAt k bs).mem = memWrite s.mem k bs := by
  simp only [State.writeAt, State.healLines, State.markLines]; split <;> rfl
@[simp] theorem State.writeAt_wave (k : Nat) (bs : List Byte) (i : Nat) : (s.writeAt k bs).wave i = s.wave i := by
  simp [State.wave]
@[simp] theorem State.writeAt_core (k : Nat) (bs : List Byte) (i : Nat) : (s.writeAt k bs).core i = s.core i := by
  simp [State.core]

end Sys2Proof.Machine
end

