-- ==== Sys2Proof/Laws/Issue.lean ====
section
/-! SUPPORT. The issue of an instruction: what an environment says, what the registers of a wave read after a write, and
what the shared ends of an issue and the ALU operand forms do. -/

namespace Sys2Proof.Machine

/-! ### Lanes -/

@[simp] theorem mem_lanesOf {m : LaneMask} {l : Nat} : l ∈ lanesOf m ↔ l < 32 ∧ m.getLsbD l = true := by
  simp [lanesOf, allLanes]

theorem lanesOf_zero : lanesOf 0 = [] := by decide

/-! ### Registers after a write -/

namespace Wave
variable {w : Wave}

theorem pc_setPc (h : rising w.vpc) (l k : Nat) (x : DWord) : (w.setPc l x).pc k = if l = k then x else w.pc k := by
  simp only [pc, setPc, tgetD_tsetD h]

theorem vreg_setV (h : rising w.v) (n l m k : Nat) (x : Word) :
    (w.setV n l x).vreg m k = if n * 32 + l = m * 32 + k then x else w.vreg m k := by
  simp only [vreg, setV, tgetD_tsetD h]

theorem sreg_setS (h : rising w.s) (n m : Nat) (x : DWord) : (w.setS n x).sreg m = if n = m then x else w.sreg m := by
  simp only [sreg, setS, tgetD_tsetD h]

theorem freg_setF (h : rising w.f) (n m : Nat) (x : Word) : (w.setF n x).freg m = if n = m then x else w.freg m := by
  simp only [freg, setF, tgetD_tsetD h]

theorem preg_setP (h : rising w.p) (n m : Nat) (k x : LaneMask) :
    (w.setP n k x).preg m = if n = m ∧ n ≠ 15 then (w.preg n &&& ~~~k) ||| (x &&& k) else w.preg m := by
  by_cases hn : n = 15
  · simp [setP, hn]
  · simp only [setP, hn, if_false]
    by_cases hm : m = 15
    · subst hm
      have : n ≠ 15 := hn
      simp [preg, this]
    · by_cases he : n = m
      · subst he; simp [preg, hm, tgetD_tsetD h]
      · simp [preg, hm, tgetD_tsetD h, he]

theorem rising_setPc (h : rising w.vpc) (l : Nat) (x : DWord) : rising (w.setPc l x).vpc := rising_tsetD h _ _ _
theorem rising_setV (h : rising w.v) (n l : Nat) (x : Word) : rising (w.setV n l x).v := rising_tsetD h _ _ _

end Wave

/-! ### The environment -/

theorem env_wave {s : State} {g : Guard} {e : Env} (h : s.env? g = some e) : tget? s.waves s.cur = some e.w := by
  simp only [State.env?, Option.bind_eq_bind, Option.bind_eq_some_iff] at h
  obtain ⟨w, hw, wg, _, L, _, H, _, c, _, q, _, h⟩ := h
  split at h
  · cases h
  · cases h; exact hw

theorem env_id {s : State} {g : Guard} {e : Env} (h : s.env? g = some e) : e.id = s.cur := by
  simp only [State.env?, Option.bind_eq_bind, Option.bind_eq_some_iff] at h
  obtain ⟨w, hw, wg, _, L, _, H, _, c, _, q, _, h⟩ := h
  split at h
  · cases h
  · cases h; rfl

theorem env_wg {s : State} {g : Guard} {e : Env} (h : s.env? g = some e) : tget? s.wgs e.wgId = some e.wg ∧ e.wgId = wgOf e.id := by
  simp only [State.env?, Option.bind_eq_bind, Option.bind_eq_some_iff] at h
  obtain ⟨w, hw, wg, hwg, L, _, H, _, c, _, q, _, h⟩ := h
  split at h
  · cases h
  · cases h; exact ⟨hwg, rfl⟩

theorem env_launch {s : State} {g : Guard} {e : Env} (h : s.env? g = some e) :
    tget? s.launches e.wg.launch = some e.L ∧ e.L.header = some e.H ∧ e.ctx = e.L.ctx ∧
    ∃ c, tget? s.ctxs e.ctx = some c ∧ e.c = c.seenBy s e.L := by
  simp only [State.env?, Option.bind_eq_bind, Option.bind_eq_some_iff] at h
  obtain ⟨w, hw, wg, hwg, L, hL, H, hH, c, hc, q, _, h⟩ := h
  split at h
  · cases h
  · cases h; exact ⟨hL, hH, rfl, c, hc, rfl⟩

theorem env_masks {s : State} {g : Guard} {e : Env} (h : s.env? g = some e) :
    e.issuing = e.w.issuingMask ∧ e.issuing ≠ 0 ∧ e.enabled = e.issuing &&& e.w.guardMask g ∧
    e.active = e.enabled &&& ~~~e.w.helpers ∧ e.pc = e.w.issuePc := by
  simp only [State.env?, Option.bind_eq_bind, Option.bind_eq_some_iff] at h
  obtain ⟨w, hw, wg, hwg, L, hL, H, hH, c, hc, q, _, h⟩ := h
  split at h
  · cases h
  · rename_i hi
    obtain rfl := Option.some.inj h
    dsimp only
    exact ⟨rfl, hi, rfl, rfl, rfl⟩

theorem wave_env {s : State} {g : Guard} {e : Env} (h : s.env? g = some e) : s.wave e.id = e.w := by
  rw [env_id h]; simp [State.wave, tgetD, env_wave h]

theorem tidy_env {s : State} {g : Guard} {e : Env} (hs : Tidy s) (h : s.env? g = some e) : e.w.tidy :=
  hs.2.2.1 (s.cur, e.w) (mem_of_tget? (env_wave h))

theorem issue_env {s : State} {g : Guard} {e : Env} (h : s.env? g = some e) (k : Env → Res) : issue g s k = k e := by
  simp [issue, h]

theorem waveLevel_env {s : State} {g : Guard} {e : Env} (h : s.env? g = some e) (act : Bool) (k : Env → Res)
    (ha : (if act then e.active else e.enabled) ≠ 0) : waveLevel g act s k = k e := by
  rw [waveLevel, issue_env h]; exact if_neg ha

/-! ### The end of an issue -/

/-- The wave with every issuing lane at the next instruction, ready if it waited. -/
def advanced (e : Env) (w : Wave) : Wave :=
  let w := applyFates w e.issuing e.enabled e.pc fun _ => .adv
  { w with status := match w.status with | .waiting _ => .ready | st => st }

theorem applyFates_adv (w : Wave) (iss en : LaneMask) (pc : DWord) :
    applyFates w iss en pc (fun _ => .adv) = (lanesOf iss).foldl (fun w l => w.setPc l (nextPc pc)) w := by
  simp [applyFates]

theorem foldl_setPc (w : Wave) (ls : List Nat) (x : DWord) :
    ls.foldl (fun w l => w.setPc l x) w = { w with vpc := ls.foldl (fun t l => tsetD t l exitedPc x) w.vpc } := by
  induction ls generalizing w with
  | nil => rfl
  | cons l ls ih => simp only [List.foldl_cons, ih]; rfl

theorem tgetD_foldl_tsetD {α : Type} [DecidableEq α] {t : Table α} (h : rising t) (ls : List Nat) (d x : α) (k : Nat) :
    tgetD (ls.foldl (fun t l => tsetD t l d x) t) k d = if k ∈ ls then x else tgetD t k d := by
  induction ls generalizing t with
  | nil => simp
  | cons l ls ih =>
    simp only [List.foldl_cons, ih (rising_tsetD h l d x), tgetD_tsetD h, List.mem_cons]
    by_cases hl : k ∈ ls <;> by_cases he : l = k <;> simp_all
    exact fun h => absurd h.symm he

theorem advanced_eq (e : Env) (w : Wave) : advanced e w = { w with
    vpc := (lanesOf e.issuing).foldl (fun t l => tsetD t l exitedPc (nextPc e.pc)) w.vpc
    status := match w.status with | .waiting _ => .ready | st => st } := by
  simp only [advanced, applyFates_adv, foldl_setPc]

theorem advanced_pc {e : Env} {w : Wave} (h : rising w.vpc) {l : Nat} (hl : l < 32) :
    (advanced e w).pc l = if e.issuing.getLsbD l then nextPc e.pc else w.pc l := by
  rw [advanced_eq]
  simp only [Wave.pc, tgetD_foldl_tsetD h, mem_lanesOf, hl, true_and]

theorem done_eq (e : Env) (s : State) : done e s = .next (s.modWave e.id (advanced e)) := by
  have : (lanesOf e.enabled).filterMap (fun l => match (Fate.adv : Fate) with
      | .fault c a => some (l, c, a) | _ => none) = ([] : List (Nat × Byte × DWord)) := by
    simp
  simp only [done, finish, this]
  rfl

/-- An issue that only changes its wave, to `w`, and then ends. -/
theorem done_wave (s : State) (e : Env) (w : Wave) (hw : rising w.vpc)
    (hv : w.vpc = e.w.vpc) (hr : restKept e.w w) :
    ∃ t, done e (s.modWave e.id fun _ => w) = .next t ∧ isOver e s t ∧ t.wave e.id = advanced e w := by
  have ht : ((s.modWave e.id fun _ => w).modWave e.id (advanced e)).wave e.id = advanced e w := by simp
  refine ⟨_, done_eq e _, ⟨?_, ?_, ?_⟩, ht⟩
  · rw [waveOnly, ht]
    have : ∀ (t : Table Wave) (x y : Wave), tput (tput t e.id x) e.id y = tput t e.id y := by
      intro t x y
      induction t with
      | nil => simp [tput]
      | cons c t ih =>
        obtain ⟨k, z⟩ := c
        simp only [tput]
        split
        · simp [tput]
        · split
          · simp [tput]
          · simp only [tput, *, if_false]
    simp only [State.modWave, State.wave, tgetD_tput, if_true, this]
  · intro l hl
    rw [ht, advanced_pc hw hl]
    simp only [Wave.pc, hv]
  · rw [ht, advanced_eq, restKept]
    rw [restKept] at hr
    rw [hr]

/-! ### Stash lines to fill (R82) -/

/-- No byte needs a fill where no workgroup maps a range. -/
theorem needsFill_none {s : State} (h : ∀ x ∈ s.wgs, x.2.stash = []) (k : Nat) : needsFill s k = none := by
  unfold needsFill
  cases hw : tget? s.wgs (scrPlace k).1 with
  | none => simp [hw]
  | some W => simp [hw, show W.stash = [] from h _ (tget?_mem hw)]

theorem fillKeys_none {s : State} (h : ∀ x ∈ s.wgs, x.2.stash = []) (ctx core : Nat) (ks : List Nat) : s.fillKeys ctx core ks = .ok s := by
  unfold State.fillKeys
  cases tget? s.ctxs ctx with
  | none => rfl
  | some c =>
    induction ks with
    | nil => rfl
    | cons k ks ih =>
      simp only [List.foldlM_cons, needsFill_none h]
      exact ih

theorem fillAccs_none {s : State} (h : ∀ x ∈ s.wgs, x.2.stash = []) (ctx core n : Nat) (acc : List LaneAcc) :
    s.fillAccs ctx core n acc = (s, []) := by
  unfold State.fillAccs
  induction acc with
  | nil => rfl
  | cons x xs ih =>
    simp only [List.foldl_cons, State.fillAcc, fillKeys_none h, ite_self]
    exact ih
end Sys2Proof.Machine
end

