-- ==== Sys2Proof/Laws/Alu.lean ====
section
/-! SUPPORT. The ALU operand form: what `aluWith` does, once for every instruction that computes per lane. -/

namespace Sys2Proof.Machine

/-- The fold of an ALU instruction over its passes. -/
def aluFold (dty : AluTy) (sc wide : Bool) (d : Nat) (x : Nat → Nat) (fl : Nat → Word) (w : Wave) (ls : List Nat) : Wave :=
  ls.foldl (fun w l => (writeD w dty sc wide d l (x l)).raise (fl l)) w

theorem aluFold_rest (dty : AluTy) (sc wide : Bool) (d : Nat) (x : Nat → Nat) (fl : Nat → Word) (w : Wave) (ls : List Nat) :
    aluFold dty sc wide d x fl w ls = { w with
      v := (aluFold dty sc wide d x fl w ls).v, s := (aluFold dty sc wide d x fl w ls).s
      fflags := ls.foldl (fun a l => a ||| fl l) w.fflags } := by
  induction ls generalizing w with
  | nil => rfl
  | cons l ls ih =>
    show aluFold dty sc wide d x fl ((writeD w dty sc wide d l (x l)).raise (fl l)) ls = _
    rw [ih]
    cases sc <;> cases wide <;> rfl

theorem aluFold_rising {dty : AluTy} {sc wide : Bool} {d : Nat} {x : Nat → Nat} {fl : Nat → Word} {w : Wave} {ls : List Nat}
    (h : rising w.v) (h' : rising w.s) :
    rising (aluFold dty sc wide d x fl w ls).v ∧ rising (aluFold dty sc wide d x fl w ls).s := by
  induction ls generalizing w with
  | nil => exact ⟨h, h'⟩
  | cons l ls ih =>
    refine ih ?_ ?_
    · cases sc <;> cases wide
      · exact rising_tsetD h _ _ _
      · exact rising_tsetD (rising_tsetD h _ _ _) _ _ _
      · exact h
      · exact h
    · cases sc <;> cases wide
      · exact h'
      · exact h'
      · exact rising_tsetD h' _ _ _
      · exact rising_tsetD h' _ _ _

/-- The scalar form writes one `s` register. -/
theorem aluFold_scalar {dty : AluTy} {wide : Bool} {d : Nat} {x : Nat → Nat} {fl : Nat → Word} {w : Wave} {l : Nat}
    (h : rising w.s) (n : Nat) :
    (aluFold dty true wide d x fl w [l]).v = w.v ∧
    (aluFold dty true wide d x fl w [l]).sreg n =
      if n = d then (if wide then BitVec.ofNat 64 (x l) else extS dty (x l)) else w.sreg n := by
  refine ⟨rfl, ?_⟩
  show (w.setS d _).sreg n = _
  rw [Wave.sreg_setS h]
  by_cases hn : d = n
  · simp [hn]
  · have : ¬n = d := fun h => hn h.symm
    simp [hn, this]

/-- A narrow D of lanes below 32: the lanes' values, everything else as before. -/
theorem aluFold_vec {dty : AluTy} {d : Nat} {x : Nat → Nat} {fl : Nat → Word} {w : Wave} {ls : List Nat}
    (h : rising w.v) (hl : ∀ l ∈ ls, l < 32) (n k : Nat) (hk : k < 32) :
    (aluFold dty false false d x fl w ls).vreg n k = if n = d ∧ k ∈ ls then BitVec.ofNat 32 (x k) else w.vreg n k := by
  induction ls generalizing w with
  | nil => simp [aluFold]
  | cons l ls ih =>
    have hl0 := hl l List.mem_cons_self
    show (aluFold dty false false d x fl ((w.setV d l _).raise _) ls).vreg n k = _
    rw [ih (rising_tsetD h _ _ _) fun k hk => hl k (List.mem_cons_of_mem _ hk)]
    show (if n = d ∧ k ∈ ls then _ else (w.setV d l _).vreg n k) = _
    rw [Wave.vreg_setV h]
    by_cases hn : n = d
    · subst hn
      by_cases hkl : k = l
      · subst hkl; simp
      · have hlk : ¬l = k := fun h => hkl h.symm
        simp [hkl, hlk]
    · have : d * 32 + l ≠ n * 32 + k := by omega
      simp [hn, this]

/-- A pair as D. -/
theorem aluFold_wide {dty : AluTy} {d : Nat} {x : Nat → Nat} {fl : Nat → Word} {w : Wave} {ls : List Nat}
    (h : rising w.v) (hl : ∀ l ∈ ls, l < 32) (n k : Nat) (hk : k < 32) :
    (aluFold dty false true d x fl w ls).vreg n k =
      if n = d ∧ k ∈ ls then (BitVec.ofNat 64 (x k)).setWidth 32
      else if n = d + 1 ∧ k ∈ ls then (BitVec.ofNat 64 (x k)).extractLsb' 32 32 else w.vreg n k := by
  induction ls generalizing w with
  | nil => simp [aluFold]
  | cons l ls ih =>
    have hl0 := hl l List.mem_cons_self
    show (aluFold dty false true d x fl ((w.setV64 d l _).raise _) ls).vreg n k = _
    rw [ih (rising_tsetD (rising_tsetD h _ _ _) _ _ _) fun k hk => hl k (List.mem_cons_of_mem _ hk)]
    show (if _ then _ else if _ then _ else ((w.setV d l _).setV (d + 1) l _).vreg n k) = _
    rw [Wave.vreg_setV (rising_tsetD h _ _ _), Wave.vreg_setV h]
    by_cases hn : n = d
    · subst hn
      have h1 : (n + 1) * 32 + l ≠ n * 32 + k := by omega
      by_cases hkl : k = l
      · subst hkl; rw [if_neg h1]; simp
      · have hlk : ¬l = k := fun h => hkl h.symm
        rw [if_neg h1]; simp [hkl, hlk]
    · have h0 : d * 32 + l ≠ n * 32 + k := by omega
      by_cases hn' : n = d + 1
      · subst hn'
        by_cases hkl : k = l
        · subst hkl; simp
        · have hlk : ¬l = k := fun h => hkl h.symm
          rw [if_neg h0]; simp [hkl, hlk]
      · have h1 : (d + 1) * 32 + l ≠ n * 32 + k := by omega
        simp [hn, hn', h0, h1]

theorem passes_lt {e : Env} {sc : Bool} : ∀ l ∈ e.passes sc, l < 32 := by
  intro l hl
  cases sc with
  | false => exact (mem_lanesOf.1 hl).1
  | true =>
    simp only [Env.passes, if_true] at hl
    split at hl
    · simp at hl
    · simp only [List.mem_singleton] at hl
      subst hl
      cases hh : (lanesOf e.enabled).head? with
      | none => simp [lowLane, hh]
      | some a => simpa [lowLane, hh] using (mem_lanesOf.1 (List.mem_of_head? hh)).1

theorem pair_join (x : Nat) : ((BitVec.ofNat 64 x).extractLsb' 32 32 ++ (BitVec.ofNat 64 x).setWidth 32 : BitVec (32 + 32)) = BitVec.ofNat 64 x := by
  apply BitVec.eq_of_getLsbD_eq
  intro i hi
  simp only [BitVec.getLsbD_append, BitVec.getLsbD_setWidth, BitVec.getLsbD_extractLsb', BitVec.getLsbD_ofNat]
  by_cases h : i < 32
  · simp [h]
  · have h1 : i - 32 < 32 := by omega
    have h2 : 32 + (i - 32) = i := by omega
    simp [h, h1, h2]

/-- What an ALU instruction does, wherever its registers exist. -/
theorem aluWith_ran {s : State} {e : Env} (r : AluRule) (hs : Tidy s) (he : s.env? r.o.g = some e) (hr : e.regsOk r.o r.W = true) :
    ∃ t, aluWith r.o r.dty r.W r.f s = .next t ∧ isOver e s t ∧ r.ran e (t.wave e.id) := by
  obtain ⟨hv, hsr, _, _, hpc, _, _⟩ := tidy_env hs he
  let fl (l : Nat) : Word := if r.o.sc then waveFlags e.active (r.at e l).2 else laneFlags e.active l (r.at e l).2
  let w := aluFold r.dty r.o.sc r.wide r.o.d.toNat (fun l => (r.at e l).1) fl e.w (e.passes r.o.sc)
  have hw : aluWith r.o r.dty r.W r.f s = done e (s.modWave e.id fun _ => w) := by
    rw [aluWith, issue_env he]
    simp only [hr, Bool.not_true, Bool.false_eq_true, if_false]
    rfl
  have hrest := aluFold_rest r.dty r.o.sc r.wide r.o.d.toNat (fun l => (r.at e l).1) fl e.w (e.passes r.o.sc)
  have hvpc : w.vpc = e.w.vpc := by show (aluFold _ _ _ _ _ _ _ _).vpc = _; rw [hrest]
  have hkept : restKept e.w w := by
    show w = _
    have h : w = _ := hrest
    generalize w = w at h ⊢
    rw [h]
  obtain ⟨t, ht, hover, hwave⟩ := done_wave s e w (by rw [hvpc]; exact hpc) hvpc hkept
  refine ⟨t, hw.trans ht, hover, ?_⟩
  rw [hwave, advanced_eq]
  have hmem : ∀ l, l ∈ e.passes false ↔ l < 32 ∧ e.enabled.getLsbD l = true := fun l => mem_lanesOf
  refine ⟨?_, ?_, ?_, ?_, ?_, ?_⟩
  · intro l hl
    have hlt := passes_lt l hl
    simp only [dHolds]
    cases hsc : r.o.sc with
    | true =>
      rw [hsc] at hl
      have hp : e.passes true = [l] := by
        simp only [Env.passes, if_true] at hl ⊢
        split at hl
        · simp at hl
        · rename_i hne
          simp only [List.mem_singleton] at hl; rw [if_neg hne, hl]
      have := (aluFold_scalar (dty := r.dty) (wide := r.wide) (d := r.o.d.toNat) (x := fun l => (r.at e l).1) (fl := fl) (l := l) hsr r.o.d.toNat).2
      simp only [if_true]
      show (aluFold _ _ _ _ _ _ _ _).sreg _ = _
      rw [hsc, hp, this]; simp
    | false =>
      rw [hsc] at hl
      cases hwd : r.wide with
      | false =>
        have := aluFold_vec (dty := r.dty) (d := r.o.d.toNat) (x := fun l => (r.at e l).1) (fl := fl) hv passes_lt r.o.d.toNat l hlt (ls := e.passes false)
        simp only [Bool.false_eq_true, if_false]
        show (aluFold _ _ _ _ _ _ _ _).vreg _ _ = _
        rw [hsc, hwd, this]; simp [hl]
      | true =>
        have h0 := aluFold_wide (dty := r.dty) (d := r.o.d.toNat) (x := fun l => (r.at e l).1) (fl := fl) hv passes_lt r.o.d.toNat l hlt (ls := e.passes false)
        have h1 := aluFold_wide (dty := r.dty) (d := r.o.d.toNat) (x := fun l => (r.at e l).1) (fl := fl) hv passes_lt (r.o.d.toNat + 1) l hlt (ls := e.passes false)
        simp only [Bool.false_eq_true, if_false, if_true, Wave.vreg64]
        have g0 : (aluFold r.dty r.o.sc r.wide r.o.d.toNat (fun l => (r.at e l).1) fl e.w (e.passes r.o.sc)).vreg r.o.d.toNat l =
            (BitVec.ofNat 64 (r.at e l).1).setWidth 32 := by
          rw [hsc, hwd, h0, if_pos ⟨rfl, hl⟩]
        have g1 : (aluFold r.dty r.o.sc r.wide r.o.d.toNat (fun l => (r.at e l).1) fl e.w (e.passes r.o.sc)).vreg (r.o.d.toNat + 1) l =
            (BitVec.ofNat 64 (r.at e l).1).extractLsb' 32 32 := by
          rw [hsc, hwd, h1, if_neg (by omega), if_pos ⟨rfl, hl⟩]
        have app : ∀ (a b a' b' : Word), a = a' → b = b' → (a ++ b : BitVec (32 + 32)) = a' ++ b' := by
          rintro _ _ _ _ rfl rfl; rfl
        exact (app _ _ _ _ g1 g0).trans (pair_join _)
  · intro n l hlt hd
    show (aluFold _ _ _ _ _ _ _ _).vreg _ _ = _
    simp only [AluRule.isD] at hd
    cases hsc : r.o.sc with
    | true =>
      simp only [Env.passes, if_true]
      split
      · rfl
      · show tgetD (aluFold _ _ _ _ _ _ _ _).v _ _ = _
        rw [(aluFold_scalar (dty := r.dty) (wide := r.wide) (d := r.o.d.toNat) (x := fun l => (r.at e l).1) (fl := fl) hsr 0).1]; rfl
    | false =>
      simp only [hsc, Bool.not_false, Bool.true_and, Bool.and_eq_false_iff, Bool.or_eq_false_iff, beq_eq_false_iff_ne] at hd
      cases hwd : r.wide with
      | false =>
        rw [aluFold_vec hv passes_lt n l hlt]
        rw [if_neg]
        rintro ⟨hn, hm⟩
        rcases hd with hd | hd
        · rw [hmem] at hm; simp [hd] at hm
        · exact hd.1 hn
      | true =>
        rw [aluFold_wide hv passes_lt n l hlt]
        rw [if_neg, if_neg]
        · rintro ⟨hn, hm⟩
          rcases hd with hd | hd
          · rw [hmem] at hm; simp [hd] at hm
          · simp [hwd, hn] at hd
        · rintro ⟨hn, hm⟩
          rcases hd with hd | hd
          · rw [hmem] at hm; simp [hd] at hm
          · exact hd.1 hn
  · intro n hd
    show (aluFold _ _ _ _ _ _ _ _).sreg _ = _
    cases hsc : r.o.sc with
    | true =>
      simp only [hsc, Bool.true_and, Bool.and_eq_false_iff, bne_eq_false_iff_eq, beq_eq_false_iff_ne] at hd
      simp only [Env.passes, if_true]
      split
      · rfl
      · rename_i hne
        rw [(aluFold_scalar hsr n).2, if_neg]
        rcases hd with hd | hd
        · exact absurd hd hne
        · exact hd
    | false =>
      have : ∀ (ls : List Nat) (w : Wave), (aluFold r.dty false r.wide r.o.d.toNat (fun l => (r.at e l).1) fl w ls).s = w.s := by
        intro ls
        induction ls with
        | nil => intro w; rfl
        | cons l ls ih =>
          intro w
          refine (ih _).trans ?_
          cases r.wide <;> rfl
      show tgetD (aluFold _ _ _ _ _ _ _ _).s _ _ = _
      rw [this]; rfl
  · show (aluFold _ _ _ _ _ _ _ _).p = _; rw [hrest]
  · show (aluFold _ _ _ _ _ _ _ _).f = _; rw [hrest]
  · show (aluFold _ _ _ _ _ _ _ _).fflags = _; rw [hrest]

/-! ### The tables of rules -/

theorem exec_imin (o : Alu) (s : State) : exec (.imin o) s =
    aluElem o true false (fun a b _ => (narrow o.ty false (min (readInt o.ty a) (readInt o.ty b)), 0)) s := by
  simp only [Int.min_def]; rfl

theorem exec_imax (o : Alu) (s : State) : exec (.imax o) s =
    aluElem o true false (fun a b _ => (narrow o.ty false (max (readInt o.ty a) (readInt o.ty b)), 0)) s := by
  have : ∀ a b : Int, max a b = if a ≥ b then a else b := by intro a b; simp only [Int.max_def]; split <;> split <;> omega
  simp only [this]; rfl

/-- The instructions of R152 to R157 run by their rule. -/
theorem exec_intRule {i : Instr} {r : AluRule} (h : intRule i = some r) (s : State) : exec i s = aluWith r.o r.dty r.W r.f s := by
  unfold intRule at h
  split at h
  case h_6 o => cases h; exact exec_imin o s
  case h_7 o => cases h; exact exec_imax o s
  all_goals first | (cases h; rfl) | cases h

/-- The instructions of R154 run by their rule. -/
theorem exec_shiftRule {i : Instr} {r : AluRule} (h : shiftRule i = some r) (s : State) :
    exec i s = aluWith r.o r.dty r.W r.f s := by
  unfold shiftRule at h
  split at h <;> first | (cases h; rfl) | cases h

/-- The instructions of R164 to R169 run by their rule. -/
theorem exec_fltRule {i : Instr} {r : AluRule} (h : fltRule i = some r) (s : State) : exec i s = aluWith r.o r.dty r.W r.f s := by
  unfold fltRule at h
  split at h <;> first | (cases h; rfl) | cases h

end Sys2Proof.Machine
end

