-- ==== Sys2Proof/Tests/Slice0.lean ====
section
/-! SUPPORT. Small tests: ill-formed terms that WellFormed refuses, words worked out by hand from the encodings of R118 to
R129, single instructions on small states, and for the statements with hypotheses states that meet them. -/

open Sys2Proof Sys2Proof.Machine

namespace Sys2Proof.Tests

set_option Elab.async false

/-! ### Small states -/

/-- The guard that every lane passes. -/
def g0 : Guard := ⟨15, false⟩
/-- One wave with all its lanes at a kernel's first instruction, on pages that map the first 512 MiB onto themselves. -/
def base : State :=
  let s := { State.reset.boot with cur := 32, mem := memWrite (memWrite [] 0 (leBytes 8 0x1001)) 0x1000 (leBytes 8 0x3D) }
  s.modCtx 0 fun c => { c with ptroot := 0, pinpage := 0x3000 }
/-- `base` with a changed wave. -/
def wv (f : Wave → Wave) : State := base.modWave 32 f
/-- `base` with `s` registers given. -/
def sregs (xs : List (Nat × DWord)) : State := wv fun w => xs.foldl (fun w x => w.setS x.1 x.2) w
/-- A value written to all lanes of a `v` register. -/
def putV (n : Nat) (f : Nat → Word) (w : Wave) : Wave := allLanes.foldl (fun w l => w.setV n l (f l)) w
/-- A state with a changed launch. -/
def lch (s : State) (f : Launch → Launch) : State := s.modLaunch (launchKey 1 0) f
/-- A state with a changed kernel header. -/
def hdr (s : State) (f : Header → Header) : State := lch s fun L => { L with header := L.header.map f }
/-- A state with a changed context. -/
def ctx (s : State) (f : Context → Context) : State := s.modCtx 0 f
/-- A state with a changed queue. -/
def que (s : State) (f : Queue → Queue) : State := s.modQueue 1 f
/-- A state with a changed workgroup. -/
def wgp (s : State) (f : Workgroup → Workgroup) : State := s.modWg 1 f
/-- A state with bytes at a physical address of device memory. -/
def mem (s : State) (a : Nat) (bs : List Byte) : State := { s with mem := memWrite s.mem a bs }
/-- A state whose queue is in deterministic mode, its wave holding the bobbin. -/
def det (s : State) : State := (que s fun q => { q with det := true }).modWave 32 fun w => { w with hold := true }

/-! ### How a witness is shown -/

/-- `Tidy` can be decided. -/
@[reducible] def tidyDec (s : State) : Decidable (Tidy s) := by unfold Tidy rising Wave.tidy rising; infer_instance
/-- `Tidy` as a test. -/
def tidyB (s : State) : Bool := @decide (Tidy s) (tidyDec s)

theorem tidy_of {s : State} (h : tidyB s = true) : Tidy s := @of_decide_eq_true _ (tidyDec s) h

/-- A state in its form, an issue of its wave, and what else holds of the issue. -/
theorem meets {s : State} {g : Guard} {P : Env → Prop} [DecidablePred P]
    (h : (tidyB s && (s.env? g).any fun e => decide (P e)) = true) : ∃ e, Tidy s ∧ s.env? g = some e ∧ P e := by
  rw [Bool.and_eq_true] at h
  cases he : s.env? g with
  | none => simp [he] at h
  | some e => exact ⟨e, tidy_of h.1, rfl, by simpa [he] using h.2⟩

theorem any_some {α : Type} {o : Option α} {P : α → Prop} [DecidablePred P] (h : (o.any fun x => decide (P x)) = true) :
    ∃ x, o = some x ∧ P x := by
  cases o with
  | none => simp at h
  | some x => exact ⟨x, rfl, by simpa using h⟩

/-- A computation that answers. -/
theorem ok_iff {ε α : Type} {x : Except ε α} : x.toBool = true ↔ ∃ a, x = .ok a := by cases x <;> simp [Except.toBool]

/-- A computation that answers a value that a test accepts. -/
def okAnd {ε α : Type} (x : Except ε α) (p : α → Bool) : Bool := match x with | .ok a => p a | .error _ => false

theorem okAnd_iff {ε α : Type} {x : Except ε α} {p : α → Bool} : okAnd x p = true ↔ ∃ a, x = .ok a ∧ p a = true := by
  cases x <;> simp [okAnd]

/-- Every access of the lanes resolves, to no stash line that is to be filled. -/
def reaches (s : State) (e : Env) (kind : AccKind) (m : Mem) (size : Nat) (three : Bool) (lanes : List Nat) : Bool :=
  lanes.all fun l => match (if three then resolve3 s e kind m.space l (e.ea m l) else resolve s e kind m.space size true l (e.ea m l)) with
    | .ok T => (fillFor s size T).isNone
    | .error _ => false

theorem accessed_of {s : State} {e : Env} {kind : AccKind} {m : Mem} {size : Nat} {three : Bool} {lanes : List Nat}
    (h : reaches s e kind m size three lanes = true) : ∃ T, accessed s e kind m size three lanes T := by
  refine ⟨fun l => match (if three then resolve3 s e kind m.space l (e.ea m l) else resolve s e kind m.space size true l (e.ea m l)) with
    | .ok T => T | .error _ => ⟨⟨0, 0, 0, false, false, .wv⟩, false, false, false, false⟩, fun l hl => ?_⟩
  have hx := List.all_eq_true.1 h l hl
  cases hr : (if three then resolve3 s e kind m.space l (e.ea m l) else resolve s e kind m.space size true l (e.ea m l)) <;>
    simp_all

/-- A release that meets nothing to take and nothing that fails. -/
def lets (s : State) (e : Env) (sc : Scope) : Bool :=
  (e.reportsAt (fallsAt sc)).isEmpty && match s.releaseAt e sc with | .done _ => true | _ => false
/-- The machine as a release leaves it. -/
def letsTo (s : State) (e : Env) (sc : Scope) : State := match s.releaseAt e sc with | .done s' => s' | _ => s

theorem released_of {s : State} {e : Env} {sc : Scope} (h : lets s e sc = true) : released s (letsTo s e sc) e sc := by
  simp only [lets, Bool.and_eq_true, List.isEmpty_iff] at h
  refine ⟨h.1, ?_⟩
  unfold letsTo
  revert h
  cases s.releaseAt e sc <;> simp

/-- Whether an instruction, run on a state, gives a next state that a test accepts. -/
def runs (i : Instr) (s : State) (f : State → Bool) : Bool := match exec i s with | .next t => f t | _ => false

/-! ### Statements with hypotheses: states that meet them -/

theorem test_base_tidy : Tidy base := tidy_of (by decide +kernel)

theorem test_integer_runs : ∃ e, Tidy base ∧ base.env? g0 = some e ∧
    ∀ i ∈ [Instr.iadd ⟨g0, false, .i32, .rne, 1, 2, .v 3, 0⟩ false, .imad ⟨g0, false, .i64, .rne, 2, 4, .imm 7, 6⟩ true,
        .perm ⟨g0, true, .n32, .rne, 1, 2, .s 3, 4⟩, .mov ⟨g0, false, .n32, .rne, 255, 0, .v 3, 0⟩],
      (intRule i).any (fun r => decide (r.o.g = g0) && e.regsOk r.o r.W) = true :=
  meets (by decide +kernel)

theorem test_shift_runs : ∃ e, Tidy base ∧ base.env? g0 = some e ∧
    ∀ i ∈ [Instr.shl ⟨g0, false, .i16x2, .rne, 1, 2, .v 3, 0⟩, .bfi ⟨g0, false, .n64, .rne, 254, 4, .v 255, 6⟩],
      (shiftRule i).any (fun r => decide (r.o.g = g0) && e.regsOk r.o r.W) = true :=
  meets (by decide +kernel)

theorem test_float_runs : ∃ e, Tidy base ∧ base.env? g0 = some e ∧
    ∀ i ∈ [Instr.ffma ⟨g0, false, .f32, .rup, 1, 2, .v 3, 4⟩, .fcvt ⟨g0, false, .bf16x2, .rne, 1, 2, .v 3, 0⟩ .f32 false,
        .fdot2 ⟨g0, true, .f16x2, .rne, 1, 2, .s 3, 4⟩, .i2f ⟨g0, false, .f64, .rne, 2, 4, .v 0, 0⟩ .n64],
      (fltRule i).any (fun r => decide (r.o.g = g0) && e.regsOk r.o r.W) = true :=
  meets (by decide +kernel)

theorem test_predicates_run : ∃ e, Tidy base ∧ base.env? g0 = some e ∧
    e.regsOk ⟨g0, false, .f64, .rne, 1, 2, .v 254, 3⟩ ⟨none, some true, some true, none⟩ = true ∧ e.vTy false 255 = true ∧
    e.regsOk ⟨g0, false, .i32, .rne, 15, 255, .imm 9, 0⟩ ⟨none, some false, some false, none⟩ = true :=
  meets (by decide +kernel)

theorem test_moves_run : ∃ e, Tidy base ∧ base.env? g0 = some e ∧
    (let o : Alu := ⟨g0, false, .i64, .rne, 2, 4, .v 6, 3⟩; e.regsOk o (tyWidths o.ty true false) = true) ∧
    e.regsOk ⟨g0, true, .i64, .rne, 2, 4, .s 6, 0⟩ ⟨some true, none, some false, none⟩ = true ∧ e.vTy true 254 = true :=
  meets (by decide +kernel)

theorem test_lane_moves_run : ∃ e, Tidy base ∧ base.env? g0 = some e ∧ e.enabled ≠ 0 ∧
    e.regsOk ⟨g0, false, .i64, .rne, 2, 4, .v 6, 0⟩ ⟨some true, some true, some false, none⟩ = true ∧
    e.vTy true 4 = true ∧ e.vTy false 2 = true :=
  meets (by decide +kernel)

theorem test_no_enabled_lane : ∃ e, Tidy base ∧ base.env? ⟨0, false⟩ = some e ∧ e.enabled = 0 ∧ e.vTy true 254 = true :=
  meets (by decide +kernel)

/-- A valid format: see R60 and R61; the first word above 0 that is one. -/
def fmtWord : Word := (((List.range 4096).find? fun k => NFmt.valid (BitVec.ofNat 32 k)).map (BitVec.ofNat 32)).getD 0

/-- `base` on code: slot 0 of the line at 0x10000 is `nop`, every slot a legal target. -/
def coded : State := (mem base 0x10000 (lineWith 0 0x0000000000000F60)).modWave 32 fun w => w.setP 1 0xFFFFFFFF 0x80000000
/-- The guard that lane 31 of `coded` passes. -/
def g1 : Guard := ⟨1, false⟩
/-- Plain accesses at `s4` + 16. -/
def plainMem (sp : Space) (ty : MemTy) : Mem := ⟨g0, 10, some 4, none, 16, sp, .dev, .rlx, .l1, .rne, ty⟩
/-- `base` with an address in `s4` and a valid format in `f1`. -/
def addressed : State := (sregs [(4, 0x30000)]).modWave 32 fun w => w.setF 1 fmtWord

theorem test_narrow_runs : ∃ e, Tidy addressed ∧ addressed.env? g0 = some e ∧ e.vTy false 10 = true ∧ e.vTy false 20 = true ∧
    e.bOk (.imm 3) = true ∧ NFmt.valid (e.w.freg 1) = true ∧ e.vOk 20 (NFmt.ofWord (e.w.freg 1)).count = true ∧
    e.vOk 10 (NFmt.ofWord (e.w.freg 1)).count = true :=
  meets (by decide +kernel)

theorem test_straight_runs : ∃ e, Tidy base ∧ base.env? g0 = some e ∧ e.enabled ≠ 0 ∧
    e.enabled = (0xFFFFFFFF#32 &&& e.w.liveMask) :=
  meets (by decide +kernel)

theorem test_wsync_register : ∃ e, Tidy (sregs [(3, 0xFFFFFFFF)]) ∧ (sregs [(3, 0xFFFFFFFF)]).env? g0 = some e ∧
    e.enabled = ((e.w.sreg 3).setWidth 32 &&& e.w.liveMask) :=
  meets (by decide +kernel)

theorem test_transfers_run : ∃ e, Tidy coded ∧ coded.env? g1 = some e ∧
    (∀ l ∈ lanesOf e.enabled, (checkTarget coded e (directTarget e.pc 4)).toBool = true) ∧
    (∀ l ∈ lanesOf e.enabled, tgetD e.w.depth l 0 < 16) ∧ e.vTy true 254 = true :=
  meets (by decide +kernel)

/-- `coded` with 15 return addresses on every lane's stack, the top one the line's slot 4. -/
def called : State := coded.modWave 32 fun w => { w with
  depth := allLanes.map fun l => (l, 15), ret := allLanes.map fun l => (l * 16 + 14, 0x10004) }

theorem test_calls_and_returns_run : ∃ e, Tidy called ∧ called.env? g1 = some e ∧
    (∀ l ∈ lanesOf e.enabled, tgetD e.w.depth l 0 < 16 ∧ tgetD e.w.depth l 0 ≠ 0 ∧
      (checkTarget called e (tgetD e.w.ret (l * 16 + (tgetD e.w.depth l 0 - 1)) 0)).toBool = true) :=
  meets (by decide +kernel)

theorem test_exit_of_some_lanes : ∃ e, Tidy (wv fun w => w.setP 1 0xFFFFFFFF 1) ∧ (wv fun w => w.setP 1 0xFFFFFFFF 1).env? ⟨1, false⟩ = some e ∧
    e.enabled ≠ 0 ∧ (∀ r ∈ e.w.reports, e.enabled.getLsbD r.lane = false) ∧ (e.w.liveMask &&& ~~~e.enabled) ≠ 0 :=
  meets (by decide +kernel)

theorem test_exit_of_all_lanes : ∃ e, Tidy (det base) ∧ (det base).env? g0 = some e ∧ e.enabled ≠ 0 ∧
    (∀ r ∈ e.w.reports, e.enabled.getLsbD r.lane = false) ∧ (e.w.liveMask &&& ~~~e.enabled) = 0 ∧ e.wg.stash = [] ∧ e.det = true ∧
    releaseReady (det base) e .dev = true :=
  meets (by decide +kernel)

theorem test_loads_issue : ∃ e, Tidy addressed ∧ addressed.env? g0 = some e ∧ e.enabled ≠ 0 ∧ e.w.ldCnt ≠ 63 ∧
    e.memOk (plainMem .glb (.alu .i64)) = true ∧ e.vTy true 10 = true ∧
    reaches addressed e .load (plainMem .glb (.alu .i64)) 8 false (lanesOf e.enabled) = true ∧
    NFmt.valid (e.w.freg 1) = true ∧ e.vOk 10 (NFmt.ofWord (e.w.freg 1)).count = true ∧
    reaches addressed e .load (plainMem .glb (.alu .f32)) (narrowBytes (NFmt.ofWord (e.w.freg 1))) ((NFmt.ofWord (e.w.freg 1)).ct = 1)
      (lanesOf e.enabled) = true ∧
    reaches addressed e .load (plainMem .glb .i8) 1 false [lowLane e.enabled] = true ∧
    atomRegs e (plainMem .glb (.alu .n32)) .cas = true ∧ isRelease .rlx = false ∧
    reaches addressed e (.atom .cas) (plainMem .glb (.alu .n32)) 4 false (lanesOf e.active) = true :=
  meets (by decide +kernel)

theorem test_stores_issue : ∃ e, Tidy addressed ∧ addressed.env? g0 = some e ∧ e.active ≠ 0 ∧ e.w.stCnt ≠ 63 ∧ e.w.reports = [] ∧
    e.wg.stash = [] ∧ e.memOk (plainMem .glb (.alu .i64)) = true ∧ e.vTy true 10 = true ∧
    reaches addressed e .store (plainMem .glb (.alu .i64)) 8 false (lanesOf e.active) = true ∧
    reaches addressed e .store (plainMem .scr .n16) 2 false [] = true ∧
    reaches addressed e .store (plainMem .glb (.alu .f32)) (narrowBytes (NFmt.ofWord (e.w.freg 1))) ((NFmt.ofWord (e.w.freg 1)).ct = 1)
      (lanesOf e.active) = true ∧
    reaches addressed e .red (plainMem .glb (.alu .n32)) 4 false (lanesOf e.active) = true ∧
    reaches addressed e .bw (plainMem .glb (.alu .f32)) 4 false (lanesOf e.active) = true :=
  meets (by decide +kernel)

/-- A backwash word targeted, with an accumulator. -/
def targeted : State := ctx (lch (sregs [(1, 0x30000), (2, 16)]) fun L => { L with targeted := [0x30004] })
  fun c => { c with accums := [(0x30004, { sum := 5 })] }

theorem test_flushes_run : ∃ e, Tidy targeted ∧ targeted.env? g0 = some e ∧ e.active ≠ 0 ∧ releaseReady targeted e .dev = true ∧
    (targeted.flushWords e.L (some e.wg.core) e.L.targeted).2 = none ∧ (e.w.sreg 1 + (0 : Word).signExtend 64).toNat % 4 = 0 ∧
    (e.w.sreg 2).toNat % 4 = 0 ∧
    (targeted.flushWords e.L (some e.wg.core) (e.L.targeted.filter fun va => 0x30000 ≤ va && va + 4 ≤ 0x30010)).2 = none :=
  meets (by decide +kernel)

theorem test_hints_and_fences_run : ∃ e, Tidy addressed ∧ addressed.env? g0 = some e ∧ e.memOk (plainMem .glb (.alu .i32)) = true ∧
    e.enabled ≠ 0 ∧ e.w.reports = [] ∧ e.w.loads = [] ∧ (addressed.core e.wg.core).fifo = [] ∧ (addressed.core e.wg.core).arrived = true ∧
    e.wg.stash = [] ∧ e.w.marked = none ∧ addressed.unanswered e.wg.core = [] :=
  meets (by decide +kernel)

theorem test_moor_met_at_once : ∃ e, Tidy addressed ∧ addressed.env? g0 = some e ∧ e.enabled ≠ 0 ∧ settled addressed e = true ∧
    e.w.done = 0 ∧ e.w.emitBad = [] ∧ e.vTy false 10 = true ∧ reaches addressed e .load (plainMem .glb (.alu .i32)) 4 false (lanesOf e.enabled) = true ∧
    ∀ l ∈ lanesOf e.enabled, okAnd (resolve addressed e .load .glb 4 true l (e.ea (plainMem .glb (.alu .i32)) l)) (fun T =>
      !T.acc.remote && !badLine addressed T.acc.key && moorMet .eq (aluOf (.alu .i32)) (addressed.numAt T.acc.key 4) (storeValue e.w (.alu .i32) 10 l)) = true :=
  meets (by decide +kernel)

/-- A wave that waits in a `moor` for a word that differs from `v10`. -/
def mooring : State :=
  let i := (encode (.moor (plainMem .glb (.alu .i32)) .ne)).getD 0
  (mem addressed 0x10000 (lineWith 0 i)).modWave 32 fun w => putV 10 (fun _ => 7) { w with status := .waiting .retry }

theorem test_moor_reread : ∃ e, Tidy mooring ∧ mooring.env? g0 = some e ∧
    (match fetch mooring e.wg.core e.ctx e.c e.pc with | .instr (.moor m c) => m == plainMem .glb (.alu .i32) && c == .ne | _ => false) = true ∧
    (mooring.wave 32).status = .waiting .retry ∧ e.enabled.getLsbD 31 = true ∧ (moorOver e.w).getLsbD 31 = false ∧
    isAcquire (plainMem .glb (.alu .i32)).ord = false ∧
    okAnd (resolve mooring e .load .glb 4 true 31 (e.ea (plainMem .glb (.alu .i32)) 31)) (fun x => !x.acc.remote &&
      !badLine mooring x.acc.key && moorMet .ne (aluOf (.alu .i32)) (mooring.numAt x.acc.key 4) (storeValue e.w (.alu .i32) 10 31)) = true :=
  meets (by decide +kernel)

/-- A stash entry of 128 bytes at offset 128 with a dirty byte. -/
def stashed : State := wgp (sregs [(1, 128), (2, 0x30000), (3, 128)]) fun W => { W with
  stash := [{ off := 128, va := 0x40000, len := 128, filled := [0], dirty := [3] }] }

theorem test_stash_mapped : ∃ e, Tidy (sregs [(1, 0xFF80), (2, 0x30000), (3, 128)]) ∧
    (sregs [(1, 0xFF80), (2, 0x30000), (3, 128)]).env? g0 = some e ∧ e.active ≠ 0 ∧
    settled (sregs [(1, 0xFF80), (2, 0x30000), (3, 128)]) e = true ∧
    let off := (e.w.sreg 1).toNat
    let va := e.w.sreg 2
    let n := (e.w.sreg 3).toNat
    off < 2 ^ 18 ∧ isLocalVa va = true ∧ off % 128 = 0 ∧ va.toNat % 128 = 0 ∧ n % 128 = 0 ∧ n ≠ 0 ∧ e.wg.stash.length < 8 ∧
      off + n ≤ e.H.scratch ∧ ∀ st ∈ e.wg.stash, rangesMeet st.off st.len off n = false :=
  meets (by decide +kernel)

theorem test_stash_unmapped : ∃ e, Tidy stashed ∧ stashed.env? g0 = some e ∧ e.active ≠ 0 ∧ settled stashed e = true ∧
    e.wg.stash.any (fun st => st.off = (e.w.sreg 1).toNat) = true ∧ (stashed.stashBack e.wgId (fun _ st => st.off = 128)).2 = none ∧
    (stashed.stashBack e.wgId (fun _ _ => true)).2 = none :=
  meets (by decide +kernel)

theorem test_wait_runs : ∃ e, Tidy (wv fun w => { w with ldCnt := 63 }) ∧ (wv fun w => { w with ldCnt := 63 }).env? g0 = some e ∧
    e.w.reports = [] ∧ e.w.ldCnt ≤ 63 ∧ e.w.stCnt ≤ 0 ∧ e.w.cpCnt ≤ 0 ∧ e.w.tlCnt ≤ 0 :=
  meets (by decide +kernel)

/-- A barrier 15 that one more arrival completes, and a barrier 0 that three more do; a second wave waits at barrier 15. -/
def barred : State :=
  let s := wgp base fun W => { W with bars := [(0, { valid := true, expected := 3, gen := 4 }), (15, { valid := true, expected := 2, arrived := 1 })] }
  { s with waves := s.waves ++ [(33, { status := .waiting (.barrier (barId 1 15) 0) })] }

theorem test_barriers_run : ∃ e, Tidy barred ∧ barred.env? g0 = some e ∧ e.enabled ≠ 0 ∧ barOwner barred e ⟨false, 0, 15⟩ = some 1 ∧
    barOwner barred e ⟨true, 0, 15⟩ = some 1 ∧ hasWaiters barred 1 0 = false ∧ hasWaiters barred 1 15 = true ∧ lets barred e .gng = true ∧
    (barAt barred 1 3).valid = false ∧
    (let x := barAt barred 1 15; x.valid = true ∧ (0 : Word) = x.mask ∧ x.arrived + 1 = x.expected) ∧
    (let x := barAt barred 1 0; x.valid = true ∧ (0 : Word) = x.mask ∧ x.arrived + 1 ≠ x.expected ∧ 0 < (x.gen - 3).toInt) ∧
    e.w.status = .ready :=
  meets (by decide +kernel)

theorem test_barrier_released : ∃ e, Tidy (wv fun w => { w with status := .waiting (.released true) }) ∧
    (wv fun w => { w with status := .waiting (.released true) }).env? g0 = some e ∧ e.enabled ≠ 0 ∧
    e.w.status = .waiting (.released true) :=
  meets (by decide +kernel)

theorem test_pins_run : ∃ e, Tidy base ∧ base.env? g0 = some e ∧ e.enabled ≠ 0 ∧ e.active ≠ 0 ∧ lets base e .dev = true ∧
    pinOk base e.det (pinOf e.w (.imm 0x3FFF)) = true ∧
    okAnd (pinPlace base e.det e.ctx (pinOf e.w (.imm 0x3FFF))) (fun q => 0 ≤ (pinValue base q - 0).toInt) = true :=
  meets (by decide +kernel)

theorem test_deterministic_pins_run : ∃ e, Tidy (det base) ∧ (det base).env? g0 = some e ∧ e.active ≠ 0 ∧ lets (det base) e .dev = true ∧
    pinOk (det base) e.det (pinOf e.w (.imm 0)) = true ∧
    okAnd (pinPlace (det base) e.det e.ctx (pinOf e.w (.imm 0))) (fun q => q == .word 0x3000) = true :=
  meets (by decide +kernel)

theorem test_bobbin_held : ∃ e, Tidy (det base) ∧ (det base).env? g0 = some e ∧ e.enabled ≠ 0 ∧ e.det = true ∧ e.w.hold = true ∧
    e.L.bobDone.contains (bobIndex e.L e.wg.index (e.id % 32)) = false ∧ 0 < e.L.counts.headD 1 ∧ e.L.counts.headD 1 ≤ 32 ∧
    lets (det base) e .dev = true ∧ e.w.stCnt = 0 :=
  meets (by decide +kernel)

/-- A wave of a deterministic launch that does not hold the bobbin. -/
def unheld : State := que base fun q => { q with det := true }

theorem test_bobbin_not_held : ∃ e, Tidy unheld ∧ unheld.env? g0 = some e ∧ e.enabled ≠ 0 ∧ e.det = true ∧ e.w.hold = false ∧
    e.w.passed = false ∧ e.L.bobDone.contains (bobIndex e.L e.wg.index (e.id % 32)) = false ∧ releaseReady unheld e .dev = true ∧
    e.wg.stash = [] ∧ e.w.stCnt = 0 :=
  meets (by decide +kernel)

theorem test_bobbin_free : ∃ e, Tidy base ∧ base.env? g0 = some e ∧ e.enabled ≠ 0 ∧ e.det = false ∧ e.w.stCnt = 0 ∧
    (base.stashBack e.wgId (fun _ _ => true)).2 = none :=
  meets (by decide +kernel)

/-- A launch whose one wave has arrived at `phase`, with a backwash word targeted. -/
def phased : State := targeted.modWave 32 fun w => { w with status := .phased }

theorem test_phase_completes : ∃ L, tget? phased.launches (launchKey 1 0) = some L ∧ phaseReady phased L = true ∧
    (phased.flushWords L none L.targeted).2 = none ∧ ((phased.flushWords L none L.targeted).1.stashAll L.wgs).2 = none ∧
    (((phased.flushWords L none L.targeted).1.stashAll L.wgs).1.launchRelease (launchKey 1 0) L).2 = true :=
  any_some (by decide +kernel)

/-- A launch record at 0x30000: its target, and its scope byte. -/
def recorded : State := mem (sregs [(1, 0x30000)]) 0x30000 (leBytes 8 0x20000)

theorem test_launch_runs : ∃ e, Tidy recorded ∧ recorded.env? g0 = some e ∧ e.active ≠ 0 ∧ e.det = false ∧ lets recorded e .dev = true ∧
    (readRecord recorded e (e.w.sreg 1)).toBool = true ∧
    (let s' := letsTo recorded e .dev
     (launchTarget s' e none).any (fun x => !x.2.susp && queueRoom s' x.1 x.2 && sourceTurn s' x.2 (srcPlace .launch) &&
       okAnd (readRecord s' e (e.w.sreg 1)) (fun r => decide (depsAbsorb s' x.2 (some r) = none)))) = true ∧
    launchTarget (letsTo recorded e .dev) e (some 2) = none :=
  meets (by decide +kernel)

theorem test_launch_suspended : ∃ e, Tidy (que recorded fun q => { q with susp := true }) ∧
    (que recorded fun q => { q with susp := true }).env? g0 = some e ∧ lets (que recorded fun q => { q with susp := true }) e .dev = true ∧
    (launchTarget (letsTo (que recorded fun q => { q with susp := true }) e .dev) e none).any (fun x => x.2.susp) = true :=
  meets (by decide +kernel)

/-- The frame of a launch, with a record of each lane at 0x30000. -/
def framed : State := que (sregs [(1, 0x30000), (2, 0x10000)]) fun q => { q with frames := [(0, {})] }

theorem test_ebb_runs : ∃ e, Tidy framed ∧ framed.env? g0 = some e ∧ e.active ≠ 0 ∧ settled framed e = true ∧
    (tget? framed.queues e.L.queue).any (fun Q => (tget? Q.frames e.L.seq).any (fun F => F.marks.length < 4096) &&
      ebbUsed Q + 128 * (lanesOf e.active).length ≤ Q.ebbsize && ebbUsed Q + 64 ≤ Q.ebbsize) = true ∧
    (readRecord framed e (e.w.sreg 1)).toBool = true ∧ e.vTy true 254 = true ∧
    (e.w.sreg 1).toNat % 65536 = 0 ∧ (e.w.sreg 2).toNat % 65536 = 0 ∧ (e.w.sreg 1).toNat ≠ 0 ∧ (e.w.sreg 2).toNat ≠ 0 :=
  meets (by decide +kernel)

/-- A context with a trap ring, and a privileged one. -/
def trapped : State := ctx base fun c => { c with trapring := some ⟨0x50000, 0x51000, 16, 0⟩ }
def privileged : State := ctx base fun c => { c with priv := true }

theorem test_traps_run : ∃ e, Tidy trapped ∧ trapped.env? g0 = some e ∧ e.active ≠ 0 ∧ e.c.trapring.isSome = true ∧
    lets trapped e .sys = true ∧ e.c.priv = false ∧ e.vTy (((privReg 0x800).map (·.wide)).getD false) 254 = true :=
  meets (by decide +kernel)

theorem test_special_registers_run : ∃ e, Tidy base ∧ base.env? g0 = some e ∧ e.enabled ≠ 0 ∧ e.vTy true 254 = true ∧
    e.vTy false 255 = true ∧ (userReg 0).isSome = true ∧ (userReg 0x19).isSome = true :=
  meets (by decide +kernel)

theorem test_privileged_registers_run : ∃ e, Tidy (privileged.modWave 32 fun w => { w with qsel := 1 }) ∧
    (privileged.modWave 32 fun w => { w with qsel := 1 }).env? g0 = some e ∧ e.c.priv = true ∧ e.active ≠ 0 ∧
    (privReg 0x808).isSome = true ∧ lets (privileged.modWave 32 fun w => { w with qsel := 1 }) e .dev = true ∧
    partQueue (privileged.modWave 32 fun w => { w with qsel := 1 }) e e.w.qsel.toNat = true ∧
    (tget? (privileged.modWave 32 fun w => { w with qsel := 1 }).queues e.w.qsel.toNat).isSome = true ∧ e.w.sreg 2 < 3 :=
  meets (by decide +kernel)

/-- A tensor record at pool index 128: four 32-bit elements at 0x30000; the bitmap's offset in `s10`, the dense VA in `s11`. -/
def tensored : State := mem (sregs [(10, 0x20), (11, 0x50000)]) 0x2000
  (leBytes 8 0x30000 ++ [1, 4] ++ leBytes 6 0 ++ leBytes 4 4 ++ leBytes 32 0 ++ [3] ++ leBytes 11 0)
/-- The fields of a shuttle instruction: no completion word. -/
def shut : Shuttle := ⟨g0, 10, 1, 11, 12, .dev, 128⟩

theorem test_shuttle_issues : ∃ e, Tidy tensored ∧ tensored.env? g0 = some e ∧ e.active ≠ 0 ∧ e.w.cpCnt ≠ 63 ∧
    (tensored.cluster e.cluster).locks.length < 64 ∧ settled tensored e = true ∧
    (tensored.fillKeys e.ctx e.wg.core [scrKey e.wgId 0x20]).toBool = true ∧
    okAnd (readPool tensored e shut.pool) (fun r =>
      (shuttleCheck tensored e ⟨{ shuttleOp e shut r .read (originOf e.w 1) with glb := true, tr := false, dense := 0x50000 }, r, 0x20, 0x50000⟩).toBool &&
      (shuttleCheck tensored e ⟨{ shuttleOp e shut r .fill (originOf e.w 1) with pattern := 7 }, r, 0x20, 0⟩).toBool) = true :=
  meets (by decide +kernel)

/-- A tensor record of rank 2 for gathers: four rows of four 32-bit elements. -/
def tensored2 : State := (mem (sregs [(10, 0x20), (2, 0x50000)]) 0x2000
  (leBytes 8 0x30000 ++ [2, 4] ++ leBytes 6 0 ++ leBytes 4 4 ++ leBytes 4 32 ++ leBytes 12 0 ++ leBytes 4 1 ++ leBytes 12 0 ++ [3] ++ leBytes 11 0)).modWave 32
  fun w => putV 11 (fun l => BitVec.ofNat 32 l) w

theorem test_gathers_issue : ∃ e, Tidy tensored2 ∧ tensored2.env? g0 = some e ∧ e.active ≠ 0 ∧ e.vTy false 11 = true ∧
    okAnd (readPool tensored2 e shut.pool) (fun r =>
      (shuttleCheck tensored2 e ⟨{ shuttleOp e shut r .gather [coord (e.w.sreg 1).toNat] with
        glb := true, rows := (lanesOf e.active).map fun l => (e.w.vreg 11 l).toNat, dense := e.w.sreg 2 }, r, 0x20, e.w.sreg 2⟩).toBool) = true :=
  meets (by decide +kernel)

/-- A shuttle operation in flight, as the instruction leaves it. -/
def flying : State := match exec (.shcopy shut false true false) tensored with | .next t => t | _ => tensored

theorem test_shuttle_events : Tidy flying ∧ ∃ o, tget? flying.shuttles 2 = some o ∧ chunkReady flying 2 0 = true ∧ o.awaits 0 = none ∧
    okAnd (fillDense flying o 0) (fun s1 => okAnd (moveChunk s1 o 0) fun x => !writesLocked flying x.1 && x.1.remote.isEmpty) = true ∧
    compPv o.comp = false ∧ o.done.length + 1 = o.chunks ∧ o.wave = some 32 ∧ (tget? flying.waves 32).isSome = true ∧ o.aborted = none ∧
    o.paused = none ∧ (tget? flying.ctxs o.ctx).isSome = true ∧ (flying.wave 32).pc o.lane ≠ exitedPc :=
  ⟨tidy_of (by decide +kernel), any_some (by decide +kernel)⟩

theorem test_shuttle_remote_end : ∃ o, tget? (tmod flying.shuttles 2 fun o => { o with dense := 0x8000000000000000#64 }) 2 = some o ∧
    remoteEnd o = true ∧ o.aborted = none ∧ o.paused = none ∧ o.done.length < o.chunks :=
  any_some (by decide +kernel)

/-- `flying` with its dense side on device 1, and the same once its chunk has been sent there. -/
def flyingOut (ws : List (Nat × List (Nat × Nat × Nat))) : State := { flying with
  fabric := fabricked0, shuttles := tmap flying.shuttles fun _ o => { o with dense := 0x8020000000000000#64, sent := ws } }
where
  /-- Seven devices, this one 0, all members. -/
  fabricked0 : Fabric :=
    { configured := true, q := 2, members := (List.range 7).map fun d => (d, .member)
      ports := (neighbours 2 0).zipIdx.map fun x => (x.2, { up := true, peer := x.1 }) }

theorem test_chunk_sent : (∃ o, tget? (flyingOut []).shuttles 2 = some o ∧ chunkReady (flyingOut []) 2 0 = true ∧ o.awaits 0 = none ∧
      okAnd (fillDense (flyingOut []) o 0) (fun s1 => okAnd (moveChunk s1 o 0) fun x => !writesLocked (flyingOut []) x.1 && !x.1.remote.isEmpty) = true) ∧
    ∃ o, tget? (flyingOut [(0, [(0, 1, 0)])]).shuttles 2 = some o ∧ chunkReady (flyingOut [(0, [(0, 1, 0)])]) 2 0 = true ∧
      o.awaits 0 = some [(0, 1, 0)] ∧ (flyingOut [(0, [(0, 1, 0)])]).fabric.member 1 ≠ .fenced :=
  ⟨any_some (by decide +kernel), any_some (by decide +kernel)⟩

/-- A bitmap word at offset 8 with three bits set; its address and a mask in registers. -/
def mapped : State := { sregs [(1, 8), (2, 5)] with mem := memWrite (sregs []).mem (scrKey 1 8) [7] }

theorem test_bitmaps_run : ∃ e, Tidy mapped ∧ mapped.env? g0 = some e ∧ e.enabled ≠ 0 ∧ (e.w.sreg 1).toNat % 8 = 0 ∧
    (mapped.fillKeys e.ctx e.wg.core [scrKey 1 8]).toBool = true ∧ resolveScr mapped e 8 (e.w.sreg 1) = some (1, 8) ∧ settled mapped e = true ∧
    BitVec.ofNat 64 (mapped.natAt (scrKey 1 8) 8) &&& e.w.sreg 2 = e.w.sreg 2 ∧ mapped.shuttles = [] :=
  meets (by decide +kernel)

/-- Reservations of the gang: 16 KiB of FP32 elements in the buffer, four tiles, 4 KiB of skein; two convergence registers. -/
def hooped : State := (sregs [(2, 0x0800000000000000), (6, 0x4000000000010004), (7, 32), (8, 0x60000), (9, 128)]).modGang 1
  fun G => { G with
    res := [(0, ⟨none, 0, false, 0, 2, 0, 64, 0, 1⟩), (1, ⟨none, 2, false, 0, 0, 0, 4, 0, 1⟩), (2, ⟨none, 1, false, 0, 2, 0, 16, 0, 1⟩)]
    conv := [(0, { expected := 32 }), (1, { expected := 64 })] }

theorem test_buffers_run : ∃ e, Tidy hooped ∧ hooped.env? g0 = some e ∧ e.active ≠ 0 ∧ e.reportsAt (fun r => r.kind = 4) = [] ∧
    (tget? hooped.gangs e.wg.gang).any (fun G =>
      (let r := resOf e.w e.wgId (e.w.sreg 6) (e.w.sreg 7)
       resFault r (e.w.sreg 6) == none && decide (G.res.length < e.H.hres) && (tget? G.res 63).isNone && !G.res.any (fun o => r.meets o.2)) &&
      (tget? G.res (e.w.sreg 4).toNat).any (fun q => !handleBusy hooped e.wg.gang G (e.w.sreg 4).toNat q) &&
      (convOf G 2).count == 0 && (tget? G.res (opRes (e.w.sreg 3))).any (fun r => r.kind = 0 && r.remote.isNone && decide (opOff (e.w.sreg 3) % 4 = 0) &&
        decide (opOff (e.w.sreg 3) + 128 * 8 ≤ r.bytes))) = true ∧
    opStride (e.w.sreg 3) = 0 ∧ opSo (e.w.sreg 3) = 0 ∧ e.vOk 248 8 = true ∧ e.w.ldCnt ≠ 63 ∧ e.w.sreg 7 ≠ 0 ∧ e.w.sreg 7 ≤ 16384 :=
  meets (by decide +kernel)

theorem test_hoop_operations_form : ∃ e, Tidy hooped ∧ hooped.env? g0 = some e ∧ e.active ≠ 0 ∧
    e.reportsAt (fun r => r.kind = 4) = [] ∧ e.wg.chain = false ∧ e.wg.hq.length < 64 ∧ compFault hooped e.det (e.w.sreg 0) = none ∧
    (tget? hooped.gangs e.wg.gang).any (fun G =>
      (tget? G.res (opRes (e.w.sreg 2))).any (fun r => r.kind = 1 && decide (opOff (e.w.sreg 2) + 4096 ≤ r.bytes)) &&
      tilesHeld G 0 4 && queueOf hooped G 0 == some 1 && tilesHeld G 2 2 && queueOf hooped G 2 == some 1) = true ∧
    opStride (e.w.sreg 2) = 0 ∧ opSo (e.w.sreg 2) = 0 ∧ opOff (e.w.sreg 2) % 4 = 0 ∧ (e.w.sreg 8).toNat % 8 = 0 ∧ (e.w.sreg 9).toNat % 8 = 0 :=
  meets (by decide +kernel)

theorem test_chain_ends : ∃ e, Tidy (wgp hooped fun W => { W with chain := true }) ∧
    (wgp hooped fun W => { W with chain := true }).env? g0 = some e ∧ e.active ≠ 0 ∧ e.wg.chain = true ∧ e.wg.hq.length < 64 :=
  meets (by decide +kernel)

theorem test_signatures : ∃ e, Tidy hooped ∧ hooped.env? g0 = some e ∧ e.active ≠ 0 ∧ e.w.tlCnt ≠ 63 ∧
    (tget? hooped.gangs e.wg.gang).any (fun G =>
      (let x := convOf G 0
       mmaFault G .buf 0 0 0 256 x (.mma .buf 0 0 0 256 0 []) == none && decide (x.count + (lanesOf e.active).length = x.expected)) &&
      (let x := convOf G 1
       mmaFault G .buf 3 0 0 2 x (.mma .buf 3 0 0 2 1 []) == none && decide (x.count + (lanesOf e.active).length < x.expected))) = true :=
  meets (by decide +kernel)

/-- A round that one wave's signatures complete: an operation formed, its wave waiting. -/
def forming : State := match exec (.hmma g0 .buf 0 0 0 0 2 0) hooped with | .next t => t | _ => hooped

theorem test_forming : (forming.wave 32).status = .waiting .forming ∧ ∃ G, tget? forming.gangs 1 = some G ∧
    (G.conv.find? fun x => !x.2.formed.isEmpty).any (fun x => x.1 = 0 && x.2.formed.length = 1 && x.2.formed.all fun en =>
      en.wave = 32 && (match en.op with | .mma _ d .. => queueOf forming G d | _ => none) == some 1) = true ∧
    (tget? forming.wgs 1).any (fun W => decide (W.hq.length < 64)) = true :=
  ⟨by decide +kernel, any_some (by decide +kernel)⟩

/-- The state in which the engine finds one entry in its queue. -/
def queued (op : HoopOp) (step : Nat) : State := wgp hooped fun W => { W with
  hq := [{ op, wave := 32, lanes := 1, wg := 1, gang := 1, pc := 0x10000, comp := 0, step }] }
/-- What the engine needs to serve the entry at the head of its cluster's queue. -/
def served (s : State) : Bool := tidyB s && match turnOf s 0 with
  | some (1, W) => (match W.hq[0]? with
    | some en => (match entryLaunch s en, tget? s.gangs en.gang with
      | some (_, _, det), some G => mayRun W det 0 && en.paused.isNone && decide (en.step < entrySteps G en.op)
      | _, _ => false)
    | none => false)
  | _ => false

theorem test_hoop_serves : served (queued (.zero 0 4) 0) = true ∧ served (queued .chainBegin 0) = true ∧ served (queued .chainEnd 0) = true ∧
    served (queued (.mma .buf 0 0 0 4 0 []) 1) = true ∧ served (queued (.skld 0x0800000000000000 0x60000 4096) 0) = true ∧
    served (queued (.acld 0 0x60000 128 false .f32) 0) = true ∧ served (queued (.acst 0 0x60000 128 false false 0 .rne .f32) 0) = true := by
  decide +kernel

theorem test_hoop_multiplies : (tget? hooped.launches (launchKey 1 0)).any (fun L => (tget? hooped.gangs 1).any fun G => (tget? G.res 0).any fun r => r.remote.isNone &&
    !(mmaSteps ⟨.buf, 0, 0, 0, 4, r, r, rangeReader hooped 0 L [] r, rangeReader hooped 0 L [] r⟩ 0
      (stepFault hooped L ⟨.buf, 0, 0, 0, 4, r, r, rangeReader hooped 0 L [] r, rangeReader hooped 0 L [] r⟩) hooped 1 1).2.2.isSome) = true := by
  decide +kernel

theorem test_hoop_loads : (tget? hooped.launches (launchKey 1 0)).any (fun L =>
    isLocalVa 0x60000 && (hoopRead hooped L [] 0x60000 64).toBool) = true := by decide +kernel

/-- An entry whose turn has ended. -/
def ended : State := (queued (.zero 0 4) 1).modCluster 0 fun C => { C with held := true, last := 1 }

theorem test_hoop_entry_completes : Tidy ended ∧ (doneQueue ended 0).any (fun (wg, W, i, en) => wg == 1 && i == 0 &&
      tget? ended.wgs wg == some W && (entryLaunch ended en).isSome && !compPv en.comp) = true :=
  ⟨tidy_of (by decide +kernel), by decide +kernel⟩

/-- The frame record of two by two tiles and a capacity of 16 pairs. -/
def frameRec : List Byte := leBytes 8 0x60000 ++ leBytes 8 0x61000 ++ leBytes 8 0x62000 ++ leBytes 8 0x63000 ++ leBytes 8 0x64000 ++
  leBytes 8 0x65000 ++ leBytes 8 0x66000 ++ leBytes 4 16 ++ leBytes 2 2 ++ leBytes 2 2
/-- A frame record at pool index 129, the rectangle of tiles (0, 0) to (1, 0) in lane 31, which alone passes `g1`. -/
def splatted : State := (mem base 0x2040 frameRec).modWave 32 fun w =>
  (((w.setV 10 31 0x3F800000).setV 11 31 9).setV 13 31 1).setP 1 0xFFFFFFFF 0x80000000

theorem test_keys_emitted : ∃ e, Tidy splatted ∧ splatted.env? g1 = some e ∧ e.vOk 255 1 = true ∧ e.vOk 10 1 = true ∧ e.vOk 12 2 = true ∧
    e.active ≠ 0 ∧ e.w.pairs = [] ∧ e.w.emitBad = [] ∧ settled splatted e = true ∧ e.det = false ∧
    okAnd (readRec splatted e (.pool 129)) (fun bs =>
      let f := frmOf bs
      (misField [(f.keys, 16), (f.cursor, 8)]).isNone && !badCapacity f && !badTiles f &&
      (lanesOf e.active).foldl (fun t l => t + (laneTiles e.w 10 12 l f).length) 0 == 2 &&
      okAnd (resolveLocal splatted e (.atom .add) 8 (lowLane e.active) f.cursor) (fun x => !badLine splatted x.acc.key &&
        (let s1 := ((splatted.readDone e (recVa e (.pool 129)) 64).rmw e.wg.core false .l1 (x.at .glb .dev true) .add .n64 2 0).2
         let ps := issuePairs e f 10 11 12 (splatted.natAt x.acc.key 8)
         let n := fun l => (laneTiles e.w 10 12 l f).length
         let r := emitPairs e ((s1.modWave e.id fun w => { w with pairs := ps, counts := (lanesOf e.active).map fun l => (l, n l) }).sideEffect e.wgId) ps
         r.2.1.isEmpty && r.2.2.isNone && (r.1.wave e.id).emitBad.isEmpty))) = true :=
  meets (by decide +kernel)

theorem test_no_keys_emitted : ∃ e, Tidy (splatted.modWave 32 fun w => w.setV 10 31 0x7FC00000) ∧
    (splatted.modWave 32 fun w => w.setV 10 31 0x7FC00000).env? g1 = some e ∧ e.active ≠ 0 ∧
    okAnd (readRec (splatted.modWave 32 fun w => w.setV 10 31 0x7FC00000) e (.pool 129)) (fun bs =>
      (lanesOf e.active).foldl (fun t l => t + (laneTiles e.w 10 12 l (frmOf bs)).length) 0 == 0) = true :=
  meets (by decide +kernel)

theorem test_sort_starts : ∃ e, Tidy splatted ∧ splatted.env? g1 = some e ∧ e.active ≠ 0 ∧ settled splatted e = true ∧
    okAnd (readRec splatted e (.pool 129)) (fun bs => (sortFault splatted e 0x80000000 (frmOf bs)).isNone) = true :=
  meets (by decide +kernel)

/-- Two pairs emitted in the wrong order, and their sort in flight. -/
def sorting : State := { mem (mem base 0x60000 (pairBytes 0x300000007 1 ++ pairBytes 0x100000009 2)) 0x63000 [2] with
  sorts := [(5, { ctx := 0, det := false, pc := 0x10000, data := frameRec, comp := 0, queue := 1, seq := 0, core := 0, wid := 0 })] }

theorem test_sort_runs : Tidy sorting ∧ ∃ o, tget? sorting.sorts 5 = some o ∧ o.paused = none ∧ o.ran = none ∧
    (let f := frmOf o.data
     let L := opLaunch sorting o.queue o.seq
     okAnd (localRead sorting o.ctx L f.cursor 8) (fun cb => min (leNat cb) f.capacity == 2) = true ∧
     okAnd (localRead sorting o.ctx L f.keys 32) (fun bs =>
       let b7 := [1, 2, 3, 4, 5, 6, 7].foldl (fun xs q => sortPass q xs) ((List.range 2).map (composite bs))
       okAnd (localWrite sorting o.ctx L f.temp (sortedBytes b7)) (fun t => t.all fun x => !tideLocked sorting x.1 1) &&
       okAnd (localWrite sorting o.ctx L f.out (sortedBytes (sortPass 8 b7))) (fun t => t.all fun x => !tideLocked sorting x.1 1)) = true) :=
  ⟨tidy_of (by decide +kernel), any_some (by decide +kernel)⟩

/-- A sort that goes on once it has read its pairs. -/
def pausedSort : SortOp := { ctx := 0, det := false, pc := 0x10000, data := frameRec, comp := 0, queue := 1, seq := 0, core := 0, wid := 0, cursor := some 2, pairs := some [5, 3] }

theorem test_sort_goes_on : let o := pausedSort
    let s := { sorting with sorts := [(5, o)] }
    Tidy s ∧ tget? s.sorts 5 = some o ∧ o.paused = none ∧ o.ran = none ∧
    (localWrite s 0 (opLaunch s 1 0) (frmOf frameRec).temp (sortedBytes ([1, 2, 3, 4, 5, 6, 7].foldl (fun xs q => sortPass q xs) [5, 3]))).toBool = true :=
  ⟨tidy_of (by decide +kernel), by decide +kernel, rfl, rfl, by decide +kernel⟩

/-- The sort when its passes are over. -/
def sorted : State := { sorting with sorts := tmap sorting.sorts fun _ o => { o with ran := some (2, false, 0) } }

theorem test_sort_completes : Tidy sorted ∧ ∃ o, tget? sorted.sorts 5 = some o ∧ o.paused = none ∧ o.ran = some (2, false, 0) ∧
    compPv o.comp = false ∧
    (let f := frmOf o.data
     let L := opLaunch sorted o.queue o.seq
     okAnd (localRead sorted o.ctx L f.out 32) (fun bs =>
       okAnd (localWrite sorted o.ctx L f.seg (segTable f ((List.range 2).map fun i => leAt bs (16 * i + 4) 3)))
         (fun t => t.all fun x => !tideLocked sorted x.1 1)) = true ∧
     okAnd (localWrite sorted o.ctx L f.status (leBytes 1 0 ++ leBytes 1 0 ++ leBytes 2 0 ++ leBytes 4 2))
       (fun t => t.all fun x => !tideLocked sorted x.1 1) = true) :=
  ⟨tidy_of (by decide +kernel), any_some (by decide +kernel)⟩

theorem test_splat_reads_run : ∃ e, Tidy splatted ∧ splatted.env? g1 = some e ∧ e.enabled ≠ 0 ∧ settled splatted e = true ∧
    e.vOk 242 14 = true ∧ e.w.ldCnt ≠ 63 ∧
    okAnd (readRec splatted e (.pool 129)) (fun bs =>
      let f := frmOf bs
      decide (f.seg.toNat % 8 = 0) && !badTiles f && decide ((e.w.sreg 1).toNat < f.tw * f.th) &&
      okAnd (resolveLocal splatted e .load 8 (lowLane e.enabled) f.seg) (fun q => !badLine splatted q.acc.key) &&
      (misField [(f.out, 16), (f.splats, 16)]).isNone && !badCapacity f && decide (((e.w.sreg 1).setWidth 32 : Word).toNat < f.capacity) &&
      okAnd (resolveLocal splatted e .load 4 (lowLane e.enabled) (f.out + 8)) (fun q => !badLine splatted q.acc.key &&
        (splatAccesses splatted e f.splats (splatted.natAt q.acc.key 4) (lowLane e.enabled)).toBool)) = true :=
  meets (by decide +kernel)

theorem test_blending_runs : ∃ e, Tidy splatted ∧ splatted.env? g1 = some e ∧ e.enabled ≠ 0 ∧ e.vOk 20 14 = true ∧ e.vOk 254 2 = true ∧
    e.vOk 40 5 = true ∧ e.vOk 50 10 = true ∧ e.vOk 60 9 = true ∧
    (∀ l ∈ lanesOf e.enabled, (blendLane (group e.w 40 5 l) (group e.w 20 14 l) 0 0).isSome = true) ∧
    ∀ l ∈ lanesOf e.enabled, (gradLane (group e.w 50 10 l) (group e.w 20 14 l) 0 0).isSome = true :=
  meets (by decide +kernel)

theorem test_segments_submitted : ∃ e, Tidy splatted ∧ splatted.env? g1 = some e ∧ e.active ≠ 0 ∧
    e.reportsAt (fun r => r.kind = 5) = [] ∧ e.vOk 248 (segWords .cubic) = true ∧ compFault splatted e.det (e.w.sreg 3) = none :=
  meets (by decide +kernel)

/-- One segment of a wave that waits for the rasteriser, without and with a slot of its tag. -/
def couching : State := wv fun w => { w with status := .waiting .submitted, segs := [[0, 0, 256, 256]], segTag := 7 }
def slotted : State := ctx couching fun c => { c with slots := [(7, {})] }

theorem test_slot_opens : Tidy couching ∧ (couching.wave 32).status = .waiting .submitted ∧ (couching.wave 32).segs = [[0, 0, 256, 256]] ∧
    (waveCtx couching 32).any (fun x => x.1 = 0 && (tget? x.2.slots 7).isNone && decide (x.2.slots.length < x.2.slotq)) = true ∧
    couching.ctxs.foldl (fun n x => n + x.2.slots.length) 0 < 32 :=
  ⟨tidy_of (by decide +kernel), by decide +kernel, by decide +kernel, by decide +kernel, by decide +kernel⟩

theorem test_segment_accepted : Tidy slotted ∧ (slotted.wave 32).segs = [[0, 0, 256, 256]] ∧ (slotted.wave 32).emitBad = [] ∧
    (waveCtx slotted 32).any (fun x => tget? x.2.slots (slotted.wave 32).segTag.toNat == some ({} : Slot)) = true :=
  ⟨tidy_of (by decide +kernel), by decide +kernel, by decide +kernel, by decide +kernel⟩

theorem test_coverage_resolves : ∃ e, Tidy (sregs [(1, 0x30000), (2, 64)]) ∧ (sregs [(1, 0x30000), (2, 64)]).env? g0 = some e ∧ e.active ≠ 0 ∧
    compFault (sregs [(1, 0x30000), (2, 64)]) e.det (e.w.sreg 3) = none ∧ ruleBytes .nz ≤ (e.w.sreg 2).toNat ∧
    (e.w.sreg 1).toNat % 64 = 0 ∧ (e.w.sreg 2).toNat % 64 = 0 ∧ ruleBytes .raw = 128 :=
  meets (by decide +kernel)

/-- The resolve of an empty slot to an image of one row, at 0x30000 or on device 1. -/
def curving (out : DWord) (sent : Option (List (Nat × Nat × Nat))) : State := { base with
  fabric := flyingOut.fabricked0
  resolves := [(5, { ctx := 0, det := false, pc := 0x10000, wave := 32, lane := 0, queue := 1, seq := 0, out, stride := 0, comp := 0, wid := 0, sent })] }


/-- An engine's writes whose bytes are all found are gathered; where none goes to another device, every byte is one of this device. -/
theorem writes_ok {f : DWord → Except (Byte × DWord) EngineByte} (xs : List (DWord × Byte)) (W0 : EngineWrites)
    (h : ∀ x ∈ xs, (f x.1).toBool = true) :
    ∃ W, xs.foldlM (fun (W : EngineWrites) (va, b) => do pure (engineWrite W b (← f va))) W0 = .ok W ∧
      (W.remote = [] → W0.remote = [] ∧ ∀ x ∈ xs, ∃ k, f x.1 = .ok (.key k)) := by
  induction xs generalizing W0 with
  | nil => exact ⟨W0, rfl, fun h => ⟨h, by simp⟩⟩
  | cons x xs ih =>
    have hx := h x (by simp)
    cases hf : f x.1 with
    | error e => simp [hf, Except.toBool] at hx
    | ok y =>
      obtain ⟨W, hW, hr⟩ := ih (engineWrite W0 x.2 y) fun z hz => h z (by simp [hz])
      refine ⟨W, ?_, fun h0 => ?_⟩
      · simp only [List.foldlM_cons, hf]
        exact hW
      · obtain ⟨h1, h2⟩ := hr h0
        cases y with
        | remote => simp [engineWrite] at h1
        | key k => exact ⟨h1, by simpa [hf] using h2⟩

theorem resolveRow_length (sl : Slot) (row : Nat) : (resolveRow sl .nz row).length = 64 := by
  have h : ∀ (xs : List Nat) (acc : List Byte × Word), (xs.foldl (fun (acc : List Byte × Word) col =>
      let sum := acc.2 + tgetD sl.cover (32 * row + col) 0
      let a := sum + tgetD sl.area (32 * row + col) 0
      (acc.1 ++ leBytes 2 (pixelOut .nz a), sum)) acc).1.length = acc.1.length + 2 * xs.length := by
    intro xs
    induction xs with
    | nil => simp
    | cons x xs ih => intro acc; simp only [List.foldl_cons, ih, List.length_append, List.length_cons]; simp [leBytes]; omega
  exact h (List.range 32) ([], 0)

/-- A resolve whose rows all go to the same 64 bytes, which are found. -/
theorem resolve_ok {s : State} {o : ResolveOp} (hr : o.rule = .nz) (h0 : o.stride = 0)
    (h : ∀ i < 64, (engineByte s o.ctx (opLaunch s o.queue o.seq) (o.out + BitVec.ofNat 64 i) .write).toBool = true) :
    ∃ W, resolveCells s o = .ok W ∧ (W.remote = [] → ∃ k, engineByte s o.ctx (opLaunch s o.queue o.seq) o.out .write = .ok (.key k)) := by
  unfold resolveCells
  suffices h : ∀ x ∈ _, (engineByte s o.ctx (opLaunch s o.queue o.seq) (Prod.fst x) .write).toBool = true by
    obtain ⟨W, hW, hk⟩ := writes_ok (f := fun va => engineByte s o.ctx (opLaunch s o.queue o.seq) va .write) _ {} h
    refine ⟨W, hW, fun hW => ?_⟩
    have hl := resolveRow_length o.slot 0
    obtain ⟨b, row, hb⟩ := List.exists_cons_of_length_pos (show 0 < (resolveRow o.slot .nz 0).length by omega)
    have := (hk hW).2 (o.out, b) (List.mem_flatMap.2 ⟨0, by decide, List.mem_map.2 ⟨(b, 0), by rw [hr, hb]; simp, by simp [h0]⟩⟩)
    exact this
  intro x hx
  simp only [List.mem_flatMap, List.mem_map, hr, h0] at hx
  obtain ⟨r, -, ⟨b, i⟩, hi, rfl⟩ := hx
  have hl := resolveRow_length o.slot r
  generalize resolveRow o.slot .nz r = row at hi hl
  have hi' := List.snd_lt_of_mem_zipIdx hi
  simp only at hi'
  simpa using h i (by omega)
theorem test_coverage_completes :
    (∃ o W, tget? (curving 0x30000 none).resolves 5 = some o ∧ o.paused = none ∧ compPv o.comp = false ∧ o.sent = none ∧
      resolveCells (curving 0x30000 none) o = .ok W ∧ writesLocked (curving 0x30000 none) W = false) ∧
    (∃ o W, tget? (curving 0x8020000000000000 none).resolves 5 = some o ∧ o.sent = none ∧
      resolveCells (curving 0x8020000000000000 none) o = .ok W ∧ W.remote ≠ []) ∧
    ∃ o, tget? (curving 0x8020000000000000 (some [(0, 1, 0)])).resolves 5 = some o ∧ o.sent = some [(0, 1, 0)] ∧
      (curving 0x8020000000000000 none).fabric.member 1 ≠ .fenced ∧ (curving 0x8020000000000000 none).hasAnswers [(0, 1, 0)] = true := by
  refine ⟨?_, ?_, any_some (by decide +kernel)⟩
  · obtain ⟨o, ho, h1, h2, h3, hr, hs, hb⟩ : ∃ o, tget? (curving 0x30000 none).resolves 5 = some o ∧ o.paused = none ∧ compPv o.comp = false ∧
        o.sent = none ∧ o.rule = .nz ∧ o.stride = 0 ∧ ((List.range 64).all fun i =>
          (engineByte (curving 0x30000 none) o.ctx (opLaunch (curving 0x30000 none) o.queue o.seq) (o.out + BitVec.ofNat 64 i) .write).toBool) = true :=
      any_some (by decide +kernel)
    obtain ⟨W, hW, -⟩ := resolve_ok hr hs fun i hi => List.all_eq_true.1 hb i (List.mem_range.2 hi)
    exact ⟨o, W, ho, h1, h2, h3, hW, List.any_eq_false.2 fun x _ => by simp [tideLocked, heldFor, curving, show base.locked = [] from rfl, show base.replicas = [] from rfl]⟩
  · obtain ⟨o, ho, h1, hr, hs, hb, hk⟩ : ∃ o, tget? (curving 0x8020000000000000 none).resolves 5 = some o ∧ o.sent = none ∧ o.rule = .nz ∧ o.stride = 0 ∧
        ((List.range 64).all fun i => (engineByte (curving 0x8020000000000000 none) o.ctx (opLaunch (curving 0x8020000000000000 none) o.queue o.seq)
          (o.out + BitVec.ofNat 64 i) .write).toBool) = true ∧
        (match engineByte (curving 0x8020000000000000 none) o.ctx (opLaunch (curving 0x8020000000000000 none) o.queue o.seq) o.out .write with
          | .ok (.remote _) => true | _ => false) = true := any_some (by decide +kernel)
    obtain ⟨W, hW, hx⟩ := resolve_ok hr hs fun i hi => List.all_eq_true.1 hb i (List.mem_range.2 hi)
    refine ⟨o, W, ho, h1, hW, fun h => ?_⟩
    obtain ⟨k, hk'⟩ := hx h
    rw [hk'] at hk
    cases hk

/-- The bin record of one tile. -/
def binBytes : List Byte := leBytes 8 0x70000 ++ leBytes 8 4096 ++ leBytes 8 0x80000 ++ leBytes 8 0x90000 ++ leBytes 2 1 ++ leBytes 2 1 ++ leBytes 28 0
/-- A bin record at pool index 130. -/
def binned : State := (mem base 0x2080 binBytes).modWave 32 fun w => w.setP 1 0xFFFFFFFF 0x80000000

theorem test_triangles_submitted : ∃ e, Tidy binned ∧ binned.env? g1 = some e ∧ e.active ≠ 0 ∧ e.reportsAt (fun r => r.kind = 5) = [] ∧
    e.vOk 255 1 = true ∧ e.vOk 246 10 = true ∧ settled binned e = true ∧
    okAnd (readRec binned e (.pool 130)) (fun bs => (binFault bs).isNone && (compFault binned e.det (e.w.sreg 1)).isNone &&
      decide ((e.w.sreg 2).toNat < (binOf bs).tw * (binOf bs).th) &&
      (resolveLocal binned e .store 64 (lowLane e.active) (binOf bs).state).toBool && (localRead binned e.ctx (some e.L) (binOf bs).state 64).toBool &&
      lets binned e .dev) = true :=
  meets (by decide +kernel)

/-- A triangle of a wave that waits for the binner: half of the tile. -/
def submitted : State := binned.modWave 32 fun w => { w with
  status := .waiting .submitted, triRec := binBytes, triDst := 9, tris := [(31, [0, 0, 256, 0, 0, 256, 0, 0, 0, 5])] }

theorem test_triangle_binned : Tidy submitted ∧ (submitted.wave 32).status = .waiting .submitted ∧ (submitted.wave 32).emitBad = [] ∧
    (waveCtx submitted 32).isSome = true ∧ (tget? submitted.launches (launchKey 1 0)).any (fun L =>
      match binTriangle submitted 32 0 false (some L) binBytes [0, 0, 256, 0, 0, 256, 0, 0, 0, 5] with | .status n _ => n == 1 | _ => false) = true :=
  ⟨tidy_of (by decide +kernel), by decide +kernel, by decide +kernel, by decide +kernel, by decide +kernel⟩

/-- The resolve of a tile without triangles. -/
def resolving : State := { binned with vresolves := [(5, { ctx := 0, det := false, pc := 0x10000, wave := 32, lane := 0, queue := 1, seq := 0, data := binBytes, comp := 0, wid := 0 })] }

theorem test_tile_resolves : Tidy resolving ∧ ∃ o, tget? resolving.vresolves 5 = some o ∧ o.paused = none ∧ compPv o.comp = false ∧
    okAnd (tileCells resolving o) (fun cells => cells.all fun x => !tideLocked resolving x.1 1) = true :=
  ⟨tidy_of (by decide +kernel), any_some (by decide +kernel)⟩

/-- An image record at pool index 131: four by four texels of four 8-bit channels. -/
def imaged : State := (mem base 0x20C0 (leBytes 8 0xA0000 ++ leBytes 8 0 ++ leBytes 4 4 ++ leBytes 4 4 ++ [1, 0, 2, 0] ++ leBytes 36 0)).modWave 32
  fun w => w.setP 1 0xFFFFFFFF 0x80000000

theorem test_lookups_issue : ∃ e, Tidy imaged ∧ imaged.env? g1 = some e ∧ e.enabled ≠ 0 ∧ e.vOk 252 4 = true ∧ e.vOk 250 6 = true ∧
    e.w.ldCnt ≠ 63 ∧ settled imaged e = true ∧ e.H.quad = true ∧ e.vOk 255 1 = true ∧
    okAnd (readRec imaged e (.pool 131)) (fun bs => (imgFault bs).isNone && (lanesOf e.enabled).all fun l =>
      (laneLookup imaged e (imgOf bs) false true [3, 3, 0] l).toBool && (laneLookup imaged e (imgOf bs) false false [0x3F000000, 0, 0] l).toBool &&
      (laneLookup imaged e (imgOf bs) true false [0, 0, 0, 0, 0, 0] l).toBool) = true :=
  meets (by decide +kernel)

/-- A state after an instruction, or the state itself. -/
def after (i : Instr) (s : State) : State := match exec i s with | .next t => t | _ => s

/-- A wave with an `ld` of the last lane's 32 bits in flight, and one with an `st`. -/
def loading : State := after (.ld { plainMem .glb (.alu .n32) with g := g1 }) (addressed.modWave 32 fun w => w.setP 1 0xFFFFFFFF 0x80000000)
def storing : State := after (.st (plainMem .glb .i8)) addressed
/-- What the outside says of a load that stays within the device. -/
def local_ : LdReply := { fromL1 := false, remote := [], errs := [] }

theorem test_loads_performed : Tidy loading ∧ ∃ w, tget? loading.waves 32 = some w ∧ (∃ W, tget? loading.wgs (wgOf 32) = some W ∧
    (w.loads.head?.any fun p => loadReady loading 32 W.core p local_ && p.op == .ld 10 (.alu .n32) && p.zeros == 0 && p.acc.length == 1 &&
      p.acc.all fun x => !x.remote && !badLine loading x.key && decide (x.lane = 31)) = true) :=
  ⟨tidy_of (by decide +kernel), (any_some (P := fun w => ((tget? loading.wgs (wgOf 32)).any fun W => (w.loads.head?.any fun p =>
      loadReady loading 32 W.core p local_ && p.op == .ld 10 (.alu .n32) && p.zeros == 0 && p.acc.length == 1 &&
      p.acc.all fun x => !x.remote && !badLine loading x.key && decide (x.lane = 31)) = true) = true) (by decide +kernel)).imp
    fun _ h => ⟨h.1, any_some h.2⟩⟩

theorem test_stores_performed : Tidy storing ∧ ((storing.core 0).fifo.head?.any fun p => storeReady storing 0 p && p.counted &&
    (tget? storing.waves p.wave).isSome && p.lanes.length == 32 && p.lanes.all fun x => !x.acc.remote && (match x.op with | .plain _ => true | _ => false)) = true :=
  ⟨tidy_of (by decide +kernel), by decide +kernel⟩

/-- `landsHere` as a test, but for the state that the fills leave. -/
def landsB (s : State) (wave core : Nat) (p : PendingLoad) : Bool :=
  loadReady s wave core p local_ && p.zeros == 0 && (s.fillAccs (waveCtxId s wave) core (p.op.size p.acc) p.acc).2.isEmpty &&
  p.acc.all fun x => !x.remote && !badLine s x.key && decide (x.lane < 32)
/-- No workgroup of these states maps a range. -/
def unmapped (s : State) : Bool := s.wgs.all fun x => x.2.stash.isEmpty

/-- Whether the oldest load-class operation of wave 32 lands on this device, and a test holds of it. -/
def landing (s : State) (f : PendingLoad → Bool) : Bool :=
  tidyB s && unmapped s && (tget? s.waves 32).any fun w => (tget? s.wgs (wgOf 32)).any fun W => w.loads.head?.any fun p => landsB s 32 W.core p && f p

theorem landsHere_of {s : State} {core : Nat} {p : PendingLoad} (hs : ∀ x ∈ s.wgs, x.2.stash = []) (h : landsB s 32 core p = true) :
    landsHere s 32 core p local_ := by
  simp only [landsB, Bool.and_eq_true, beq_iff_eq, List.all_eq_true, Bool.not_eq_true', decide_eq_true_eq] at h
  exact ⟨h.1.1.1, rfl, rfl, rfl, h.1.1.2, fillAccs_none hs .., fun x hx => ⟨(h.2 x hx).1.1, (h.2 x hx).1.2, (h.2 x hx).2⟩⟩

/-- Every other read of `addressed`, and an atomic operation, in flight. -/
theorem test_reads_perform :
    landing (after (.lds (plainMem .glb (.alu .i64))) addressed) (fun p => (match p.op with | .lds .. => true | _ => false) && p.acc.length == 1) = true ∧
    landing (after (.ldq (plainMem .glb (.alu .f32)) 1) addressed) (fun p => match p.op with | .ldq .. => true | _ => false) = true ∧
    landing (after (.atom (plainMem .glb (.alu .n32)) .add) addressed) (fun p => match p.op with
      | .atom _ _ _ vs => decide (p.acc.map (·.lane)).Nodup && p.acc.all fun x => !isPrvKey x.key && (vs.find? fun y => y.1 = x.lane).isSome
      | _ => false) = true ∧
    landing (after (.spfetch g1 242 1 (.pool 129)) splatted) (fun p => (match p.op with | .spfetch .. => true | _ => false) &&
      (List.range 32).all fun l => decide ((p.acc.filter fun x => x.lane = l).length ≤ 12)) = true ∧
    landing (after (.texs g1 false 252 250 5 (.pool 131)) imaged) (fun p => match p.op with
      | .tex grad fetch _ _ img co => decide (co.map (·.1)).Nodup && co.all fun y => decide (y.1 < 32) &&
          decide ((texValue img grad fetch y.2 ((p.acc.filter fun x => x.lane = y.1).map fun _ => 0)).1.length ≤ 4)
      | _ => false) = true ∧
    landing (after (.hbrd g0 248 3 7) hooped) (fun p => (match p.op with | .hbrd .. => true | _ => false) && p.acc.isEmpty) = true := by
  decide +kernel

/-- Whether the oldest store of core 0 can be performed on bytes of this device, and a test holds of each of its lanes. -/
def lanesReady (s : State) (f : PendingStore → LaneStore → Bool) : Bool :=
  tidyB s && unmapped s && (s.ctxs.all fun x => x.2.stalled.isEmpty) && (s.core 0).ops.isEmpty && (s.core 0).flying.isEmpty &&
  ((s.core 0).fifo.head?.any fun p => storeReady s 0 p && p.counted && (tget? s.waves p.wave).isSome && p.lanes.all fun x =>
    !x.acc.remote && !badLine s x.acc.key && !isPrvKey x.acc.key && f p x)
/-- A word at 0x30010, whose home slice is full and can evict nothing. -/
def crowded : State := ctx (addressed.modWave 32 fun w => w.setP 1 0xFFFFFFFF 0x80000000)
  fun c => { c with accums := (List.range 2048).map fun i => (0x31000 + 4 * i, { slice := sliceOf 0x30010 }) }

theorem test_updates_perform :
    lanesReady (after (.red (plainMem .glb (.alu .n32)) .add) addressed) (fun _ x => !inL1 x.acc && (match x.op with | .red .. => true | _ => false)) = true ∧
    lanesReady (after (.bwaddR (plainMem .glb (.alu .f32))) addressed) (fun _ x => !inL1 x.acc && (match x.op with | .bwadd false _ => true | _ => false)) = true ∧
    (let s := after (.bwaddX (plainMem .glb (.alu .f32))) (ctx addressed fun c => { c with accums := [(0x30010, {})] })
     lanesReady s (fun p x => (match x.op with | .bwadd true _ => true | _ => false) &&
       (tget? s.ctxs p.ctx).any fun c => (tget? c.accums x.acc.va.toNat).isSome)) = true ∧
    (let s := after (.bwaddX { plainMem .glb (.alu .f32) with g := g1 }) (addressed.modWave 32 fun w => w.setP 1 0xFFFFFFFF 0x80000000)
     lanesReady s (fun p x => p.lanes == [x] && decide ((sliceAccums s (sliceOf x.acc.key)).length < 2048) &&
       (tget? s.ctxs p.ctx).any fun c => (tget? c.accums x.acc.va.toNat).isNone)) = true := by
  decide +kernel

/-- A word whose home slice is full of accumulators of its own context, which has no room for a record, takes no contribution (R192). -/
theorem bwAdd_none {s : State} {ctx key va : Nat} {c : Context} (v : Word) (hc : s.ctxs = [(ctx, c)]) (ha : tget? c.accums va = none)
    (hn : c.accums.length = 2048) (hs : ∀ x ∈ c.accums, x.2.slice = sliceOf key) (hf : spillFull c = true) (hp : c.spills = []) :
    s.bwAdd ctx key va v = none := by
  have hx : tget? s.ctxs ctx = some c := by simp [hc, tget?]
  have hl : sliceAccums s (sliceOf key) = c.accums.map fun x => (ctx, x.1) := by
    simp only [sliceAccums, hc, List.flatMap_cons, List.flatMap_nil, List.append_nil]
    rw [List.filter_eq_self.2 fun x hx => by simpa using hs x hx]
  simp only [State.bwAdd, hx, ha, State.sliceRoom, hl, List.length_map, hn, Nat.lt_irrefl, if_false, Option.map_eq_none_iff]
  refine List.findSome?_eq_none_iff.2 fun y hy => ?_
  obtain ⟨x, -, rfl⟩ := List.mem_map.1 hy
  simp only [State.evict, hx]
  cases tget? c.accums x.1 <;> simp [hf, hp]

/-- The contribution to that word in flight. -/
def refused : State := after (.bwaddX { plainMem .glb (.alu .f32) with g := g1 }) crowded

theorem test_contribution_refused :
    lanesReady refused (fun p x => p.lanes == [x] && x.acc.key == 0x30010 && x.acc.va == 0x30010 && p.ctx == 0 &&
      (match x.op with | .bwadd true _ => true | _ => false) && (refused.wave p.wave).pc x.acc.lane != exitedPc) = true ∧
    ∀ v, refused.bwAdd 0 0x30010 0x30010 v = none := by
  have hm : (match refused.ctxs with
    | [(0, c)] => (tget? c.accums 0x30010).isNone && c.accums.length == 2048 && c.accums.all (·.2.slice == sliceOf 0x30010) && spillFull c && c.spills.isEmpty
    | _ => false) = true := by decide +kernel
  refine ⟨by decide +kernel, fun v => ?_⟩
  split at hm
  · rename_i c hc
    simp only [Bool.and_eq_true, beq_iff_eq, List.all_eq_true, List.isEmpty_iff, Option.isNone_iff_eq_none] at hm
    exact bwAdd_none v hc hm.1.1.1.1 hm.1.1.1.2 hm.1.1.2 hm.1.2 hm.2
  · cases hm

theorem test_caches_fill : ∃ c, tget? coded.ctxs 0 = some c ∧ (lineOf 0x10000).toNat < 2 ^ 57 ∧
    okAnd (translate coded (some 0) 0 c (lineOf 0x10000).toNat .fetch) (fun p => (readLine coded p).2 == 0) = true ∧
    isLocalVa 0x3FFFF = true ∧ okAnd (walk coded c 0x3FFFF) (fun _ => true) = true :=
  any_some (by decide +kernel)
/-- A launch record: a kernel at 0x20000, counts of 1, with the given flags. -/
def record (flags : Nat) : List Byte :=
  leBytes 8 0x20000 ++ leBytes 4 1 ++ leBytes 4 1 ++ leBytes 4 1 ++ leBytes 4 1 ++ leBytes 4 1 ++ leBytes 2 0 ++ leBytes 2 flags ++ leBytes 32 0
/-- A kernel header: deterministic and idempotent, 8 vector registers, one wave, one split factor of 2. -/
def kernelBytes : List Byte :=
  leBytes 4 1 ++ leBytes 4 3 ++ leBytes 8 0x10000 ++ [5, 0, 0, 10, 10, 10, 0, 0] ++ leBytes 2 8 ++ [1, 0] ++ leBytes 8 0 ++ [1, 0] ++ leBytes 26 0 ++
  leBytes 4 2 ++ leBytes 188 0
/-- `base` with one record pending in the ring at 0x70000 and one offered. -/
def ringing : State := que (mem (mem base 0x70000 (record 0)) 0x20000 kernelBytes) fun q => { q with
  ring := 0x70000, tail := 1, lastSrc := 4, offers := [⟨0x70000, .launch, none, []⟩] }
/-- `ringing` with its record accepted. -/
def acceptedState : State := match tget? ringing.queues 1 with
  | some Q => { ringing with launches := tput ringing.launches (launchKey 1 1) (launchOf ringing 1 Q 0x70000 (some (record 0)) none false) }
  | none => ringing

theorem test_tail_written : ∃ Q, tget? ringing.queues 1 = some Q ∧ (2 - Q.head).toNat > Q.entries ∧ (1 - Q.head).toNat ≤ Q.entries :=
  any_some (by decide +kernel)

theorem test_launch_accepted : ∃ Q, tget? ringing.queues 1 = some Q ∧ queueRoom ringing 1 Q = true ∧ Q.susp = false ∧ Q.head ≠ Q.tail ∧
    depsAbsorb ringing Q (some (record 0)) = none ∧
    okAnd (takeRecord ringing Q (Q.ring + BitVec.ofNat 64 (64 * (Q.head.toNat % max 1 Q.entries)))) (· == some (record 0)) = true ∧
    firstOffer (srcPlace .launch) Q.offers = some (⟨0x70000, .launch, none, []⟩, []) ∧ sourceTurn ringing Q (srcPlace .ring) = true := any_some (by decide +kernel)

/-- `ringing` when the ring has had its turn. -/
def offering : State := que ringing fun q => { q with lastSrc := srcPlace .ring }

theorem test_offer_accepted : ∃ Q, tget? offering.queues 1 = some Q ∧ queueRoom offering 1 Q = true ∧ sourceTurn offering Q (srcPlace .launch) = true ∧
    firstOffer (srcPlace .launch) Q.offers = some (⟨0x70000, .launch, none, []⟩, []) ∧
    okAnd (offeredRecord offering Q ⟨0x70000, .launch, none, []⟩) (fun r => decide (depsAbsorb offering Q r = none)) = true :=
  any_some (by decide +kernel)

theorem test_launch_eligible : ∃ L, tget? acceptedState.launches (launchKey 1 1) = some L ∧ L.queue = 1 ∧ L.state = .accepted ∧ L.reject = 0 ∧
    L.graph = false ∧ wgTotal L ≠ 0 ∧ ((tget? acceptedState.queues 1).any fun Q => depsMet acceptedState Q L &&
    okAnd (acceptedState.readCtx L.ctx L.target.toNat 256) fun r => headerReason true r == 0 && !badCounts true Q.gang (headerOf r) L.counts &&
      (headerOf r).splits == [2] && !neverPlaced acceptedState Q 1 (headerOf r) L) = true := any_some (by decide +kernel)

/-- The place of a gang on an empty device in deterministic mode, which depends on the cluster's harvested core. -/
theorem det_place {s : State} {k : Nat} {L : Launch} {H : Header} {slot : Nat} {b : Machine.Bind} {ys : Table Machine.Bind}
    (hw : s.wgs = []) (hQ : L.queue = 1) (h1 : detCluster s 0 L L.nextWg = some 0)
    (h2 : (clearing s 0 k L 0 || !hoopFits s 0 H none) = false) (h3 : L.c2 = 1) (h4 : L.nextWg = 0)
    (h5 : (wgLoad H (L.counts.headD 1) 1).fits = true)
    (hb : bindsOf s 1 = (slot, b) :: ys) (h6 : ((bindClusters s 0 b).contains 0 && bindTakes s L slot b 1) = true) :
    placeDet s 0 k L H = some ⟨slot, 0, [detCore 0 0]⟩ := by
  have hl : coreLoad s (detCore 0 0) = {} := by simp [coreLoad, hw]
  simp only [Bool.and_eq_true, List.contains_eq_mem, decide_eq_true_eq] at h6
  have h0 (x : Load) : ({} : Load).plus x = x := by simp [Load.plus]
  simp only [placeDet, h1, hQ, h2, h3]
  simp [h4, hl, h0, hb, h6.1, h6.2]
  simpa using h5

theorem det_candidate {s : State} {q : Queue} {k : Nat} {L : Launch} {H : Header} {p : Place}
    (hq : s.queues = [(1, q)]) (hd : q.det = true) (hp : queuePart s q = 0) (hx : (tget? s.ctxs q.ctx).isNone = false)
    (hf : (s.launches.find? fun (_, L) => L.queue = 1 && L.state == .eligible && L.reject = 0 && L.header.isSome && L.nextWg < wgTotal L) = some (k, L))
    (hh : L.header = some H) (hc : placeDet s 0 k L H = some p) : candidatesOf s 0 = [⟨k, L, H, some p⟩] := by
  simp only [candidatesOf, hq, List.filterMap_cons, List.filterMap_nil]
  simp only [hp, hx, hf, hh, placeOf, hd]
  simp [hc]

/-- A deterministic queue, its eligible launch, and an empty device on which the launch's first gang can be placed, after 4096
rounds without a place. -/
def detQueue : Queue :=
  { ring := 0, entries := 1, ctx := 0, prio := 0, det := true, always := false, gang := 16, headwb := 0, ebb := 0x40000, ebbsize := 0x10000, rejlog := 0, seq := 2 }
def placing : Launch :=
  { ctx := 0, queue := 1, seq := 1, recVa := 0, target := 0x20000, counts := [1, 1, 1, 1, 1], prio := 0, relSys := false, flags := 0, args := 7,
    pin := 0, pininc := 0, deps := [], hdrVa := 0x20000, header := some (headerOf kernelBytes), state := .eligible }
def placeable : State := { base with
  queues := [(1, detQueue)], launches := [(launchKey 1 1, placing)], binds := [(0, ⟨1, true, 16, 1, 0xFFFF⟩)], wgs := [], gangs := [], waves := []
  stalls := [(0, { launch := launchKey 1 1, first := 0, rounds := 4096 })] }

theorem placing_placed : placeDet placeable 0 (launchKey 1 1) placing (headerOf kernelBytes) = some ⟨0, 0, [detCore 0 0]⟩ :=
  det_place (b := ⟨1, true, 16, 1, 0xFFFF⟩) (ys := []) (by decide +kernel) rfl (by decide +kernel) (by decide +kernel) (by decide +kernel) rfl
    (by decide +kernel) (by decide +kernel) (by decide +kernel)

theorem test_gang_placed : ∃ c p, (candidatesOf placeable 0).all (fun c => c.L.nextWg ≠ 0 ||
      (match tget? placeable.queues c.L.queue with | some q => !neverPlaced placeable q c.L.queue c.H c.L | none => true)) = true ∧
    preferred ((candidatesOf placeable 0).filter fun c => c.place.isSome) = some c ∧ c.place = some p ∧
    tget? placeable.launches c.key = some c.L ∧ p.cores.length = c.L.c2 ∧ c.L.counts.headD 1 ≤ 32 := by
  have hc := det_candidate (s := placeable) (q := detQueue) (by decide +kernel) rfl (by decide +kernel) (by decide +kernel) (by decide +kernel) rfl
    placing_placed
  refine ⟨⟨launchKey 1 1, placing, headerOf kernelBytes, some ⟨0, 0, [detCore 0 0]⟩⟩, ⟨0, 0, [detCore 0 0]⟩, ?_, ?_, rfl, by decide +kernel, by decide, by decide⟩
  · rw [hc]
    have h : neverPlaced placeable detQueue 1 (headerOf kernelBytes) placing = false := by decide +kernel
    have hq : tget? placeable.queues 1 = some detQueue := by decide +kernel
    have h1 : placing.queue = 1 := rfl
    simp [h1, hq, h]
  · have hk : placing.skips = 0 := rfl
    simp [hc, preferred, hk]

theorem test_gang_stall : ∃ x L H q, tget? placeable.stalls 0 = some x ∧ tget? placeable.launches x.launch = some L ∧ L.header = some H ∧
    tget? placeable.queues L.queue = some q ∧ 4096 ≤ x.rounds ∧ x.clear = none ∧ queueClusters placeable 0 L.queue = [0] ∧
    gangsToLeave placeable 0 x.launch L H q.det 0 = some [] := by
  refine ⟨{ launch := launchKey 1 1, first := 0, rounds := 4096 }, placing, headerOf kernelBytes, detQueue, by decide +kernel, by decide +kernel, rfl,
    by decide +kernel, by decide, rfl, by decide +kernel, ?_⟩
  have hg : (gangsOn placeable 0).filter (movable placeable) = [] := rfl
  have hw : placeable.without [] = placeable := rfl
  have hd : detQueue.det = true := rfl
  have hi : wholeImages placeable [] = true := rfl
  simp [gangsToLeave, hg, sublistsOf, hw, hd, hi, placing_placed]

theorem test_launch_granted : (ungranted placeable 1).head? = some (launchKey 1 1, placing) := by decide +kernel

theorem test_ageing : (tget? base.waves 32).isSome = true := by decide +kernel

/-- `base` once its wave's lanes have exited. -/
def retiring : State := wv fun w => { w with status := .retired, vpc := [] }
def retiredState : State := after (.workgroupRetire 1) (que retiring fun q => { q with frames := [(0, {})] })

theorem test_workgroup_retires : Tidy retiring ∧ ∃ W, tget? retiring.wgs 1 = some W ∧ retireReady retiring 1 W = true ∧ W.ended = false ∧
    (tget? retiring.launches W.launch).isSome = true ∧ (tget? retiring.gangs W.gang).any (fun G => !gangLive retiredState G) = true :=
  ⟨tidy_of (by decide +kernel), any_some (by decide +kernel)⟩

theorem test_launch_completes : Tidy retiredState ∧ ∃ L, tget? retiredState.launches (launchKey 1 0) = some L ∧ L.queue = 1 ∧ L.seq = 0 ∧
    completeReady retiredState (launchKey 1 0) L = true ∧ (retiredState.flushWords L none L.targeted).2 = none ∧
    ((retiredState.flushWords L none L.targeted).1.launchRelease (launchKey 1 0) L).2 = true ∧
    L.reject = 0 ∧ L.ended = false ∧ pinValid L.pin.toNat = false ∧
    ((tget? retiredState.queues 1).any fun Q => (tget? Q.frames 0).isSome) = true :=
  ⟨tidy_of (by decide +kernel), any_some (by decide +kernel)⟩
/-- A graph launch whose walker stands at a node with these bytes at 0x80000, between its header and its successor. -/
def walking (kind : Nat) (body : List Byte) : State :=
  { lch (mem (que base fun q => { q with frames := [(0, {})] }) 0x80000 ([BitVec.ofNat 8 kind] ++ leBytes 15 0 ++ leBytes 8 0x80040 ++ body)) fun L =>
      { L with flags := 2, state := .walking } with
    walkers := [(5, { launch := launchKey 1 0, part := 0, node := 0x80000 })] }
/-- The walker of `walking` at its node. -/
def nodeOf (s : State) : Option AtNode := do
  let w ← tget? s.walkers 5
  let L ← tget? s.launches w.launch
  let q ← tget? s.queues L.queue
  let r ← (s.readCtx L.ctx w.node.toNat 64).toOption
  return ⟨5, w, L, q, r⟩
/-- Whether the walker stands at a well-formed node of a kind whose gate is open, and a test holds of it. -/
def stands (s : State) (kind : Nat) (p : AtNode → Bool) : Bool := (nodeOf s).any fun x =>
  !x.w.ended && !x.w.unwind && !x.w.broken && x.w.pending == 0 && x.w.node.toNat % 64 == 0 && !nodeBad s x.q.det x.r && leAt x.r 0 1 == kind && x.gateOpen s && p x

theorem stands_at {s : State} {kind : Nat} {p : AtNode → Bool} (h : stands s kind p = true) : ∃ x, standsAt s kind x ∧ p x = true := by
  unfold stands nodeOf at h
  obtain ⟨x, hx, h⟩ := (Option.any_eq_true _ _).1 h
  simp only [Option.bind_eq_bind, Option.bind_eq_some_iff, Option.pure_def, Option.some.injEq] at hx
  obtain ⟨w, hw, L, hL, q, hq, r, hr, rfl⟩ := hx
  have hr' : s.readCtx L.ctx w.node.toNat 64 = .ok r := by
    cases h' : s.readCtx L.ctx w.node.toNat 64 <;> simp_all [Except.toOption]
  simp only [Bool.and_eq_true, Bool.not_eq_true', beq_iff_eq] at h
  exact ⟨⟨5, w, L, q, r⟩, ⟨hw, hL, hq, h.1.1.1.1.1.1.1.1, h.1.1.1.1.1.1.1.2, h.1.1.1.1.1.1.2, h.1.1.1.1.1.2, h.1.1.1.1.2, hr', h.1.1.1.2, h.1.1.2, h.1.2⟩, h.2⟩

theorem test_nodes_stand : (∃ x, standsAt (walking 0 []) 0 x ∧ true = true) ∧ (∃ x, standsAt (walking 1 (leBytes 8 0x70000)) 1 x ∧ true = true) ∧
    (∃ x, standsAt (walking 2 (leBytes 16 0x30000)) 2 x ∧ (leAt x.r 0x28 8 == 0) = true) ∧
    (∃ x, standsAt (walking 2 (leBytes 16 0x30000 ++ [1])) 2 x ∧ (leAt x.r 0x28 8 == 1) = true) ∧
    (∃ x, standsAt (walking 5 []) 5 x ∧ true = true) ∧
    (∃ x, standsAt (walking 7 (leBytes 4 0x80000000)) 7 x ∧ (x.w.pending == 0) = true) :=
  ⟨stands_at (by decide +kernel), stands_at (by decide +kernel), stands_at (by decide +kernel), stands_at (by decide +kernel), stands_at (by decide +kernel),
    stands_at (by decide +kernel)⟩

theorem test_predicates_read : (∃ x, standsAt (walking 3 (leBytes 8 0x30000 ++ leBytes 8 0x80080)) 3 x ∧
      okAnd ((walking 3 (leBytes 8 0x30000 ++ leBytes 8 0x80080)).readCtx x.L.ctx (leAt x.r 0x18 8) 4) (fun _ => true) = true) ∧
    (∃ x, standsAt (walking 4 (leBytes 8 0x30000 ++ leBytes 8 0x80080 ++ leBytes 4 3)) 4 x ∧
      (okAnd ((walking 4 (leBytes 8 0x30000 ++ leBytes 8 0x80080 ++ leBytes 4 3)).readCtx x.L.ctx (leAt x.r 0x18 8) 4) (fun _ => true) &&
      x.w.stack == []) = true) :=
  ⟨stands_at (by decide +kernel), stands_at (by decide +kernel)⟩

/-- A loop node in its last iteration. -/
def looping : State := let s := walking 4 (leBytes 8 0x30000 ++ leBytes 8 0x80080 ++ leBytes 4 3)
  { s with walkers := tmod s.walkers 5 fun w => { w with stack := [(0x80000, 3)] } }
/-- A node that commits group 64, open on this device. -/
def committing : State := { walking 6 (leBytes 4 64 ++ leBytes 4 0 ++ leBytes 8 0x30000 ++ leBytes 8 0) with
  tides := [(64, { ctx := 0, det := false, expect := 1 })], coords := [(64, { ctx := 0, parts := [0] })] }

theorem test_loop_iterates : ∃ x, standsAt looping 4 x ∧ (x.w.stack == [(x.w.node, 3)]) = true := stands_at (by decide +kernel)

theorem test_node_commits : ∃ x, standsAt committing 6 x ∧ (commitFault committing x.L.ctx x.q.det (BitVec.ofNat 32 (leAt x.r 0x18 4))
    (BitVec.ofNat 64 (leAt x.r 0x20 8)) (BitVec.ofNat 64 (leAt x.r 0x28 8)) == none) = true := stands_at (by decide +kernel)

/-- A graph launch that its walker has not reached. -/
def graphReady : State := lch base fun L => { L with flags := 2, state := .eligible }

theorem test_walker_starts : ∃ L, tget? graphReady.launches (launchKey 1 0) = some L ∧ L.graph = true ∧ L.state = .eligible ∧ L.reject = 0 ∧
    (tget? graphReady.ctxs L.ctx).any (fun c => decide ((graphReady.walkers.filter fun (_, w) => w.part = c.part && !w.ended).length < 64)) = true :=
  any_some (by decide +kernel)

/-- A queue that unwinds from launch 0 on: as `f` says of its unwind, with the given frames. -/
def unwinding (u : Unwind) (frames : Table Frame) : State :=
  lch (que base fun q => { q with unwind := some u, frames }) fun L => { L with state := .complete }
/-- A record of an ebb frame. -/
def ebbRec : EbbRec := ⟨1, 0, record 0⟩

theorem test_unwind_starts : let s := unwinding { ref := 0 } [(0, { recs := [ebbRec] })]
    Tidy s ∧ ∃ q, tget? s.queues 1 = some q ∧ q.unwind = some { ref := 0 } ∧ unwindStarts s 1 { ref := 0 } = true :=
  ⟨tidy_of (by decide +kernel), any_some (by decide +kernel)⟩

theorem test_unwind_takes_a_frame : let s := unwinding { ref := 0, started := true } [(0, { recs := [ebbRec] }), (1, {})]
    Tidy s ∧ ∃ q, tget? s.queues 1 = some q ∧ q.unwind = some { ref := 0, started := true } ∧
      (q.frames.filter fun x => x.1 ≤ 0).getLast? = some (0, { recs := [ebbRec] }) :=
  ⟨tidy_of (by decide +kernel), any_some (by decide +kernel)⟩

theorem test_unwind_ends : (let s := unwinding { ref := 0, started := true } [(1, {})]; Tidy s ∧ ∃ q, tget? s.queues 1 = some q ∧ q.unwind = some { ref := 0, started := true } ∧ ∀ x ∈ q.frames, 0 < x.1) ∧
    (let s := unwinding { ref := 0, started := true, pin := 0x80000001, pininc := 2 } []; Tidy s ∧ ∃ q, tget? s.queues 1 = some q ∧ q.unwind = some { ref := 0, started := true, pin := 0x80000001, pininc := 2 } ∧ q.frames = [] ∧
        pinValid 0x80000001 = true ∧ okAnd (pinPlace s q.det q.ctx (0x80000001 % 2 ^ 14)) (fun _ => true) = true) :=
  ⟨⟨tidy_of (by decide +kernel), any_some (by decide +kernel)⟩, tidy_of (by decide +kernel), any_some (by decide +kernel)⟩

theorem test_unwind_submits : let s := unwinding { ref := 0, started := true, frame := some 0, left := [ebbRec] } [(0, { recs := [ebbRec] })]
    Tidy s ∧ ∃ q, tget? s.queues 1 = some q ∧ q.unwind = some { ref := 0, started := true, frame := some 0, left := [ebbRec] } ∧
      (tget? s.ctxs q.ctx).all (fun c => (markedRanges c [] ebbRec).isEmpty) = true :=
  ⟨tidy_of (by decide +kernel), any_some (by decide +kernel)⟩

theorem test_unwind_drops_a_frame : let s := unwinding { ref := 0, started := true, frame := some 0, wait := [0] } [(0, { recs := [ebbRec] })]
    Tidy s ∧ ∃ q, tget? s.queues 1 = some q ∧ q.unwind = some { ref := 0, started := true, frame := some 0, wait := [0] } ∧
      unwinderOffers q = false ∧ launchDone s 1 0 = true :=
  ⟨tidy_of (by decide +kernel), any_some (by decide +kernel)⟩

/-! ### Records, ranges and workgroups on the move -/

/-- A fault record waiting for a ring with one place left, an accumulator, and a range that a frame's mark names. -/
def pendingRecords : State := ctx (que base fun q => { q with frames := [(0, { marks := [.recomp 0x100000 65536 0x80000] })] }) fun c => { c with
  faultring := some ⟨0x90000, 0xA0000, 1, 3⟩, faults := [⟨leBytes 64 1, 0x10, none, none⟩], accums := [(0x30000, {})], spill := 0xB0000, spillsize := 64
  ranges := [(0x200000, ⟨65536, .outward, 0⟩), (0x300000, ⟨65536, .returning, 0⟩)] }

theorem test_record_delivered : ∃ c, tget? pendingRecords.ctxs 0 = some c ∧ c.faultring = some ⟨0x90000, 0xA0000, 1, 3⟩ ∧ c.faults = [⟨leBytes 64 1, 0x10, none, none⟩] ∧
    okAnd (ringCounts pendingRecords 0 ⟨0x90000, 0xA0000, 1, 3⟩) (fun x => x == (0, 0)) = true ∧
    ((pendingRecords.writeVa 0 0xA0000 (leBytes 64 1)).any fun s => (s.writeVa 0 0x90014 (leBytes 4 1)).isSome) = true :=
  any_some (by decide +kernel)

theorem test_accumulator_evicted : ∃ c, tget? pendingRecords.ctxs 0 = some c ∧ tget? c.accums 0x30000 = some {} ∧ spillFull c = false ∧
    tget? c.spills 0x30000 = none ∧ (let r : Accum := { ({} : Accum) with place := spillPlace c 0x30000 }
      (pendingRecords.writeVa 0 (c.spill.toNat + 48 * r.place) (spillBytes r 0x30000)).isSome) = true :=
  any_some (by decide +kernel)

theorem test_ranges_move : ∃ c, tget? pendingRecords.ctxs 0 = some c ∧ tget? c.ranges 0x200000 = some ⟨65536, .outward, 0⟩ ∧
    tget? c.ranges 0x300000 = some ⟨65536, .returning, 0⟩ ∧ c.stalled = [] ∧
    (pendingRecords.queues.any fun x => decide (x.2.ctx = 0) && (nextReclaim c x.2 == some (0x100000, 65536, 0x80000))) = true ∧ pendingRecords.queues.length = 1 :=
  any_some (by decide +kernel)

theorem test_memory_low : (tget? (ctx pendingRecords fun c => { c with watermark := Config.freeMemory 0 + 1 }).ctxs 0).map (·.watermark) = some (Config.freeMemory 0 + 1) ∧
    pendingRecords.free = 0 := ⟨rfl, by decide +kernel⟩

/-- `base` with its workgroup told to leave, and with it gone from its core. -/
def leaving : State := wgp base fun W => { W with leaving := some none }
def away : State := { wgp base fun W => { W with resident := false } with binds := [(0, ⟨1, true, 16, 1, 0xFFFF⟩)] }
/-- `base` with a workgroup that may be restarted. -/
def restartable : State := wgp base fun W => { W with restart := true }

theorem test_swap_out : ∃ W, tget? base.wgs 1 = some W ∧ W.held = true ∧ W.leaving = none ∧ W.ended = false := any_some (by decide +kernel)

/-- `base` with a congested port to device 1. -/
def congested : State := { base with fabric := { base.fabric with configured := true, q := 1, ports := [(0, { up := true, peer := 1, cong := true })] } }

theorem test_swap_out_hinted : ∃ W, tget? congested.wgs 1 = some W ∧ W.held = true ∧ W.leaving = none ∧ W.ended = false ∧
    (congested.fabric.portTo 1).any (fun k => (congested.fabric.port k).cong) = true := any_some (by decide +kernel)

theorem test_workgroup_saves : ∃ W, tget? leaving.wgs 1 = some W ∧ W.leaving = some none ∧ saveReady leaving 1 W none = true ∧ W.waves ≤ 32 ∧
    ((tget? leaving.launches W.launch).any fun L => L.header.isSome && (tget? leaving.ctxs L.ctx).isSome) = true := any_some (by decide +kernel)

theorem test_workgroup_flushes : Tidy restartable ∧ ∃ W, tget? restartable.wgs 1 = some W ∧
    ((tget? restartable.launches W.launch).any fun L => L.header.isSome && flushReady restartable 1 W L) = true :=
  ⟨tidy_of (by decide +kernel), any_some (by decide +kernel)⟩

/-- One of the first two cores of a cluster is enabled. -/
theorem enabled_core : ∃ c, (c = 0 ∨ c = 1) ∧ (enabledCores 0).contains c = true := by
  by_cases h : Config.harvestedCore 0 = some 0
  · exact ⟨1, .inr rfl, by simp [enabledCores, h]⟩
  · exact ⟨0, .inl rfl, by simpa [enabledCores] using h⟩

theorem test_workgroup_restores : ∃ W L core, tget? away.wgs 1 = some W ∧ tget? away.launches W.launch = some L ∧
    (tget? away.gangs W.gang).map (·.cluster) = some 0 ∧ (tget? away.ctxs L.ctx).isSome = true ∧ L.header = some bootKernel ∧ W.resident = false ∧
    W.retired = false ∧ away.stalls = [] ∧ coreTakes away 1 W L bootKernel 0 core = true ∧ restoreBind away L 0 core = some 0 := by
  obtain ⟨c, hc, he⟩ := enabled_core
  have h : ∀ c, c = 0 ∨ c = 1 → (((coreLoad away (16 * 0 + c)).plus (wgLoad bootKernel 1 1)).fits &&
      !(away.wgs.any fun x => x.2.gang = 1 && x.2.held && x.2.core = 16 * 0 + c)) = true := by
    rintro c (rfl | rfl) <;> decide +kernel
  have h' := h c hc
  rw [Bool.and_eq_true] at h'
  refine ⟨(tget? away.wgs 1).get (by decide +kernel), (tget? away.launches (launchKey 1 0)).get (by decide +kernel), c, by decide +kernel,
    by decide +kernel, by decide +kernel, by decide +kernel, by decide +kernel, by decide +kernel, by decide +kernel, by decide +kernel, ?_, ?_⟩
  rotate_left
  · rcases hc with rfl | rfl <;> decide +kernel
  have hg : ((tget? away.wgs 1).get (by decide +kernel)).gang = 1 := by decide +kernel
  have hw : heldWaves away 1 ((tget? away.wgs 1).get (by decide +kernel)) = 1 := by decide +kernel
  unfold coreTakes
  simp only [he, hg, hw, h'.1, h'.2]
  rfl
/-! ### Tides and collectives -/

/-- `base` as device 0 of a fabric of seven, all members, with its three ports up; a wave's group 64, participant list, open
word, values and addresses in `s2` to `s8`. -/
def fabricked : State := { sregs [(2, 64), (3, 0x30000), (4, 0x200000001), (6, 0x30008), (7, 0x400040), (8, 0x300000)] with
  fabric := { configured := true, q := 2, members := (List.range 7).map fun d => (d, .member),
              ports := (neighbours 2 0).zipIdx.map fun x => (x.2, { up := true, peer := x.1 }) } }
/-- `fabricked` with group 64 open: the record given, and this device its coordinator. -/
def grouped (r : TideRec) (C : Coord) : State := { fabricked with tides := [(64, r)], coords := [(64, C)] }
/-- A record just opened, for two closes, and what its coordinator keeps of two participants. -/
def openRec : TideRec := { ctx := 0, det := false, expect := 2 }
def openCoord : Coord := { ctx := 0, parts := [0, 1] }

theorem test_topen : ∃ e, Tidy fabricked ∧ fabricked.env? g0 = some e ∧ e.active ≠ 0 ∧ gidFault fabricked (gidOf e.w 2) = none ∧
    gidOf e.w 2 = 64 ∧ bitsOf (e.w.sreg 4).toNat 63 48 = 0 ∧ bitsOf (e.w.sreg 4).toNat 31 11 = 0 ∧ bitsOf (e.w.sreg 4).toNat 47 32 ≠ 0 ∧
    fabricked.tide? 64 = none ∧ pastOutcome e.c 64 = none ∧ earlyOutcome fabricked 64 = none ∧ fabricked.tides.length + fabricked.early.length < 64 ∧
    ownGroup fabricked 64 = true ∧ (e.w.sreg 4).toNat % 2048 = 1 ∧ (e.w.sreg 3).toNat % 2 = 0 ∧ settled fabricked e = true ∧
    tget? fabricked.early 64 = none ∧ okAnd (readParts fabricked e (e.w.sreg 3) 1) (fun x => x == [0]) = true ∧
    gidFault fabricked (gidOf e.w 7) = none ∧ ownGroup fabricked (gidOf e.w 7) = false := meets (by decide +kernel)

/-- `fabricked` when group 64 has ended with abort here, ended before it was opened here, or finds 64 records. -/
def pastGroup : State := ctx fabricked fun c => { c with history := [(64, tideWord 64 5 5 0 0, false)] }
def earlyGroup : State := { fabricked with earlyOut := [(64, tideWord 64 5 5 0 0)] }
def fullGroups : State := { fabricked with tides := (List.range 64).map fun k => (64 * (k + 2), openRec) }

theorem test_topen_answers : (∃ e, Tidy pastGroup ∧ pastGroup.env? g0 = some e ∧ e.active ≠ 0 ∧ gidOf e.w 2 = 64 ∧ gidFault pastGroup 64 = none ∧
      pastGroup.tide? 64 = none ∧ (pastOutcome e.c 64).isSome = true) ∧
    (∃ e, Tidy earlyGroup ∧ earlyGroup.env? g0 = some e ∧ e.active ≠ 0 ∧ gidOf e.w 2 = 64 ∧ gidFault earlyGroup 64 = none ∧
      earlyGroup.tide? 64 = none ∧ (earlyOutcome earlyGroup 64).isSome = true) ∧
    (∃ e, Tidy fullGroups ∧ fullGroups.env? g0 = some e ∧ e.active ≠ 0 ∧ gidOf e.w 2 = 64 ∧ gidFault fullGroups 64 = none ∧
      fullGroups.tide? 64 = none ∧ pastOutcome e.c 64 = none ∧ earlyOutcome fullGroups 64 = none ∧ tget? fullGroups.early 64 = none ∧
      ¬fullGroups.tides.length + fullGroups.early.length < 64) :=
  ⟨meets (by decide +kernel), meets (by decide +kernel), meets (by decide +kernel)⟩

theorem test_group_instructions : ∃ e, Tidy (grouped openRec openCoord) ∧ (grouped openRec openCoord).env? g0 = some e ∧ e.active ≠ 0 ∧
    gidOf e.w 2 = 64 ∧ gidFault (grouped openRec openCoord) 64 = none ∧ (grouped openRec openCoord).tide? 64 = some openRec ∧ openRec.ctx = e.ctx ∧
    openRec.isOpen = true ∧ e.vTy true 10 = true ∧ e.w.stCnt ≠ 63 ∧
    ((lanesOf e.active).all fun l => okAnd (tideTarget (grouped openRec openCoord) e 4 l (effAddr e.w (some 8) none 16 l)) (·.2.isNone)) = true ∧
    lets (grouped openRec openCoord) e .sys = true ∧
    commitFault (grouped openRec openCoord) e.ctx e.det 64 (e.w.sreg 6) (e.w.sreg 0) = none ∧
    tideStateOf (tideStatus (grouped openRec openCoord) e.c 64) = 1 := meets (by decide +kernel)

theorem test_group_ended : ∃ e, Tidy (grouped { openRec with state := .locked } openCoord) ∧
    (grouped { openRec with state := .locked } openCoord).env? g0 = some e ∧ e.active ≠ 0 ∧ gidOf e.w 2 = 64 ∧
    ({ openRec with state := .locked } : TideRec).isOpen = false ∧ tideStateOf (tideStatus pastGroup (tgetD pastGroup.ctxs 0 e.c) 64) = 5 :=
  meets (by decide +kernel)

/-- What a device is told of a request's source: core 5 of device 1, in context 0, with an export of 64 KiB at 0x40000. -/
def from1 : ReqSource := { dev := 1, core := 5, ctx := 0 }
def exporting (s : State) : State := ctx s fun c => { c with
  staging := 64, table := [{ dev := 1, ctx := 0, perm := 7, base := 0x40000, len := 65536 }] }

theorem test_tide_write_staged : let s := exporting (grouped openRec openCoord)
    rising s.tides ∧ s.fabric.fencedSelf = false ∧ replayOf s from1 9 = none ∧ lineHigh s from1 0 ≤ 9 ∧ s.tide? 64 = some openRec ∧
    okAnd (translateExport s from1.dev from1.ctx 0 4 .write false) (fun x => !x.2.host) = true ∧
    (tget? s.ctxs 0).any (fun c => decide (stagingUsed s 0 + 64 ≤ c.staging)) = true ∧ (replayOf (s.recordReplay from1 ⟨9, 0, 0⟩) from1 9).isSome = true := by
  unfold rising
  decide +kernel

/-- A record closed, with a staged byte of line 0x1000. -/
def closedRec : TideRec := { openRec with state := .closed, closes := 2, staged := [(0x40000, (7, 3))] }

theorem test_participant_acts :
    (let s := grouped closedRec openCoord
     s.tide? 64 = some closedRec ∧ closedRec.sentClosed = false ∧ tideQueued s 64 = false) ∧
    (let s := grouped { closedRec with sentClosed := true } { openCoord with phase := .count }
     ({ closedRec with sentClosed := true } : TideRec).voted = true ∧ ownPhase s 64 (fun c => c.phase == .count) = true) ∧
    (let s := grouped { closedRec with sentClosed := true } { openCoord with phase := .lock }
     ownPhase s 64 (fun c => c.phase == .lock && c.parts == [0, 1]) = true ∧ (∀ l ∈ closedRec.lines, tget? s.locked l = none) ∧
       ∃ l ∈ closedRec.lines, (tget? ({ s with locked := [(0x1000, 128)] } : State).locked l).isSome = true) ∧
    (let s := grouped { closedRec with state := .locked } { openCoord with phase := .apply }
     ownPhase s 64 (fun c => c.phase == .apply) = true ∧ s.heads = []) ∧
    (let s := grouped closedRec { openCoord with phase := .abort 5 1 0 }
     ownPhase s 64 (fun c => c.phase == .abort (5 : Byte).toNat 1 0) = true) ∧
    fabricked.tide? 0x400040 = none ∧ ownGroup fabricked 0x400040 = false ∧ fabricked.fabric.fencedSelf = false := by
  decide +kernel

/-- A locked record of a group whose coordinator, device 1, is lost: which survivors this device has asked. -/
def orphaned (ds : List Nat) : State :=
  { fabricked with tides := [(0x400040, { closedRec with state := .locked, list := [0, 1, 2, 3], asked := some ds })]
                   fabric := { fabricked.fabric with members := tput fabricked.fabric.members (tideCoord 0x400040) .fenced } }

theorem test_survivors_act : rising (orphaned [2, 3]).tides ∧ (orphaned [2, 3]).fabric.fencedSelf = false ∧ (orphaned [2, 3]).heads = [] ∧
    ((orphaned [2, 3]).tide? 0x400040).map (·.asked) = some (some [2, 3]) ∧ ((orphaned [3]).tide? 0x400040).map (·.asked) = some (some [3]) ∧
    (∃ d ∈ [2, 3], d ≠ 2) ∧ (∀ d ∈ [3], d = 3) ∧ 2 ≠ (orphaned []).fabric.index ∧ (orphaned []).fabric.member (tideCoord 0x400040) = .fenced := by
  unfold rising
  decide +kernel

/-- A `tcommit` that names a status word at 0x30008 and pin 3. -/
def commit3 : TideCommit := ⟨0x30008, 0x80000003, false, 0x10000, 1, 0, 0, 0⟩
/-- Whether a coordinator of group 64 stands so on this device, and device 1 is not this one. -/
def coordAt (C : Coord) : Bool :=
  let s := grouped closedRec C
  ownGroup s 64 && s.coord? 64 == some C && (1 ≠ s.fabric.index)

/-- Whether a coordinator has heard of every participant. -/
def heardAll (C : Coord) : Bool := C.parts.all fun p => C.closed.any (·.1 = p) || C.nos.any (·.1 = p)

theorem test_coordinator_gathers : fabricked.fabric.fencedSelf = false ∧
    (coordAt openCoord = true ∧ openCoord.phase = .gather ∧ (∀ x ∈ openCoord.closed, x.1 ≠ 1) ∧ openCoord.commit = none) ∧
    (let c : Coord := { openCoord with commit := some commit3, closed := [(0, [(1, 2)])] }
     let c1 : Coord := { c with closed := c.closed ++ [(1, [])] }
     coordAt c = true ∧ c.commit.isSome = true ∧ (∀ x ∈ c.closed, x.1 ≠ 1) ∧ heardAll c1 = true ∧ c1.unlisted = none ∧ c.nos = []) ∧
    (let c : Coord := { openCoord with commit := some commit3, closed := [(0, []), (2, [])] }
     let c1 : Coord := { c with closed := c.closed ++ [(1, [])] }
     coordAt c = true ∧ heardAll c1 = true ∧ c1.unlisted = some 2 ∧ c1.acks = [] ∧ c1.told ≠ []) ∧
    (let c : Coord := { openCoord with commit := some commit3, nos := [(0, 5, 0, 0)] }
     let c1 : Coord := { c with closed := c.closed ++ [(1, [])] }
     let c2 : Coord := { c with nos := c.nos ++ [(1, 6, 0, 1)] }
     coordAt c = true ∧ heardAll c1 = true ∧ heardAll c2 = true ∧ (∀ x ∈ c.nos, x.1 ≠ 1) ∧ c.acks = [] ∧ c1.told ≠ [] ∧ c2.told ≠ [] ∧
       heardAll { openCoord with commit := some commit3, nos := [(1, 6, 0, 1)] } = false) ∧
    (let c : Coord := { openCoord with phase := .abort 5 1 0, closed := [(0, [])] }
     coordAt c = true ∧ 1 ∈ c.told ∧ 1 ∉ ({ c with parts := [0] } : Coord).told ∧ coordAt { c with parts := [0] } = true) ∧
    (let c : Coord := { openCoord with phase := .count }
     coordAt c = true ∧ (∀ x ∈ c.nos, x.1 ≠ 1) ∧ c.acks = [] ∧ c.told ≠ []) := by
  decide +kernel

theorem test_coordinator_counts :
    (let c : Coord := { openCoord with phase := .count, closed := [(0, [(1, 2)]), (1, [])] }
     coordAt c = true ∧ 1 ∈ c.parts ∧ (∀ x ∈ c.inbound, x.1 ≠ 1) ∧ ¬∀ p ∈ c.parts, ∃ x ∈ c.inbound ++ [(1, 2)], x.1 = p) ∧
    (let c : Coord := { openCoord with phase := .count, closed := [(0, [(1, 2)]), (1, [])], inbound := [(0, 0)] }
     let c1 : Coord := { c with inbound := c.inbound ++ [(1, 2)] }
     coordAt c = true ∧ (∀ x ∈ c.inbound, x.1 ≠ 1) ∧ (∀ p ∈ c.parts, ∃ x ∈ c1.inbound, x.1 = p) ∧ (∀ x ∈ c1.inbound, x.2 = c.sentTo x.1) ∧
       (c.parts.find? fun p => (c.inbound ++ [(1, 5)]).any fun x => x.1 = p && x.2 ≠ c.sentTo p) = some 1 ∧ c.acks = [] ∧ c.told ≠ []) := by
  decide +kernel

theorem test_coordinator_locks :
    (let c : Coord := { openCoord with phase := .lock }
     coordAt c = true ∧ 1 ∈ c.parts ∧ 1 ∉ c.lockedBy ∧ ∃ p ∈ c.parts, p ∉ c.lockedBy ++ [1]) ∧
    (let c : Coord := { openCoord with phase := .lock, lockedBy := [0] }
     coordAt c = true ∧ 1 ∉ c.lockedBy ∧ ∀ p ∈ c.parts, p ∈ c.lockedBy ++ [1]) := by
  decide +kernel

/-- Whether the status word of a coordinator's end can be written. -/
def endWritten (C : Coord) : Bool :=
  let s := grouped closedRec C
  (statusWrites { s with coords := tput s.coords 64 C } 64 C commit3).toBool

theorem test_coordinator_ends :
    (let c : Coord := { openCoord with phase := .apply }
     coordAt c = true ∧ c.paused = none ∧ c.finished = false ∧ 1 ∉ c.applied ∧ ({ c with applied := c.applied ++ [1] } : Coord).finished = false) ∧
    (let c : Coord := { openCoord with phase := .apply, applied := [0], commit := some commit3 }
     coordAt c = true ∧ c.finished = false ∧ ({ c with applied := [0, 1] } : Coord).finished = true ∧ endWritten { c with applied := [0, 1] } = true) ∧
    (let c : Coord := { openCoord with phase := .abort 5 1 0 }
     coordAt c = true ∧ 1 ∈ c.told ∧ 1 ∉ c.acks ∧ c.paused = none ∧ c.finished = false ∧ ({ c with acks := c.acks ++ [1] } : Coord).finished = false) ∧
    (let c : Coord := { openCoord with phase := .abort 5 1 0, acks := [0] }
     coordAt c = true ∧ c.commit = none ∧ c.finished = false ∧ ({ c with acks := c.acks ++ [1] } : Coord).finished = true) := by
  decide +kernel
/-- A collective record at pool index 128: members 0 and 1, `count` units from 0x300000 to 0x300000, identifier 7. -/
def collecting (count : Nat) : State := mem (mem fabricked 0x30000 [0, 0, 1, 0]) 0x2000
  (leBytes 8 0x300000 ++ leBytes 8 0x300000 ++ leBytes 8 0x30000 ++ leBytes 4 count ++ leBytes 2 2 ++ leBytes 2 0 ++ leBytes 4 7 ++ leBytes 28 0)
/-- Whether a collective's issue passes every check. -/
def collects (cover : Bool) (s : State) : Bool := tidyB s && (s.env? g0).any fun e => e.active != 0 && settled s e &&
  okAnd (readRec s e (.pool 128)) fun bs => (collFault cover bs).isNone && (compFault (s.readDone e (recVa e (.pool 128)) 64) e.det (e.w.sreg 0)).isNone &&
    (e.w.sreg 6).toNat % 8 == 0 && okAnd (readMembers (s.readDone e (recVa e (.pool 128)) 64) e (BitVec.ofNat 64 (leAt bs 0x10 8)) (leAt bs 0x1C 2)) (fun ms =>
      ms == [0, 1] && !hasRepeat ms && ms.findIdx? (· = s.fabric.index) == some 0) && (tget? s.colls (leAt bs 0x20 4)).isNone && !e.det &&
    decide ((s.cluster e.cluster).locks.length < 64)

theorem test_collective_issues : collects false (collecting 32) = true ∧ collects true (collecting 1) = true := by decide +kernel

/-- A `cover` of two pixels that two members take part in, on this device at a given place. -/
def coverOp (self : Nat) : CollOp :=
  { cover := true, ctx := 0, det := false, pc := 0x10000, queue := 1, seq := 0, gang := 1, core := 0, wid := 0, src := 0x300000, dst := 0x300000, count := 2,
    root := false, cid := 7, lock := 9, members := [0, 1], self, status := 0x30008, comp := 0 }
def covering (o : CollOp) : State := { fabricked with colls := [(7, o)] }

theorem test_collective_hops :
    (okAnd (collRead (covering (coverOp 0)) (coverOp 0) 1) (fun _ => true) = true ∧ (coverOp 0).blocks = 2 ∧ (coverOp 0).self < (coverOp 0).last) ∧
    (okAnd (collRead (covering (coverOp 1)) (coverOp 1) 1) (fun src =>
      okAnd (collCells (covering (coverOp 1)) (coverOp 1) 1 (blockWords (combine (coverOp 1) src (some (.pixel [0, 0, 0, 0]))))) fun cells =>
        cells.all fun x => !tideLocked (covering (coverOp 1)) x.1 1) = true ∧ (coverOp 1).last ≤ (coverOp 1).self ∧ (coverOp 1).due = true) ∧
    (let o : CollOp := { coverOp 0 with sent := [1] }
     o.self ≠ o.last ∧ o.due = true ∧ okAnd (collCells (covering o) o 1 (blockWords (.pixel [0, 0, 0, 0]))) (fun cells =>
       cells.all fun x => !tideLocked (covering o) x.1 1) = true) ∧ (1 ∈ (coverOp 0).members) := by
  decide +kernel

/-- A member whose record agrees with member 0's, and one whose count differs. -/
theorem test_collective_record : (coverOp 1).self ≠ 0 ∧ (true = (coverOp 1).cover ∧ 2 = (coverOp 1).count ∧ false = (coverOp 1).root ∧ [0, 1] = (coverOp 1).members) ∧
    3 ≠ (coverOp 1).count := by decide

theorem test_collective_completes : let o : CollOp := { coverOp 0 with sent := [0, 1], written := [0, 1], agreed := [0, 1] }
    o.over = true ∧ o.paused = none ∧ compPv o.comp = false ∧ tget? (covering o).colls 7 = some o ∧
    (wordWrites (covering o) o.ctx (opLaunch (covering o) o.queue o.seq) o.status o.word).toBool = true := by
  decide +kernel

/-! ### Commands -/

/-- Host memory with bytes at an address. -/
def host (s : State) (a : Nat) (bs : List Byte) : State := mem s (hostKey a) bs
/-- A device at stage 3 with version 1.0 agreed; a context descriptor at host address 0x1000, its fault ring's control block at VA 0x300000,
and a queue descriptor at 0x2000. -/
def commanded : State := host (host (mem (mem { fabricked with sys := { fabricked.sys with agreed := some 0x10000, stage := 3 } }
    0x300000 (leBytes 8 0x310000 ++ leBytes 4 64 ++ leBytes 52 0)) 0x320000 (leBytes 2 1 ++ leBytes 2 0 ++ [1] ++ leBytes 27 0))
    0x1000 (leBytes 8 0 ++ leBytes 8 0 ++ leBytes 24 0 ++ leBytes 8 0x300000 ++ leBytes 8 0 ++ leBytes 4 65536 ++ leBytes 4 1 ++ leBytes 8 0x320000 ++ leBytes 56 0))
    0x2000 (leBytes 8 0x400000 ++ leBytes 4 1 ++ leBytes 2 0 ++ [0, 0, 16] ++ leBytes 7 0 ++ leBytes 8 0 ++ leBytes 8 0x410000 ++ leBytes 8 65536 ++ leBytes 16 0)
/-- `commanded` with a lane's fault, a trap, a bind, an export table and an invalidation that waits. -/
def pendingAll : State :=
  let s := ctx commanded fun c => { c with nexport := 1, exports := 0x320000, tokens := [(3, { owner := .lanes 32 1 0x10 0x10000 false [] }), (4, { owner := .trap 32 })] }
  let s := lch s fun L => { L with state := .complete }
  { (s.modWave 32 fun w => { w with status := .stopped, tokens := [3] }) with
    binds := [(0, ⟨1, true, 16, 1, 1⟩)]
    sys := { s.sys with invs := [(6, 0, 0x300000, 65536)] } }

theorem test_commands_admitted : ∀ n ∈ [0, 1, 2, 3], commandBar { commanded with sys := { commanded.sys with stage := 3 } } 0x20 n = none := by
  decide +kernel

theorem test_partitions_set : ({ commanded with ctxs := [] } : State).ctxs = [] ∧ commandBar { commanded with ctxs := [] } 0x10 2 = none := by
  decide +kernel

theorem test_context_created : (List.range 4096).find? (fun k => (tget? commanded.ctxs k).isNone) = some 1 ∧
    badDescriptor commanded (hostBytes commanded 0x1000 128) = false ∧
    stagingHeld commanded + leAt (hostBytes commanded 0x1000 128) 0x38 4 ≤ 2 ^ 27 ∧
    (completeContext commanded 1 (hostBytes commanded 0x1000 128)).isSome = true := by decide +kernel

theorem test_context_commands : ∃ c, tget? pendingAll.ctxs (0 : Word).toNat = some c ∧ (∀ x ∈ pendingAll.launches, x.2.ctx = 0 → x.2.state = .complete) ∧
    (goodExports pendingAll 0 c).isSome = true ∧ 48 * c.spills.length ≤ (65536 : DWord).toNat ∧ commandBar pendingAll 0x50 3 = none ∧
    pendingAll.sys.invs.find? (fun x => x.1 = 6) = some (6, 0, 0x300000, 65536) ∧ rangeBusy pendingAll 0 0x300000 65536 = false :=
  any_some (by decide +kernel)

theorem test_queue_commands : tget? commanded.queues 8191 = none ∧ badQueue commanded (hostBytes commanded 0x2000 64) = false ∧
    (tget? pendingAll.queues (1 : Word).toNat).isSome = true ∧ inFlight pendingAll 1 = 0 ∧ (tget? pendingAll.binds (0 : Word).toNat).isSome = true := by
  decide +kernel

/-- A bind record of queue 1: standing, a budget of 16, one cluster. -/
def bindBytes : List Byte := leBytes 2 1 ++ [1, 0] ++ leBytes 4 16 ++ leBytes 8 1 ++ leBytes 2 1 ++ leBytes 14 0

theorem test_bind_commands : ∃ q, tget? pendingAll.queues (leAt bindBytes 0 2) = some q ∧ leAt bindBytes 2 1 ≤ 1 ∧ leAt bindBytes 3 1 = 0 ∧
    leAt bindBytes 4 4 ≠ 0 ∧ leAt bindBytes 4 4 ≤ 16384 ∧ (bindOf bindBytes).clusters ≠ 0 ∧
    (bindOf bindBytes).clusters.toNat < 2 ^ partClusters pendingAll ∧ (bindOf bindBytes).cores ≠ 0 ∧ leAt bindBytes 0x12 14 = 0 ∧
    (List.range 512).find? (fun i => (tget? pendingAll.binds (512 * queuePart pendingAll q + i)).isNone) = some 1 := any_some (by decide +kernel)

theorem test_replies : ∃ c, tget? pendingAll.ctxs (0 : Word).toNat = some c ∧ (tget? c.tokens (3 : Word).toNat).isSome = true ∧
    (tget? c.tokens (4 : Word).toNat).isSome = true ∧ tidyB pendingAll = true ∧
    ((tget? pendingAll.waves 32).any fun w => w.status == .stopped && w.tokens == [3] && w.pairs.isEmpty && w.tris.isEmpty) = true ∧
    (tget? pendingAll.wgs (wgOf 32)).isSome = true := any_some (by decide +kernel)

theorem test_commands_barred : commandHead (.qQuery 5 1) = some (0x0032, 5) ∧ State.reset.sys.agreed = none ∧
    (0xFFFF : Word).toNat < 0x10000 ∧ ({ commanded.sys with stage := 2 } : Sys).stage < commandStage (.qQuery 5 1) ∧ Tidy State.reset :=
  ⟨rfl, rfl, by decide, by decide, tidy_of (by decide +kernel)⟩

/-- A device at a stage, its command version agreed. -/
def staged (n : Nat) : State := { State.reset with sys := { agreed := some 0x10000, stage := n } }

theorem test_stage_commands : commandBar (staged 1) 0x60 1 = none ∧ commandBar (staged 0) 0x03 0 = none ∧ (31 : Byte).toNat ∈ fabricOrders ∧
    (992 : BitVec 16).toNat < fabricN (31 : Byte).toNat ∧ commandBar (staged 1) 0x90 1 = none := by decide +kernel

/-- `commanded` with device 3 joining. -/
def joining : State := { commanded with fabric := { commanded.fabric with members := tput commanded.fabric.members 3 .joining } }
/-- A display record: 1920 by 1080 at 148.5 MHz, its slot, pose and status in context 0. -/
def displayBytes : List Byte := leBytes 4 148500 ++ leBytes 2 1920 ++ leBytes 2 2200 ++ leBytes 2 1080 ++ leBytes 2 1125 ++ leBytes 4 0 ++
  leBytes 2 0 ++ [8, 0] ++ leBytes 4 0 ++ leBytes 8 0x500000 ++ leBytes 8 0x501000 ++ leBytes 8 0x502000 ++ leBytes 16 0
/-- `commanded` with that record at host address 0x3000 and head 3 trained. -/
def displayed : State := { host commanded 0x3000 displayBytes with heads := [(3, { rate := 148500 })] }

theorem test_device_commands : namesDevice commanded 6 = true ∧ 6 ≠ commanded.fabric.index ∧ commanded.fabric.member 6 ≠ .fenced ∧
    joining.fabric.member (3 : Word).toNat = .joining ∧
    ({ cfg := true, data := hostBytes displayed 0x3000 64, rate := (displayed.head (3 : Word).toNat).rate } : Head).bad displayed = false := by decide +kernel

/-! ### Fabric, heads, system -/

/-- `fabricked` with an export to context 0 of device 1, as in `exporting`, and 9 requests applied on the line. -/
def requested : State := let s := exporting fabricked
  { s with fabric := { s.fabric with high := [(lineSeqKey from1 0, 9)], counts := [(sourceKey from1, 4)], replay := [(sourceKey from1, [⟨8, 5, 0⟩])] } }
/-- Whether a request reaches its bytes. -/
def requests (r : RemoteReq) : Bool := deviceHeard requested from1.dev &&
  let z := reqShape r
  let s1 := requested.firstRequest from1.dev from1.ctx
  okAnd (translateExport s1 from1.dev from1.ctx z.1 z.2.1 z.2.2.need z.2.2.atomic) fun (_, p) =>
    !pageRefuses z.2.2 p.host p.repl && !tideLocked s1 p.key z.2.1 && !badLine s1 p.key &&
    lineHigh requested from1 z.1 == 9

theorem test_requests_apply : requests (.load 0 4) = true ∧ requests (.store 60 [1, 2, 3, 4]) = true ∧ requests (.atom .add .i64 0 5 0) = true ∧
    requests (.red .add .i32 0 7) = true ∧ (replayOf requested from1 8).isSome = true ∧ 4 ≤ tgetD requested.fabric.counts (sourceKey from1) 0 ∧
    requested.locked = [] ∧ (∀ f, (translateExport (requested.firstRequest 1 0) 1 0 0x10000 4 .read false).toBool ≠ true ∨ f = (0 : Byte)) ∧
    replayOf requested from1 9 = none ∧
    (let s := requested.modCore 3 fun c => { c with marks := [(1, 4)], answered := [(1, 2)] }
     tgetD (s.core 3).answered 1 0 < 4 ∧ 4 ≤ tgetD (s.core 3).marks 1 0) := by
  refine ⟨by decide +kernel, by decide +kernel, by decide +kernel, by decide +kernel, by decide +kernel, by decide +kernel, by decide +kernel, fun f => .inl ?_,
    by decide +kernel, by decide +kernel⟩
  decide +kernel

/-- A training record of the neighbour at port 0, and one of another fabric. -/
def peer0 (q : Nat) : TrainRec := { q, fabricId := 0, index := (neighbours 2 0).getD 0 0, major := 1, minor := 3, lowest := 1, features := 0, cmdVersion := 0, container := 0 }
/-- `fabricked` with that neighbour absent. -/
def lonely : State := { fabricked with fabric := { fabricked.fabric with members := [(0, .member)] } }

theorem test_links_change : livePort fabricked 0 = true ∧ livePort fabricked 2 = true ∧ trainReason fabricked 0 (peer0 3) = 1 ∧
    trainReason fabricked 0 (peer0 2) = 0 ∧ lonely.fabric.member (peer0 2).index = .absent ∧ (fabricked.fabric.port 0).up = true ∧
    fabricked.fabric.forwards fabricked.fabric.index = true ∧ (fabricked.fabric.port 0).reason ≠ 5 ∧ fabricked.fabric.thresh < 512 ∧
    4 ≠ fabricked.fabric.index ∧ namesDevice fabricked 4 = true ∧ ((minPath fabricked.fabric fabricked.fabric.index 4).any fun path =>
      path.head?.any fun d => (fabricked.fabric.portTo d).any fun j => (fabricked.fabric.port j).up) = true := by decide +kernel

theorem test_members_change : namesDevice fabricked 6 = true ∧ fabricked.fabric.member 6 = .member ∧
    ({ fabricked.fabric with members := [(6, .fenced)] } : Fabric).member 6 = .fenced := by decide +kernel

/-- A flip record: a frame at 0x600000 with deadline 6. -/
def flipBytes : List Byte := leBytes 8 0x600000 ++ leBytes 4 7680 ++ leBytes 2 1920 ++ leBytes 2 1080 ++ leBytes 4 0 ++ leBytes 4 6 ++ leBytes 4 9 ++ leBytes 36 0
/-- A head that has been configured, at house-sync frame 7. -/
def shown (h : Head) : State := { displayed with sys := { displayed.sys with hsf := 7 }, heads := [(0, { h with cfg := true, data := displayBytes, rate := 148500 })] }
/-- Whether a configured head stands before its vblank, and a test holds of it. -/
def vblanks (h : Head) (p : State → Head → Bool) : Bool :=
  let s := shown h
  let k := s.head 0
  k.cfg && !k.inVblank && s.sys.hsPresent && !s.sys.off && p s k

theorem test_heads_show :
    vblanks { next := some ⟨flipBytes, 7, false, true⟩, bw := true } (fun s h => (dueFlip s h).any fun f => !h.bw || f.clears) = true ∧
    vblanks { shown := some flipBytes } (fun s h => (dueFlip s h).isNone && h.shown == some flipBytes && h.next.isNone && !h.bw &&
      (s.sys.hsf == BitVec.ofNat 32 (leAt flipBytes 0x14 4) + 1)) = true ∧
    vblanks {} (fun s h => (dueFlip s h).isNone && h.shown.isNone) = true ∧
    vblanks { shown := some flipBytes, next := some ⟨flipBytes, 8, false, true⟩ } (fun s h => (dueFlip s h).isNone && h.shown.isSome && !h.bw && h.next.isSome) = true ∧
    ((shown {}).writeVa 0 0x502000 (leBytes 16 0)).isSome = true := by decide +kernel

theorem test_stages_advance : (staged 0).sys.image = none ∧ (staged 1).fabric.configured = false ∧
    (let s : State := { fabricked with sys := { fabricked.sys with stage := 1 } }
     s.sys.stage = 1 ∧ s.fabric.configured = true ∧ portsTrained s = true) ∧
    64 * (2 ^ 34 - 1) < 2 ^ 40 ∧ (staged 3).sys.off = false ∧ 1000 * (staged 3).sys.cap < 1800001 := by decide +kernel

theorem test_bits_counted : ∃ e, Tidy base ∧ base.env? g0 = some e ∧ e.regsOk ⟨g0, false, .i16x2, .rne, 10, 20, .v 0, 0⟩ (tyWidths .i16x2 false false) = true ∧
    e.enabled ≠ 0 ∧ e.vTy true 254 = true := meets (by decide +kernel)

theorem test_steps_run_decoded : let s := base.withFetchWord 96 0x000000000000000605040201
    ∃ e, Tidy s ∧ s.env? noGuard = some e ∧ (match s.agenda with | .issue 32 _ _ :: _ => true | _ => false) = true ∧ s.sys.off = false ∧
      okAnd (translate s (some e.wg.core) e.ctx e.c (lineOf e.pc).toNat .fetch) (fun p =>
        (tget? s.marks (p.key / 64)).isNone && parityOk (s.bytesAt p.key 64) && !lineReserved (s.bytesAt p.key 64) &&
        okAnd (decodeSlot (slotBits (s.bytesAt p.key 64) (e.pc &&& 7#64).toNat)) (fun i => i == .iadd ⟨⟨2, false⟩, false, .i32, .rne, 4, 5, .v 6, 0⟩ false)) = true ∧
      tget? (s.core e.wg.core).lines (lineKey e.ctx (lineOf e.pc)) = none :=
  meets (by decide +kernel)

theorem test_decision_taken : let s := { base with agenda := [.issue 32 [] []] }
    ((nextDecision s (coreOf s 32)).any fun x => x.2 == 32 &&
      (({ s.chosen (coreOf s 32) x.1 32 with cur := 32 } : State).env? noGuard).any fun e =>
        match fetch { s.chosen (coreOf s 32) x.1 32 with cur := 32 } e.wg.core e.ctx e.c e.pc with | .instr _ => true | _ => true) = true := by
  decide +kernel

/-- A device whose ring holds `STAGE` with tag 5. -/
def ringed : State := { mem State.reset (barKey 0) (leBytes 2 2 ++ leBytes 2 0 ++ leBytes 4 5 ++ leBytes 56 0) with sys := { cmdTail := 1 } }

theorem test_command_taken : ringed.agenda = [] ∧ ringed.sys.off = false ∧ commandPending ringed = true ∧
    decodeCommand ringed.takeCommand.1 = some (.stage 5) ∧ notAnEvent .houseSyncPulse = false := by decide +kernel

theorem test_tidy_step : Tidy (base.withFetchWord 96 0x000000000000000605040201) ∧
    (match step (base.withFetchWord 96 0x000000000000000605040201) with | .next t => tidyB t | _ => false) = true :=
  ⟨tidy_of (by decide +kernel), by decide +kernel⟩

/-! ### Further forms of the statements' hypotheses -/

/-- `base` with an accumulator for the targeted word at 0x30004, and the word. -/
def summed (a : Accum) (old : Nat) : State :=
  mem (ctx (lch base fun L => { L with targeted := [0x30004] }) fun c => { c with accums := [(0x30004, a)] }) 0x30004 (leBytes 4 old)
/-- Whether a flush finds that accumulator. -/
def flushes (x : Accum × Nat) : Bool :=
  let s := summed x.1 x.2
  tidyB s && (s.env? g0).any fun e => e.active != 0 && releaseReady s e .dev && e.L.targeted == [0x30004] && (tget? s.ctxs e.ctx).any fun c =>
    accumOf c 0x30004 == some x.1 && okAnd (translate s (some e.wg.core) e.ctx (c.seenBy s e.L) 0x30004 .write) fun p =>
      !tideLocked s p.key 4 && !badLine s p.key && s.natAt p.key 4 == x.2

/-- A NaN, an infinity, both, each met by the word itself, no sum, and one that rounds. -/
theorem test_word_flushed : ([({ nan := some 0x7FC00001 }, 0), ({ nan := some 0x7FC00001 }, 0x7FC00002), ({}, 0x7FC00002), ({ pinf := true, ninf := true }, 0),
    ({ pinf := true }, 0), ({}, 0xFF800000), ({}, 0x3F800000), ({ sum := 5 }, 0x3F800000)] : List (Accum × Nat)).all flushes = true ∧
    fmt32.isNaN 0x7FC00002 = true ∧ fmt32.value 0xFF800000 = .inf true ∧ sext 324 5 ≠ 0 := by decide +kernel

/-- A record of the 31st lane is pushed. -/
def framed1 : State := framed.modWave 32 fun w => w.setP 1 0xFFFFFFFF 0x80000000

theorem test_ebb_record_pushed : ∃ e, Tidy framed1 ∧ framed1.env? g1 = some e ∧ e.active = laneBit 31 ∧ settled framed1 e = true ∧
    (readRecord (((lanesOf e.active).filter (· < 31)).foldl (pushLane e fun _ => e.w.sreg 1) (framed1, [])).1 e (e.w.sreg 1)).toBool = true :=
  meets (by decide +kernel)

/-- A launch that the queue takes at once. -/
theorem test_launch_goes : ∃ e, Tidy recorded ∧ recorded.env? g0 = some e ∧
    (let s' := letsTo recorded e .dev
     (launchTarget s' e none).any fun x => (tget? (s'.joinLaunch x.1 e.id e.pc).queues x.1).any fun Q1 =>
       launchGoes (s'.joinLaunch x.1 e.id e.pc) x.1 Q1 e.id) = true := meets (by decide +kernel)

/-- `flying` with pin 3 in its completion word. -/
def flyingPin : State := { flying with shuttles := tmap flying.shuttles fun _ o => { o with comp := 0xC0000003 } }
/-- A graph's copy of a word from 0x30000. -/
def copying : State := { base with shuttles := [(7, {
  kind := .flat, wave := none, pc := 0, ctx := 0, queue := 1, seq := 0, det := false, cluster := 0, tensor := flatTensor 0x50000, glb := true, tr := false,
  dense := 0x30000, origin := [], rows := [], pattern := 0, len := 4, bitmap := 0, comp := 0x80000003, inc := 2, lane := 0, wid := 0 })] }

theorem test_completions_with_pins :
    (tget? flyingPin.shuttles 2).any (fun o => chunkReady flyingPin 2 0 && compPv o.comp && compPer o.comp && !compBarv o.comp &&
      okAnd (fillDense flyingPin o 0) fun s1 => okAnd (moveChunk s1 o 0) fun x =>
        okAnd (pinPlace (flyingPin.writeCells x.1.cells) o.det o.ctx (compPin o.comp)) (· == .cluster 0 3)) = true ∧
    (tget? copying.shuttles 7).any (fun o => chunkReady copying 7 0 && (2 ^ 64 * 5) % 2 ^ 64 == 0 && !remoteEnd o && o.aborted.isNone &&
      okAnd (fillDense copying o 0) fun s1 => okAnd (moveChunk s1 o 0) fun x => !x.1.cells.isEmpty) = true ∧
    (let s := { sorted with sorts := tmap sorted.sorts fun _ o => { o with comp := 0x80000003 } }
     (tget? s.sorts 5).any fun o => compPv o.comp && okAnd (pinPlace s o.det o.ctx (compPin o.comp)) (· == .cluster 0 3)) = true ∧
    (let s := { resolving with vresolves := tmap resolving.vresolves fun _ o => { o with comp := 0x80000003 } }
     (tget? s.vresolves 5).any fun o => compPv o.comp && okAnd (tileCells s o) fun cells =>
       okAnd (pinPlace (s.writeCells cells) o.det o.ctx (compPin o.comp)) (· == .cluster 0 3)) = true ∧
    (let s := { curving 0x8020000000000000 (some [(0, 1, 0)]) with resolves := tmap (curving 0x8020000000000000 (some [(0, 1, 0)])).resolves fun _ o => { o with comp := 0x80000003 } }
     (tget? s.resolves 5).any fun o => compPv o.comp && s.hasAnswers [(0, 1, 0)] && okAnd (pinPlace s o.det o.ctx (compPin o.comp)) (· == .cluster 0 3)) = true ∧
    (let s := wgp ended fun W => { W with hq := W.hq.map fun en => { en with comp := 0x80000003 } }
     (doneQueue s 0).any fun (_, _, _, en) => compPv en.comp && !en.lost s && (entryLaunch s en).any fun (L, _, det) =>
       okAnd (pinPlace s det L.ctx (compPin en.comp)) (· == .cluster 0 3)) = true ∧
    (let o : CollOp := { coverOp 0 with sent := [0, 1], written := [0, 1], agreed := [0, 1], comp := 0x80000003 }
     tidyB (covering o) && compPv o.comp && okAnd (wordWrites (covering o) o.ctx (opLaunch (covering o) o.queue o.seq) o.status o.word) fun W =>
       okAnd (pinPlace ((covering o).engineStore o.core o.ctx W) o.det o.ctx (compPin o.comp)) (· == .cluster 0 3)) = true := by
  decide +kernel

/-- The rows of a tile that `hacld` and `hacst` move within a scratch, and rows of this device. -/
theorem test_hoop_rows : rowsAway hooped 0x60000 128 = false ∧ ((queued (.acld 0 0x1000 128 true .f32) 0).wgs.head?.any fun x => x.2.hq.head?.any fun en =>
    (entryLaunch hooped en).any fun (L, c, _) => (readRows hooped en L c [] true 0x1000 128 .f32).toBool &&
      (storeRows en L x.2.core true 0x1000 128 hooped 0 ((List.range 32).map fun r =>
        storeRow .f32 false 0 .rne 0 r (((hooped.readTile 0 0 false).drop (32 * r)).take 32))).2.isNone) = true := by decide +kernel

/-- A gang of `away` that may move to cluster 1. -/
def migrating : State := ({ away with binds := [(0, ⟨1, true, 16, 3, 0xFFFF⟩)] } : State).modGang 1 fun G => { G with migrate := true }

theorem test_gang_may_move : (tget? migrating.gangs 1).any (fun G => (tget? migrating.launches (launchKey 1 0)).any fun L =>
    G.cluster == 0 && mayMove migrating 1 G L bootKernel 1) = true := by decide +kernel

/-- The saved windows of `leaving`. -/
theorem test_windows_saved : bootKernel.priv ≤ 2 ^ 16 ∧ Memory.wf leaving.mem = true ∧ (1 : Nat) < 2 ^ 32 := by decide +kernel

/-- The convergence register of `forming`, behind one that holds nothing. -/
theorem test_forming_behind : (tget? forming.gangs 1).any (fun G => (match G.conv with
    | x :: rest => (match x.2.formed with | [] => false | en :: _ => en.wave == 32) && !rest.isEmpty
    | [] => false) && (formingAt forming { G with conv := [] } 1 {}).isNone) = true := by decide +kernel

theorem test_groups_are_quiet : fabricked.fabric.member (tideCoord 0x400040) ≠ .fenced ∧ fabricked.coord? 0x400040 = none ∧
    (∀ d ∈ listOrder fabricked.fabric.index [0], fabricked.fabric.member d ≠ .fenced) ∧
    (∀ x ∈ (grouped closedRec openCoord).ctxs, x.2.stalled = []) ∧ ∀ x ∈ (orphaned [3]).ctxs, x.2.stalled = [] := by decide +kernel

/-- Members that have compared, and one that has not yet. -/
theorem test_collective_agrees : ({ coverOp 1 with agreed := [0, 1] } : CollOp).matched = true ∧ ({ coverOp 1 with agreed := [0] } : CollOp).matched = false ∧
    1 ∈ (coverOp 0).members ∧ 1 ≠ fabricked.fabric.index ∧ 1 ∉ ({ coverOp 0 with agreed := [0] } : CollOp).agreed ∧ fabricked.fabric.fencedSelf = false := by
  decide

/-- Two partitions' copies, of which partition 0 has been served. -/
def sharing : State :=
  { copying with
    sys := { copying.sys with parts := 2 }
    ctxs := copying.ctxs ++ (copying.ctxs.map fun x => (1, { x.2 with part := 1 }))
    shuttles := copying.shuttles ++ copying.shuttles.map fun x => (8, { x.2 with ctx := 1 })
    served := [(0, 0)] }

theorem test_engine_turns : notAnEvent (.shuttleChunkDone 7 0) = false ∧ (workOf sharing (.shuttleChunkDone 7 0)).map (·.part) = some 0 ∧
    inTurn sharing (.shuttleChunkDone 7 0) = false ∧ inTurn sharing (.shuttleChunkDone 8 0) = true ∧ (workOf sharing .houseSyncPulse).isNone = true ∧
    (match exec (.shuttleChunkDone 8 0) sharing with | .next _ => true | _ => false) = true := by decide +kernel

theorem test_packet_forwarded : (fabricked.fabric.port 0).up = true ∧ fabricked.fabric.forwards fabricked.fabric.index = true ∧ fabricked.fabric.forwards 4 = true ∧
    fabricked.fabric.member (fabricked.fabric.port 0).peer ≠ .joining ∧ ((minPath fabricked.fabric fabricked.fabric.index 4).any fun path =>
      path.head?.any fun d => (fabricked.fabric.portTo d).any fun j => (fabricked.fabric.port j).up) = true := by decide +kernel

theorem test_moor_resident : (tget? mooring.wgs 1).any (fun W => W.resident && !W.retired && W.leaving.isNone) = true := by decide +kernel

/-- SHA-512 of "abc" (FIPS 180-4's own example). -/
theorem test_sha512 : (sha512 [0x61, 0x62, 0x63]).take 16 =
    [0xDD, 0xAF, 0x35, 0xA1, 0x93, 0x61, 0x7A, 0xBA, 0xCC, 0x41, 0x73, 0x49, 0xAE, 0x20, 0x41, 0x31] := by decide +kernel

/-! ### Words written out from the encodings of the spec

Bits [95:64] hold IMM32, then MOD, FN, C, B, A, D, the guard byte and OP (R118). The guard byte is 0x0F unguarded and 0x2F in
the scalar form (R120, R121). D, A and B are 4, 5 and 6 where nothing else is said. -/

/-- The operands of an ALU-class instruction with D 4 and A 5. -/
def alu (ty : AluTy) (b : SrcB := .v 6) (c : BitVec 8 := 0) (rnd : Rnd := .rne) (sc : Bool := false) : Alu := ⟨g0, sc, ty, rnd, 4, 5, b, c⟩
/-- Whether every word decodes to the instruction beside it. -/
def words (xs : List (Nat × Instr)) : Bool := xs.all fun x => decodeTableWord 96 x.1 == some x.2

/-- R152 to R156: MOD is BSEL, RND and TYPE; FN[0] is SAT. -/
theorem test_words_integer : words [
    (0x000000000000000605040201, .iadd ⟨⟨2, false⟩, false, .i32, .rne, 4, 5, .v 6, 0⟩ false),
    (0x000000000201000605040F02, .isub (alu .i16x2) true), (0x000000000100000605040F03, .imul (alu .n32)),
    (0x000000000A00000605040F04, .imulhi (alu .i64)), (0x000000004000070605040F05, .imad (alu .i32 (.s 6) 7) false),
    (0x000000000300000605040F06, .imin (alu .n16x2)), (0x000000000400000605040F07, .imax (alu .i8x4)),
    (0x000000000001000005040F08, .iabs (alu .i32 (.v 0)) true), (0x000000FF8100000005040F09, .and (alu .n32 (.imm 0xFF))),
    (0x000000004000000605042F0A, .or (alu .i32 (.s 6) 0 .rne true)), (0x000000000500000605040F0B, .xor (alu .n8x4)),
    (0x000000000B00000605040F0C, .andn (alu .n64)), (0x000000038100000005040F0D, .shl (alu .n32 (.imm 3))),
    (0x000000000B00000605040F0E, .shr (alu .n64)), (0x000000000A00000605040F0F, .sar (alu .i64)),
    (0x000000000100000605040F10, .rot (alu .n32)), (0x000000000000000605040F11, .bfe (alu .i32)),
    (0x000000000100070605040F12, .bfi (alu .n32 (.v 6) 7)), (0x000000000100000005040F13, .popc (alu .n32 (.v 0))),
    (0x000000000200000005040F14, .clz (alu .i16x2 (.v 0))), (0x000000000B00000005040F15, .ctz (alu .n64 (.v 0))),
    (0x000000000500000005040F16, .brev (alu .n8x4 (.v 0))), (0x000000000100070605040F17, .perm (alu .n32 (.v 6) 7))] = true := by
  decide +kernel

/-- R157, R158: CC in FN[2:0], CMB in FN[5:4]; the forms of `mov` in FN. -/
theorem test_words_moves : words [
    (0x000000000600030605040F18, .sel (alu .f32 (.v 6) 3)),
    (0x000000008002000002010F19, .icmp ⟨g0, false, .i32, .rne, 1, 2, .imm 0, 0⟩ .lt .none),
    (0x000000000B35050402010F19, .icmp ⟨g0, false, .n64, .rne, 1, 2, .v 4, 5⟩ .ge .xor),
    (0x000000000003000302010F1A, .pset g0 1 (.andn 2 3)), (0x000000000004000002010F1A, .pset g0 1 (.not 2)),
    (0xF00000010005000000010F1A, .pset g0 1 (.imm 0xF0000001)), (0x000000000006000020010F1A, .pset g0 1 (.nz 32)),
    (0x000000004900000600040F1B, .mov ⟨g0, false, .f64, .rne, 4, 0, .s 6, 0⟩),
    (0x014201158101000000022F1B, .movToFormat g0 2 (.imm 0x01420115)), (0x000000004101000500022F1B, .movToFormat g0 2 (.s 5)),
    (0x000000000102000200042F1B, .movFromFormat g0 4 2), (0x000070000B00000000042F1C, .movi g0 true .n64 4 0x7000),
    (0x000000000B03000605040F1D, .lea (alu .n64) 3)] = true := by decide +kernel

/-- R159. -/
theorem test_words_wave : words [
    (0x000000038602000005040F20, .shfl (alu .f32 (.imm 3)) .down), (0x000000004B00000605040F21, .bcast (alu .n64 (.s 6))),
    (0x000000000001000002010F22, .vote g0 .every 1 2), (0x000000000003000002042F22, .vote g0 .mask 4 2),
    (0x000000000002000005040F23, .wred (alu .i32 (.v 0)) .max), (0x000000000108000005040F24, .wscan (alu .n32 (.v 0)) .add true),
    (0x000000078100000005042F25, .rdlane (alu .n32 (.imm 7) 0 .rne true)), (0x000000004600000605040F26, .wrlane (alu .f32 (.s 6))),
    (0x000000000A00000005040F27, .matchLanes (alu .i64 (.v 0)))] = true := by decide +kernel

/-- R164, R166, R169: RND in MOD[5:4]; the source type of a conversion in FN[3:0]. -/
theorem test_words_float : words [
    (0x000000002600000605040F30, .fadd (alu .f32 (.v 6) 0 .rup)), (0x000000000900000605040F31, .fsub (alu .f64)),
    (0x000000003800000605040F32, .fmul (alu .bf16x2 (.v 6) 0 .rdn)),
    (0x0000000056000C030B0A0F33, .ffma ⟨g0, false, .f32, .rtz, 10, 11, .s 3, 12⟩),
    (0x000000000700000605040F34, .fmin (alu .f16x2)), (0x000000000600000605040F35, .fmax (alu .f32)),
    (0x000000000626020605010F36, .fcmp ⟨g0, false, .f32, .rne, 1, 5, .v 6, 2⟩ .uo .or), (0x000000000600070605040F37, .fclamp (alu .f32 (.v 6) 7)),
    (0x000000000600000005040F38, .frcp (alu .f32 (.v 0))), (0x000000000600000005040F39, .frsq (alu .f32 (.v 0))),
    (0x000000001900000005040F3A, .fsqrt (alu .f64 (.v 0) 0 .rtz)), (0x000000000600000005040F3B, .fexp2 (alu .f32 (.v 0))),
    (0x000000000600000005040F3C, .flog2 (alu .f32 (.v 0))), (0x000000000600000005040F3D, .fsinpi (alu .f32 (.v 0))),
    (0x000000000600000005040F3E, .fcospi (alu .f32 (.v 0))), (0x000000003600000005040F3F, .fround (alu .f32 (.v 0) 0 .rdn)),
    (0x000000000900000005040F40, .ffract (alu .f64 (.v 0))), (0x000000000600000605040F41, .fdiv (alu .f32)),
    (0x000000000700070605040F42, .fdot2 (alu .f16x2 (.v 6) 7)), (0x000000000403070605040F43, .idot4 (alu .i8x4 (.v 6) 7) true true),
    (0x000000000600000605040F44, .fldexp (alu .f32)), (0x000000000900000005040F45, .fclass (alu .f64 (.v 0))),
    (0x000000000906000005040F46, .fcvt (alu .f64 (.v 0)) .f32 false), (0x000000001006000005040F47, .f2i (alu .i32 (.v 0) 0 .rtz) .f32),
    (0x000000000601000005040F48, .i2f (alu .f32 (.v 0)) .n32)] = true := by decide +kernel

/-- R170; R129, R175. -/
theorem test_words_narrow_and_control : words [
    (0x000012344600020508280F50, .qpack ⟨g0, false, .f32, .rne, 40, 8, .s 5, 2⟩ 0x1234),
    (0x3F8000009600020028080F51, .qunpack ⟨g0, false, .f32, .rtz, 8, 40, .imm 0x3F800000, 2⟩),
    (0x000000000600020010080F52, .qscale ⟨g0, false, .f32, .rne, 8, 16, .v 0, 2⟩),
    (0x000000000600020010080F53, .qamax ⟨g0, false, .f32, .rne, 8, 16, .v 0, 2⟩),
    (0, .zeroSlot), (2 ^ 96 - 1, .fillSlot), (0x000000000000000000000F60, .nop g0), (0xFFFFFFE30000000000000F61, .bra g0 0xFFFFFFE3),
    (0x000000000000000006000F62, .brx g0 false 6), (0x000000000000000006002F62, .brx g0 true 6), (0x0000000C0000000000000F63, .call g0 12),
    (0x000000000001000006000F63, .callIndirect g0 false 6), (0x000000000000000000000F64, .ret g0), (0x000000000000000000000F65, .exit g0),
    (0x000000000000000000000F66, .yield g0), (0x000000080007000000000F67, .ipref g0 8 7), (0x000000000000000302000F68, .ifence g0 2 3),
    (0xFFFFFFFF8000000000000F69, .wsync g0 (.imm 0xFFFFFFFF)), (0x000000004000000300000F69, .wsync g0 (.s 3))] = true := by decide +kernel

/-- R182, R188, R196: C is ORD, SCOPE and SPACE; FN is SCALE, BV, IV and SUB; MOD is POL, RND and TYPE. -/
theorem test_words_memory : words [
    (0x0000001000B02E0204090F70, .ld ⟨g0, 9, some 4, some (2, 2), 16, .glb, .dev, .acq, .l1, .rne, .alu .i32⟩),
    (0x000000100F20450004090F71, .st ⟨g0, 9, some 4, none, 16, .scr, .grp, .rel, .l1, .rne, .n16⟩),
    (0x0000000016230E0004080F72, .ldq ⟨g0, 8, some 4, none, 0, .glb, .dev, .rlx, .l1, .rtz, .alu .f32⟩ 3),
    (0x0000000006230E0004080F73, .stq ⟨g0, 8, some 4, none, 0, .glb, .dev, .rlx, .l1, .rne, .alu .f32⟩ 3),
    (0x000000080A200E0004082F74, .lds ⟨g0, 8, some 4, none, 8, .glb, .dev, .rlx, .l1, .rne, .alu .i64⟩),
    (0x0000000001276E00060A0F75, .atom ⟨g0, 10, some 6, none, 0, .glb, .dev, .ar, .l1, .rne, .alu .n32⟩ .cas),
    (0x0000000001280E00060A0F76, .red ⟨g0, 10, some 6, none, 0, .glb, .dev, .rlx, .l1, .rne, .alu .n32⟩ .upto),
    (0x0000000006200E00060A0F77, .bwaddX ⟨g0, 10, some 6, none, 0, .glb, .dev, .rlx, .l1, .rne, .alu .f32⟩),
    (0x0000000006210E00060A0F77, .bwaddR ⟨g0, 10, some 6, none, 0, .glb, .dev, .rlx, .l1, .rne, .alu .f32⟩),
    (0x0000000000000E0000000F78, .bwflush g0 none), (0x0000000800210E0004030F78, .bwflush g0 (some (3, 4, 8))),
    (0x00000000C0200E0004000F79, .prefd ⟨g0, 0, some 4, none, 0, .glb, .dev, .rlx, .keep, .rne, .alu .i32⟩),
    (0x0000000000200E0004000F7A, .cwbInv ⟨g0, 0, some 4, none, 0, .glb, .dev, .rlx, .l1, .rne, .alu .i32⟩),
    (0x0000000000210E0004000F7A, .cwbWb ⟨g0, 0, some 4, none, 0, .glb, .dev, .rlx, .l1, .rne, .alu .i32⟩),
    (0x0000000000008C0000000F7B, .fence g0 .dev .sc),
    (0x0000000001262E00040A0F7C, .moor ⟨g0, 10, some 4, none, 0, .glb, .dev, .acq, .l1, .rne, .alu .n32⟩ .any),
    (0x000000000000000403020F7D, .smap g0 2 3 4), (0x000000000000000003000F7E, .sunmap g0 3), (0x000000000000000003000F7F, .swb g0 (some 3)),
    (0x000000000001000000000F7F, .swb g0 none)] = true := by decide +kernel

/-- R132, R199, R200, R202, R208. -/
theorem test_words_sync_and_system : words [
    (0x000000030000000706050F80, .binit g0 5 6 7 ⟨false, 0, 3⟩), (0x000001030000000006050F81, .barrive g0 5 6 ⟨true, 0, 3⟩),
    (0x0000000F0000000006010F82, .bwait g0 1 6 ⟨false, 0, 15⟩), (0x000001320000000006010F83, .bsync g0 1 6 ⟨true, 3, 2⟩),
    (0x000000030000000000000F84, .binval g0 ⟨false, 0, 3⟩), (0x3F3F3F010000000000000F85, .wait g0 1 63 63 63),
    (0x000002050000000003000F86, .pinadd g0 3 (.imm 0x205)), (0x000000000001000703040F87, .pinwait g0 4 3 (.reg 7)),
    (0x000002050000000003000F88, .pinset g0 3 (.imm 0x205)), (0x000000000000000000000F89, .bobtake g0), (0x000000000000000000000F8A, .bobpass g0),
    (0x000000000000000000000F8B, .phase g0), (0x000000000000000005040F8C, .launch g0 4 5 none), (0x000000000001000605040F8C, .launch g0 4 5 (some 6)),
    (0x000000000001000006000F8D, .ebbpush g0 false 6 true), (0x000000000000000006002F8D, .ebbpush g0 true 6 false),
    (0x000000000000000403020F8E, .ebbmarkRecomp g0 2 3 4), (0x000000090001000403020F8E, .ebbmarkNeeds g0 2 3 4 9),
    (0x000012340000000000000FE0, .trap g0 0x1234), (0x000000070000000000000FE1, .brkpt g0 7), (0x000000190000000000032FE2, .rdsr g0 true 3 0x19),
    (0x000000190000000000030FE2, .rdsr g0 false 3 0x19), (0x000000190001000000032FE2, .rdsrClr g0 true 3),
    (0x000008000000000003000FE3, .wrsr g0 3 0x800), (0x000000000000000000042FE4, .rdcyc g0 4)] = true := by decide +kernel

/-- R217, R224. -/
theorem test_words_shuttle_and_hoop : words [
    (0x0000008003070C0B010A0F90, .shcopy ⟨g0, 10, 1, 11, 12, .dev, 128⟩ true true true), (0x0000008004000C0B010A0F91, .shfill ⟨g0, 10, 1, 11, 12, .sys, 128⟩),
    (0x0000008001020C0B010A0F92, .shgath ⟨g0, 10, 1, 11, 12, .grp, 128⟩ true), (0x0000008002000C0B010A0F93, .shscat ⟨g0, 10, 1, 11, 12, .gng, 128⟩ false),
    (0x000000000200000302010F94, .bmtest g0 .gng 1 2 3), (0x000000000300000302000F95, .bmwait g0 .dev 2 3), (0x000000000000000302000F96, .bmclr g0 2 3),
    (0x000000000000000014160F98, .hres g0 22 20), (0x000000000000000016000F99, .hrel g0 22), (0x000000000007000004080F9A, .hbwr g0 8 4 7),
    (0x000000000000000004080F9B, .hbrd g0 8 4 0), (0x000010000000060504000F9C, .skld g0 4 5 6 0x1000), (0x000000000000000004030F9D, .hcvr g0 3 4),
    (0x000000200000000B0A10019E, .hmma ⟨1, false⟩ .buf 16 10 11 0 32 0), (0x000001FF0002070B0AFF0F9E, .hmma g0 .cb 255 10 11 7 511 0),
    (0x000000000000000000000F9F, .hcbeg g0), (0x000000000000000000000FA0, .hcend g0), (0x000001000000040000100FA1, .hzero g0 16 4 256),
    (0x000000001633060504100FA2, .hacst g0 16 4 5 6 true true 3 .rtz .f32), (0x000000000900060504100FA3, .hacld g0 16 4 5 6 false .f64)] = true := by
  decide +kernel

/-- R238, R239, R252, R273. -/
theorem test_words_graphics_and_fabric : words [
    (0x000000000089080605040FB0, .spkey g0 4 5 6 8 (.reg 9)), (0x000000000089000004000FB1, .spsort g0 4 (.reg 9)),
    (0x000000020000000006040FB2, .spseg g0 4 6 (.pool 2)), (0x000000020000000006140FB3, .spfetch g0 20 6 (.pool 2)),
    (0x000000000000030214280FB4, .spblend g0 40 20 2 3), (0x000000000000280214040FB5, .spgrad g0 4 20 2 40),
    (0x000000050000000010090FB6, .trimit g0 9 16 (.pool 5)), (0x000000050000000504000FB7, .vresolve g0 4 5 (.pool 5)),
    (0x000000000002001007000FB8, .crvemit g0 .cubic 7 16), (0x000000000005060507040FB9, .crvres g0 .eo true 4 7 5 6),
    (0x00000005010004000A280FBA, .texs g0 true 40 10 4 (.pool 5)), (0x00000000008904000A280FBB, .texf g0 40 10 4 (.reg 9)),
    (0x000000000603000005040FBC, .deriv g0 true true 4 5), (0x000000000000000003000FBD, .quad g0 3), (0x000000050000000000040FBE, .binres g0 4 (.pool 5)),
    (0x000000000000050403020FC0, .topen g0 2 3 4 5), (0x0000000006B0060204090FC1, .sttide g0 9 (some 4) (some (2, 2)) 0 (.alu .f32) 6),
    (0x000000000000000008030FC2, .tclose g0 3 8), (0x000000000000060504000FC3, .tcommit g0 4 5 6), (0x000000000000000008030FC4, .tabort g0 3 8),
    (0x000000000001000008030FC5, .tstat g0 true 3 8), (0x000000070000000504000FC6, .credmx g0 4 5 (.pool 7)),
    (0x000000000089000504000FC7, .cover g0 4 5 (.reg 9))] = true := by decide +kernel
/-! ### Slots that are no instruction, and ill-formed terms -/

/-- R116, R118, R119, R121, R123 to R125, R128, R129, R158: an unassigned opcode, a reserved skeleton bit, an unused field, a scalar
form or `vB` in it where there is none, a reserved BSEL, TYPE, SPACE, SCOPE, ORD or CC, an order the instruction refuses, an
index beyond its file, a bar with OWNER and without PEER, `hzero` of no tile: no word of these decodes. -/
theorem test_refused_words : ([0x000000000000000000000F1E, 0x0000000000000000000000FF, 0x000000000000000605044F01, 0x000000000000010605040F01,
    0x000000000000000302042F68, 0x000000000000000605042F01, 0x00000000C000000605040F01, 0x000000000C00000605040F01, 0x0000000000200F0004090F70,
    0x0000000000201E0004090F70, 0x000000000020AE0004090F70, 0x0000000000204E0004090F70, 0x000000008006000002010F19, 0x000000008002000002100F19,
    0x000000130000000000000F84, 0x000000000000000000000FA1, 0x000000001000000605040F01].all fun w => (decodeTableWord 96 w).isNone) = true := by
  decide +kernel

/-- Whether WellFormed refuses each of these. -/
def refuses (xs : List Instr) : Bool := xs.all fun i => !i.wf

/-- For each check of WellFormed a term that it refuses: a type outside the row, a scalar form where there is none, a register
beyond its file, an unused operand, a `v` register in the scalar form, a combination register without a combination, rounding
where nothing rounds, an order, a type, a space and a policy that the row does not take, a format above 15, an absent base,
an OWNER without PEER, a pin or coordinate register too high, the scope `.wv` of a copy, a count of 0 and of 257, a `.q` format
without `.q`, and a seed beside an immediate scale. -/
theorem test_ill_formed : refuses [.iabs (alu .n32 (.v 0)) false, .sel { alu .f32 (.s 6) 3 with sc := true }, .rdlane (alu .n32 (.imm 7)), .iadd { alu .i32 (.s 6) with sc := true, d := 64 } false,
    .popc (alu .n32), .iadd { alu .i32 with sc := true } false, .icmp { alu .i32 (.v 6) 2 with d := 1 } .eq .none, .iadd (alu .i32 (.v 6) 0 .rtz) false,
    .pset g0 16 (.imm 1), .movToFormat g0 2 (.v 3), .movFromFormat g0 64 2, .movi g0 true .f64 4 7, .vote g0 .mask 64 2, .wred (alu .f32 (.v 0)) .and,
    .fcvt (alu .f32 (.v 0)) .f32 true, .f2i (alu .i32 (.v 0)) .i32, .i2f (alu .f32 (.v 0)) .f32, .qpack (alu .f32 (.imm 1)) 5, .qscale (alu .f32 (.v 0) 16),
    .brx g0 true 64, .ifence g0 64 3, .wsync g0 (.s 64),
    .ld { plainMem .glb (.alu .i32) with ord := .rel }, .st { plainMem .glb (.alu .i32) with base := some 64 }, .ldq (plainMem .glb (.alu .i32)) 0,
    .lds { plainMem .glb (.alu .i32) with base := none }, .atom (plainMem .prv (.alu .i32)) .add, .red (plainMem .glb (.alu .i32)) .cas,
    .bwaddX (plainMem .scr (.alu .f32)), .prefd { plainMem .glb (.alu .i32) with d := 0, ord := .acq }, .cwbInv { plainMem .glb (.alu .i32) with d := 1 },
    .fence g0 .dev .rlx, .moor (plainMem .prv (.alu .i32)) .eq, .smap g0 64 3 4, .bwflush g0 (some (64, 4, 0)),
    .binit g0 5 6 7 ⟨false, 1, 3⟩, .bsync g0 16 6 ⟨false, 0, 3⟩, .pinadd g0 3 (.reg 64), .launch g0 4 5 (some 64), .ebbpush g0 true 64 false,
    .shcopy ⟨g0, 10, 62, 11, 12, .dev, 0⟩ true true false, .shgath ⟨g0, 10, 63, 11, 12, .dev, 0⟩ true, .bmwait g0 .wv 2 3,
    .hcvr g0 8 4, .hzero g0 16 4 0, .hzero g0 16 4 257, .hacst g0 16 4 5 6 true false 3 .rtz .f32, .hacld g0 16 4 5 6 false .i32,
    .spseg g0 63 6 (.pool 2), .spblend g0 40 20 2 16, .texs g0 true 40 10 16 (.pool 5), .quad g0 16, .topen g0 2 64 4 5,
    .sttide g0 9 (some 64) none 0 (.alu .f32) 6, .credmx g0 64 5 (.pool 7), .rdsr g0 true 64 0, .wrsr g0 64 0, .rdcyc g0 64] = true := by
  decide +kernel

/-! ### Commands as the ring holds them (R334 to R338) -/

/-- A command record: opcode, tag and arguments from offset 8. -/
def command (op tag : Nat) (args : List Byte) : List Byte := leBytes 2 op ++ leBytes 2 0 ++ leBytes 4 tag ++ (args ++ leBytes 56 0).take 56
/-- Whether every record, of tag 5, decodes to the command beside it. -/
def commands (xs : List (Nat × List Byte × Instr)) : Bool := xs.all fun x => decodeCommand (command x.1 5 x.2.1) == some x.2.2

theorem test_commands_decode : commands [
    (0x01, leBytes 2 1 ++ leBytes 2 7, .version 5 1 7), (0x02, [], .stage 5), (0x03, leBytes 8 0x1000 ++ leBytes 8 2048, .fwLoad 5 0x1000 2048),
    (0x04, [], .stageDiag 5), (0x10, [4], .partSet 5 4), (0x20, leBytes 8 0x1000, .ctxCreate 5 0x1000), (0x21, leBytes 4 9, .ctxDestroy 5 9),
    (0x22, leBytes 4 9, .exportSync 5 9), (0x23, leBytes 8 9 ++ leBytes 8 0x10000 ++ leBytes 8 0x20000, .spillSet 5 9 0x10000 0x20000),
    (0x30, leBytes 8 3 ++ leBytes 8 0x2000, .qCreate 5 3 0x2000), (0x31, [3], .qDestroy 5 3), (0x32, [3], .qQuery 5 3), (0x33, [3], .qSuspend 5 3),
    (0x34, [3], .qResume 5 3), (0x40, leBytes 32 77, .bind 5 (leBytes 32 77)), (0x41, [8], .unbind 5 8)] = true := by decide +kernel

theorem test_device_commands_decode : commands [
    (0x50, leBytes 8 9 ++ leBytes 8 0x10000 ++ leBytes 8 0x20000, .tlbInv 5 9 0x10000 0x20000),
    (0x51, leBytes 4 9 ++ leBytes 4 6 ++ [2], .faultReply 5 9 6 2), (0x52, leBytes 4 9 ++ leBytes 4 6 ++ leBytes 8 0x77 ++ [2], .trapReply 5 9 6 0x77 2),
    (0x60, [31, 0] ++ leBytes 2 992 ++ leBytes 4 3 ++ leBytes 4 4 ++ leBytes 2 512, .fabricCfg 5 31 992 3 4 512), (0x61, [31], .portQuery 5 31),
    (0x62, [6], .devFence 5 6), (0x63, [6], .devAdmit 5 6), (0x70, leBytes 8 3 ++ leBytes 8 0x3000, .dispCfg 5 3 0x3000),
    (0x80, leBytes 8 0x40 ++ leBytes 8 0x80, .attest 5 0x40 0x80), (0x90, leBytes 4 900, .powerCap 5 900), (0x91, leBytes 8 0x1000, .errLog 5 0x1000)] = true ∧
    decodeCommand (command 0x05 5 []) = none := by decide +kernel

end Sys2Proof.Tests
end

section
/-! PROOFS. R110: numbers of bytes in little-endian order, cut at byte boundaries, and the layout of a fetch line. -/

namespace Sys2Proof.Machine

/-! ### Little-endian numbers -/

/-- The first byte is the least significant. -/
theorem leNat_cons_mod (b : Byte) (bs : List Byte) : leNat (b :: bs) % 256 = b.toNat := by
  have hb : b.toNat < 256 := b.isLt
  rw [leNat]
  omega

theorem leNat_cons_div (b : Byte) (bs : List Byte) : leNat (b :: bs) / 256 = leNat bs := by
  have hb : b.toNat < 256 := b.isLt
  rw [leNat]
  omega

theorem two_pow_bits_succ (n : Nat) : 2 ^ (8 * (n + 1)) = 256 * 2 ^ (8 * n) := by
  rw [Nat.mul_succ, Nat.pow_add, Nat.mul_comm]

/-- The first `n` bytes are the low `8 * n` bits. -/
theorem leNat_take (bs : List Byte) (n : Nat) : leNat (bs.take n) = leNat bs % 2 ^ (8 * n) := by
  induction n generalizing bs with
  | zero => rw [List.take_zero, leNat, Nat.mul_zero, Nat.pow_zero, Nat.mod_one]
  | succ n ih =>
    cases bs with
    | nil => rw [List.take_nil, leNat, Nat.zero_mod]
    | cons b bs =>
      rw [List.take_succ_cons, leNat, ih, two_pow_bits_succ, Nat.mod_mul, leNat_cons_mod, leNat_cons_div]

/-- The bytes past the first `n` are the bits from bit `8 * n` on. -/
theorem leNat_drop (bs : List Byte) (n : Nat) : leNat (bs.drop n) = leNat bs / 2 ^ (8 * n) := by
  induction n generalizing bs with
  | zero => rw [List.drop_zero, Nat.mul_zero, Nat.pow_zero, Nat.div_one]
  | succ n ih =>
    cases bs with
    | nil => rw [List.drop_nil, leNat, Nat.zero_div]
    | cons b bs =>
      rw [List.drop_succ_cons, ih, two_pow_bits_succ, ← Nat.div_div_eq_div_mul, leNat_cons_div]

theorem leAt_eq_leNat (bs : List Byte) (off n : Nat) : leAt bs off n = leNat ((bs.drop off).take n) := by
  unfold leAt
  induction (bs.drop off).take n with
  | nil => rfl
  | cons b bs ih => rw [List.foldr_cons, ih, leNat]

/-- `n` bytes at an offset are `8 * n` bits of the number, from bit `8 * off` on. -/
theorem leAt_eq_bits (bs : List Byte) (off n : Nat) : leAt bs off n = leNat bs / 2 ^ (8 * off) % 2 ^ (8 * n) := by
  rw [leAt_eq_leNat, leNat_take, leNat_drop]

theorem leAt_lt (bs : List Byte) (off n : Nat) : leAt bs off n < 2 ^ (8 * n) := by
  rw [leAt_eq_bits]
  exact Nat.mod_lt _ (Nat.two_pow_pos _)

/-- Bytes at an offset that lie within a prefix are the same in every list with that prefix. -/
theorem leAt_congr_take {bs cs : List Byte} {off n m : Nat} (h : bs.take m = cs.take m) (hm : off + n ≤ m) :
    leAt bs off n = leAt cs off n := by
  have within (xs : List Byte) : (xs.drop off).take n = ((xs.take m).drop off).take n := by
    rw [List.drop_take, List.take_take, Nat.min_eq_left (by omega)]
  rw [leAt_eq_leNat, leAt_eq_leNat, within bs, within cs, h]

/-! ### The fetch line (R110) -/

/-- The line of a PC starts at the multiple of 64 at or below it. -/
theorem lineOf_toNat (pc : DWord) : (lineOf pc).toNat = 64 * (pc.toNat / 64) := by
  have hshift : lineOf pc = pc >>> 6 <<< 6 := by
    rw [BitVec.shiftLeft_ushiftRight]
    rfl
  rw [hshift, BitVec.toNat_shiftLeft, BitVec.toNat_ushiftRight, Nat.shiftLeft_eq, Nat.shiftRight_eq_div_pow]
  omega

/-- Twelve bytes fit a slot's 96 bits. -/
theorem slotBits_toNat (line : List Byte) (k : Nat) : (slotBits line k).toNat = leAt line (12 * k) 12 :=
  Nat.mod_eq_of_lt (leAt_lt line (12 * k) 12)

/-- The line word is the rest of the line: no byte follows it. -/
theorem lineWord_eq_leNat_drop {line : List Byte} (h : line.length = 64) : lineWord line = leNat (line.drop 60) := by
  rw [lineWord, leAt_eq_leNat, List.take_of_length_le (Nat.le_of_eq (by rw [List.length_drop, h]))]

/-- Every group of 60 payload bits lies in the first 60 bytes of the line. -/
theorem parGroup_congr {line other : List Byte} (h : other.take 60 = line.take 60) {i : Nat} (hi : i < 8) :
    parGroup other i = parGroup line i := by
  rw [parGroup, parGroup, leAt_congr_take h (by omega)]

/-- The parity is a function of the payload. -/
theorem linePar_congr {line other : List Byte} (h : other.take 60 = line.take 60) : linePar other = linePar line :=
  List.foldr_rel (r := Eq) rfl fun i hi acc acc' hacc => by rw [parGroup_congr h (List.mem_range.mp hi), hacc]

end Sys2Proof.Machine

open Sys2Proof.Machine

/-- Settles O52: a slot and the line word are runs of whole bytes, and so runs of bits of the line's number;
the parity groups read bytes 0 to 59 alone. -/
theorem fetchLinesLaidOut : Obligations.FetchLinesLaidOut := by
  unfold Obligations.FetchLinesLaidOut
  refine ⟨fun pc => ?aligned, fun _ _ => rfl,
    fun line hl => ⟨fun k _ => ⟨?slot, ?slotBytes⟩, ?word, lineWord_eq_leNat_drop hl, fun _ h _ => linePar_congr h⟩⟩
  case aligned =>
    rw [lineOf_toNat]
    omega
  case slot => simp only [slotBits_toNat, leAt_eq_bits, ← Nat.mul_assoc, Nat.reduceMul]
  case slotBytes => rw [slotBits_toNat, leAt_eq_leNat]
  case word => simp only [lineWord_eq_leNat_drop hl, leNat_drop, Nat.reduceMul]
end

section
/-! PROOFS. R155: what the counts of bits are, the elements of a value that is joined from elements, and an operation of
one operand run per element. -/

namespace Sys2Proof.Machine

/-! ### The counts of bits (R155) -/

theorem bitOf_eq_testBit (a : Nat) : bitOf a = a.testBit := by
  funext i
  rw [bitOf, Nat.testBit_eq_decide_div_mod_eq]

theorem popcNat_eq (w a : Nat) : popcNat w a = ((List.range w).filter a.testBit).length := by
  rw [popcNat, bitOf_eq_testBit]

theorem popcNat_le (w a : Nat) : popcNat w a ≤ w :=
  Nat.le_trans (List.length_filter_le _ _) (Nat.le_of_eq List.length_range)

/-- `r` zero bits stand above the highest bit set among the low `w`. -/
def zerosAbove (w a r : Nat) : Prop :=
  r ≤ w ∧ (∀ i, w - r ≤ i → i < w → a.testBit i = false) ∧ (r < w → a.testBit (w - 1 - r) = true)

/-- `r` zero bits stand below the lowest bit set among the low `w`. -/
def zerosBelow (w a r : Nat) : Prop :=
  r ≤ w ∧ (∀ i, i < r → a.testBit i = false) ∧ (r < w → a.testBit r = true)

/-- The low `w` bits of `r` are those of `a` in reverse order. -/
def reversedBits (w a r : Nat) : Prop := ∀ i, i < w → r.testBit i = a.testBit (w - 1 - i)

/-- The highest bit set is bit `Nat.log2 a`. -/
theorem zerosAbove_clzNat {w a : Nat} (ha : a < 2 ^ w) : zerosAbove w a (clzNat w a) := by
  by_cases h0 : a = 0
  · rw [clzNat, if_pos h0, h0]
    exact ⟨Nat.le_refl w, fun i _ _ => Nat.zero_testBit i, fun h => absurd h (Nat.lt_irrefl w)⟩
  · have hlog : a.log2 < w := (Nat.log2_lt h0).mpr ha
    rw [clzNat, if_neg h0]
    refine ⟨by omega, fun i hi _ => ?_, fun _ => ?_⟩
    · exact Nat.testBit_lt_two_pow (Nat.lt_of_lt_of_le Nat.lt_log2_self (Nat.pow_le_pow_right Nat.two_pos (by omega)))
    · rw [show w - 1 - (w - 1 - a.log2) = a.log2 by omega]
      exact Nat.testBit_log2 h0

/-- The search from bit 0 finds the lowest bit set, or no bit among the low `w` is. -/
theorem zerosBelow_ctzNat (w a : Nat) : zerosBelow w a (ctzNat w a) := by
  rw [ctzNat, bitOf_eq_testBit]
  cases hfind : (List.range w).find? a.testBit with
  | none =>
    have hclear := List.find?_range_eq_none.mp hfind
    exact ⟨Nat.le_refl w, fun i hi => Bool.not_eq_true' _ |>.mp (hclear i hi), fun h => absurd h (Nat.lt_irrefl w)⟩
  | some k =>
    obtain ⟨hset, hmem, hclear⟩ := List.find?_range_eq_some.mp hfind
    exact ⟨Nat.le_of_lt (List.mem_range.mp hmem), fun i hi => Bool.not_eq_true' _ |>.mp (hclear i hi), fun _ => hset⟩

/-- Every further bit of `a` enters below the bits reversed so far. -/
theorem brevNat_succ (w a : Nat) : brevNat (w + 1) a = 2 * brevNat w a + (a.testBit w).toNat := by
  rw [brevNat, List.range_succ, List.foldl_append, List.foldl_cons, List.foldl_nil, ← brevNat, bitOf_eq_testBit,
    Nat.mul_comm, Bool.toNat, Bool.cond_eq_ite]

theorem brevNat_succ_mod_two (w a : Nat) : brevNat (w + 1) a % 2 = (a.testBit w).toNat := by
  rw [brevNat_succ, Nat.mul_add_mod, Nat.mod_eq_of_lt (Bool.toNat_lt _)]

theorem brevNat_succ_div_two (w a : Nat) : brevNat (w + 1) a / 2 = brevNat w a := by
  have hbit := Bool.toNat_lt (a.testBit w)
  rw [brevNat_succ]
  omega

theorem brevNat_lt (w a : Nat) : brevNat w a < 2 ^ w := by
  induction w with
  | zero => exact Nat.one_pos
  | succ w ih =>
    rw [Nat.pow_succ, ← Nat.div_lt_iff_lt_mul Nat.two_pos, brevNat_succ_div_two]
    exact ih

theorem reversedBits_brevNat (w a : Nat) : reversedBits w a (brevNat w a) := by
  induction w with
  | zero => exact fun i hi => absurd hi (Nat.not_lt_zero i)
  | succ w ih =>
    intro i hi
    cases i with
    | zero =>
      rw [Nat.testBit_zero, brevNat_succ_mod_two, Nat.add_sub_cancel, Nat.sub_zero]
      cases a.testBit w <;> rfl
    | succ i =>
      rw [Nat.testBit_succ, brevNat_succ_div_two, ih i (by omega)]
      congr 1
      omega

/-! ### Elements -/

/-- Element `k` of a value (R51). -/
def elemAt (ty : AluTy) (x k : Nat) : Nat := x / 2 ^ (ty.elemWidth * k) % 2 ^ ty.elemWidth

theorem elemAt_lt (ty : AluTy) (x k : Nat) : elemAt ty x k < 2 ^ ty.elemWidth := Nat.mod_lt _ (Nat.two_pow_pos _)

theorem elemWidth_pos (ty : AluTy) : 0 < ty.elemWidth := by cases ty <;> decide

theorem elemsOf_eq_map (ty : AluTy) (x : Nat) : elemsOf ty x = (List.range ty.elemCount).map (elemAt ty x) := by
  have hw := elemWidth_pos ty
  refine List.map_congr_left fun k _ => ?_
  rw [bitsOf, elemAt, show ty.elemWidth * k + ty.elemWidth - 1 + 1 - ty.elemWidth * k = ty.elemWidth by omega]

@[simp] theorem elemsOf_length (ty : AluTy) (x : Nat) : (elemsOf ty x).length = ty.elemCount := by
  rw [elemsOf, List.length_map, List.length_range]

theorem joinElems_cons (ty : AluTy) (x : Nat) (xs : List Nat) :
    joinElems ty (x :: xs) = x % 2 ^ ty.elemWidth + 2 ^ ty.elemWidth * joinElems ty xs := rfl

theorem joinElems_cons_div (ty : AluTy) (x : Nat) (xs : List Nat) :
    joinElems ty (x :: xs) / 2 ^ ty.elemWidth = joinElems ty xs := by
  rw [joinElems_cons, Nat.add_mul_div_left _ _ (Nat.two_pow_pos _), Nat.div_eq_of_lt (Nat.mod_lt _ (Nat.two_pow_pos _)),
    Nat.zero_add]

theorem joinElems_lt (ty : AluTy) (xs : List Nat) : joinElems ty xs < 2 ^ (ty.elemWidth * xs.length) := by
  induction xs with
  | nil => exact Nat.two_pow_pos _
  | cons x xs ih =>
    rw [List.length_cons, Nat.mul_succ, Nat.pow_add, ← Nat.div_lt_iff_lt_mul (Nat.two_pow_pos _), joinElems_cons_div]
    exact ih

/-- Each element of the value joined is the element that stands at its place, cut to the width. -/
theorem elemAt_joinElems (ty : AluTy) (xs : List Nat) {k : Nat} (hk : k < xs.length) :
    elemAt ty (joinElems ty xs) k = xs[k] % 2 ^ ty.elemWidth := by
  induction xs generalizing k with
  | nil => exact absurd hk (Nat.not_lt_zero k)
  | cons x xs ih =>
    cases k with
    | zero => rw [elemAt, Nat.mul_zero, Nat.pow_zero, Nat.div_one, joinElems_cons, Nat.add_mul_mod_self_left, Nat.mod_mod,
        List.getElem_cons_zero]
    | succ k =>
      rw [elemAt, Nat.mul_succ, Nat.pow_add, Nat.mul_comm, ← Nat.div_div_eq_div_mul, joinElems_cons_div, List.getElem_cons_succ]
      exact ih _

/-! ### An operation of one operand, per element -/

/-- The value of a lane whose elements are `f` of the elements of `a`. -/
def mapElems (ty : AluTy) (f : Nat → Nat) (a : Nat) : Nat := joinElems ty ((elemsOf ty a).map f)

theorem mapElems_lt (ty : AluTy) (f : Nat → Nat) (a : Nat) : mapElems ty f a < 2 ^ (ty.elemWidth * ty.elemCount) := by
  have h := joinElems_lt ty ((elemsOf ty a).map f)
  rwa [List.length_map, elemsOf_length] at h

theorem elemAt_mapElems (ty : AluTy) (f : Nat → Nat) (a : Nat) {k : Nat} (hk : k < ty.elemCount) :
    elemAt ty (mapElems ty f a) k = f (elemAt ty a k) % 2 ^ ty.elemWidth := by
  have hlen : k < ((elemsOf ty a).map f).length := by rwa [List.length_map, elemsOf_length]
  rw [mapElems, elemAt_joinElems ty _ hlen]
  simp only [elemsOf_eq_map, List.getElem_map, List.getElem_range]

theorem foldl_or_zero {α : Type} (xs : List α) (f : α → Word) (hf : ∀ x, f x = 0) (fl : Word) :
    xs.foldl (fun acc x => acc ||| f x) fl = fl := by
  induction xs with
  | nil => rfl
  | cons x xs ih =>
    have hor : fl ||| 0 = fl := BitVec.or_zero
    rw [List.foldl_cons, hf, hor, ih]

/-- An operation of one operand that raises no flag looks at neither b nor c. -/
theorem perElem_unary (ty : AluTy) (f : Nat → Nat) (a b c : Nat) :
    perElem ty (fun a _ _ => (f a, 0)) a b c = (mapElems ty f a, 0) := by
  have hvals : (((elemsOf ty a).zipIdx.map fun x => (f x.1, (0 : Word))).map (·.1)) = (elemsOf ty a).map f := by
    rw [List.map_map]
    exact (List.map_map (f := Prod.fst) (g := f)).symm.trans (congrArg (List.map f) (List.zipIdx_map_fst 0 _))
  have hflags : ((elemsOf ty a).zipIdx.map fun x => (f x.1, (0 : Word))).foldl (fun acc r => acc ||| r.2) 0 = 0 := by
    rw [List.foldl_map]
    exact foldl_or_zero _ _ (fun _ => rfl) 0
  exact Prod.ext (congrArg (joinElems ty) hvals) hflags

/-- The rule of an integer operation of one operand (R151, R152). -/
def unaryRule (o : Alu) (f : Nat → Nat) : AluRule := elemRule o false false fun a _ _ => (f a, 0)

theorem unaryRule_at (o : Alu) (f : Nat → Nat) (e : Env) (l : Nat) :
    (unaryRule o f).at e l = (mapElems o.ty f (readReg e.w o.sc o.ty.is64 o.a.toNat l), 0) :=
  perElem_unary o.ty f _ (readB e.w o.ty false o.b l) (readReg e.w o.sc false o.c.toNat l)

/-- The rule raises no flag. -/
theorem fflags_of_unaryRule_ran {o : Alu} {f : Nat → Nat} {e : Env} {w' : Wave} (h : (unaryRule o f).ran e w') :
    w'.fflags = e.w.fflags := by
  obtain ⟨-, -, -, -, -, hflags⟩ := h
  rw [hflags]
  refine foldl_or_zero _ _ (fun l => ?_) _
  rw [unaryRule_at]
  simp only [waveFlags, laneFlags, ite_self]

/-- An issue that is over and raises no flag, where every element of D stands in the relation `P` to that element of a. -/
def runsPerElem (o : Alu) (e : Env) (s : State) (i : Instr) (P : Nat → Nat → Prop) : Prop :=
  ∃ (t : State) (x : Nat → Nat), exec i s = .next t ∧ isOver e s t ∧ (t.wave e.id).fflags = e.w.fflags ∧
    ∀ l ∈ e.passes o.sc, x l < 2 ^ (o.ty.elemWidth * o.ty.elemCount) ∧
      dHolds (t.wave e.id) o.ty o.sc o.ty.is64 o.d.toNat l (x l) ∧
      ∀ k, k < o.ty.elemCount → P (elemAt o.ty (readReg e.w o.sc o.ty.is64 o.a.toNat l) k) (elemAt o.ty (x l) k)

/-- An instruction whose rule is `f` per element gives every element `f` of it, where `f` fits the element. -/
theorem runsPerElem_of_unaryRule {o : Alu} {e : Env} {s : State} {i : Instr} {f : Nat → Nat} {P : Nat → Nat → Prop}
    (hs : Tidy s) (he : s.env? o.g = some e) (hregs : e.regsOk o (tyWidths o.ty false false) = true)
    (hrule : intRule i = some (unaryRule o f)) (hfits : ∀ a, a < 2 ^ o.ty.elemWidth → f a < 2 ^ o.ty.elemWidth)
    (hP : ∀ a, a < 2 ^ o.ty.elemWidth → P a (f a)) : runsPerElem o e s i P := by
  obtain ⟨t, hrun, hover, hran⟩ := aluWith_ran (unaryRule o f) hs he hregs
  refine ⟨t, fun l => mapElems o.ty f (readReg e.w o.sc o.ty.is64 o.a.toNat l), (exec_intRule hrule s).trans hrun, hover,
    fflags_of_unaryRule_ran hran, fun l hl => ⟨mapElems_lt _ _ _, ?held, fun k hk => ?elem⟩⟩
  case held =>
    have hheld := hran.1 l hl
    rwa [unaryRule_at] at hheld
  case elem =>
    rw [elemAt_mapElems _ _ _ hk, Nat.mod_eq_of_lt (hfits _ (elemAt_lt _ _ _))]
    exact hP _ (elemAt_lt _ _ _)

end Sys2Proof.Machine

open Sys2Proof Sys2Proof.Machine

/-- Settles O53: each instruction runs its count per element by the ALU's rule, and the count, at most the element's
width, fits the element. -/
theorem bitCountsWithinElements : Obligations.BitCountsWithinElements := by
  unfold Obligations.BitCountsWithinElements
  intro o s e hs he hregs
  have fits {r : Nat} (hr : r ≤ o.ty.elemWidth) : r < 2 ^ o.ty.elemWidth := Nat.lt_of_le_of_lt hr Nat.lt_two_pow_self
  have runs {i : Instr} {f : Nat → Nat} {P : Nat → Nat → Prop} :=
    runsPerElem_of_unaryRule (i := i) (f := f) (P := P) hs he hregs
  let w := o.ty.elemWidth
  show runsPerElem o e s (.popc o) (fun a r => r = ((List.range w).filter a.testBit).length) ∧
    runsPerElem o e s (.clz o) (zerosAbove w) ∧ runsPerElem o e s (.ctz o) (zerosBelow w) ∧
    runsPerElem o e s (.brev o) (reversedBits w)
  refine ⟨runs rfl ?popcFits ?popc, runs rfl ?clzFits ?clz, runs rfl ?ctzFits ?ctz, runs rfl ?brevFits ?brev⟩
  case popcFits => exact fun a _ => fits (popcNat_le _ a)
  case popc => exact fun a _ => popcNat_eq _ a
  case clzFits => exact fun a ha => fits (zerosAbove_clzNat ha).1
  case clz => exact fun a ha => zerosAbove_clzNat ha
  case ctzFits => exact fun a _ => fits (zerosBelow_ctzNat _ a).1
  case ctz => exact fun a _ => zerosBelow_ctzNat _ a
  case brevFits => exact fun a _ => brevNat_lt _ a
  case brev => exact fun a _ => reversedBits_brevNat _ a
end
